-- ==== Sys2Proof/Word.lean ====
section
/-! DEFINITION. The word types of the machine. -/
namespace Sys2Proof

/-- A byte of device memory, host memory, scratchpad, tile or shepherd data memory (R6). -/
abbrev Byte := BitVec 8

/-- A 32-bit word: a vector element (R199), a shepherd register (R71). -/
abbrev Word := BitVec 32

/-- A 64-bit word: an accumulator (R154), a dictionary data word (R385). -/
abbrev DWord := BitVec 64

end Sys2Proof
end

