-- ==== Sys2Proof/Syntax.lean ====
section
/-! DEFINITION. The commands: one constructor for each row of the table of operations and events. -/
namespace Sys2Proof

/-- A logical fold (R16): a command of a fold names the fold that performs it. -/
abbrev FoldId := BitVec 5

/-- Fields of sp.ldt and sp.stt (R56). -/
structure SpMove where
  tile : BitVec 4
  row0 : BitVec 7
  rows : BitVec 7
  line : BitVec 17
  mode : BitVec 2
  ss   : BitVec 2
  deriving DecidableEq, Repr

/-- Fields of mm.ldw (R137). -/
structure MmLdw where
  arr   : BitVec 4
  bank  : Bool
  wtile : BitVec 4
  rows  : BitVec 7
  wt    : Bool
  spl   : BitVec 2
  wrow0 : BitVec 7
  cks   : BitVec 2
  deriving DecidableEq, Repr

/-- Fields of mm.run.ws, mm.run.os and mm.run.is (R138). -/
structure MmRun where
  arr   : BitVec 4
  bank  : Bool
  tile  : BitVec 4
  row0  : BitVec 7
  rows  : BitVec 7
  swap  : Bool
  scale : BitVec 8
  spl   : BitVec 2
  wtile : BitVec 4
  wrow0 : BitVec 7
  deriving DecidableEq, Repr

/-- Fields of mm.drain (R139). -/
structure MmDrain where
  arr   : BitVec 4
  bank  : Bool
  dtile : BitVec 4
  arow0 : BitVec 7
  rows  : BitVec 7
  drow0 : BitVec 7
  dfmt  : BitVec 2
  rnd   : Bool
  tid   : BitVec 12
  spl   : BitVec 2
  cko   : BitVec 2
  cks   : BitVec 2
  deriving DecidableEq, Repr

/-- Fields of an arithmetic, logic, transcendental or reduction vx instruction (R204). -/
structure Vx where
  vd    : BitVec 5
  va    : BitVec 5
  vb    : BitVec 5
  vc    : BitVec 5
  count : BitVec 12
  form  : BitVec 3
  ba    : Bool
  bb    : Bool
  bc    : Bool
  sub   : BitVec 4
  deriving DecidableEq, Repr

/-- Fields of vx.ld and vx.st (R214). -/
structure VxMem where
  vd    : BitVec 5
  va    : BitVec 5
  count : BitVec 12
  form  : BitVec 3
  line  : BitVec 17
  ss    : BitVec 2
  mode  : BitVec 2
  pop   : Bool
  deriving DecidableEq, Repr

/-- Fields of vx.acc (R218). -/
structure VxAcc where
  vd    : BitVec 5
  count : BitVec 12
  form  : BitVec 3
  arrn  : BitVec 2
  bank  : Bool
  arow0 : BitVec 7
  spl   : BitVec 2
  deriving DecidableEq, Repr

/-- An error that has struck a stored line, or its symbol word, since the line was last looked at (R317): the line, counted from the
first one that the slot or period looks at, and how many more of its bytes are wrong; or it was read from, or written to, another
address. -/
structure LineErr where
  line  : BitVec 10
  bytes : BitVec 7
  moved : Bool
  deriving DecidableEq, Repr

/-- What the far end of a transfer finds (R181, R244): its tally compare passes or fails; or, of a transfer to or from a peer, the
remote share of the peer's die is 0 (R259), the address lies beyond the peer's memory (R261), or a line there cannot be corrected
(R329). No flit type carries the last three (log entry 83). -/
inductive EndResult where
  | good
  | crc
  | share (die : BitVec 2)
  | address (a : BitVec 41)
  | memory (port : BitVec 5) (a : BitVec 41)
  deriving DecidableEq, Repr

/-- What SECDED shows of the 64-bit words of a lane buffer's unit or of a staging block (R324): how many hold a single-bit error, and how
many a double-bit error. -/
structure Ecc where
  singles : Nat
  doubles : Nat
  deriving DecidableEq, Repr

/-- No word holds an error. -/
def Ecc.clean : Ecc := { singles := 0, doubles := 0 }

/-- Which reads of a job's start came back poisoned, uncorrectable or with a host page fault (R15, R367, R371). -/
structure JobReads where
  desc  : Bool
  /-- The program header. -/
  image : Bool
  /-- The fold section table. -/
  table : Bool
  rlist : Bool
  deriving DecidableEq, Repr

/-- Header of a flit that arrived on a link (R334); its CRC held (R336). -/
structure FlitIn where
  link  : BitVec 5
  src   : BitVec 12
  dst   : BitVec 12
  lane  : Bool
  tally : BitVec 8
  epoch : BitVec 8
  lseq  : BitVec 10
  lack  : BitVec 10
  nak   : Bool
  /-- Program fold that originated the flit (CTX, R342). -/
  fold  : BitVec 5
  /-- Buffers of a class and lane, key 2 CLASS + LANE, that have become free at the far end (R338, log entry 84). -/
  room  : List (BitVec 3 × BitVec 10)
  deriving DecidableEq, Repr

/-- A queue message on the rigging (R286, R345, R348): its channel, destination, slot, lines and the sender's
CRC-32C. -/
structure NetMsg where
  ch    : BitVec 4
  dfold : BitVec 5
  dq    : BitVec 4
  slot  : BitVec 6
  slotm1 : BitVec 4
  ncred : BitVec 7
  data  : List Byte
  crc   : BitVec 32
  deriving DecidableEq, Repr

/-- A tree message as its flits give it, ahead of its lines (R286, R345, R348). -/
structure TreeHead where
  ch    : BitVec 4
  dfold : BitVec 5
  dq    : BitVec 4
  slot  : BitVec 6
  slotm1 : BitVec 4
  ncred : BitVec 7
  crc   : BitVec 32
  deriving DecidableEq, Repr

/-- The tree message with its lines. -/
def TreeHead.msg (k : TreeHead) (data : List Byte) : NetMsg :=
  { ch := k.ch, dfold := k.dfold, dq := k.dq, slot := k.slot, slotm1 := k.slotm1, ncred := k.ncred, data := data, crc := k.crc }

/-- A global pennant and the tree that carries its increments (R351). -/
structure TreePn where
  tree : BitVec 6
  gpn  : BitVec 6
  deriving DecidableEq, Repr

/-- The tree that carries a group abort, and the node where the abort began (R352). -/
structure TreeAbort where
  tree   : BitVec 6
  origin : BitVec 12
  deriving DecidableEq, Repr

/-- A flit as it arrives on a link: its bytes, and whether the link found codewords in it that it cannot correct (R335, R336). -/
structure BadFlit where
  link  : BitVec 5
  /-- Flits of its packet that arrived before it and were accepted. -/
  before : List (List Byte)
  bytes : List Byte
  badCodewords : Bool
  deriving DecidableEq, Repr

/-- Class, type and context of a packet (R334, R338). -/
structure FlitKind where
  cls : BitVec 2
  typ : BitVec 5
  ctx : BitVec 49
  deriving DecidableEq, Repr

/-- A block of a die's staging SRAM (R266). -/
structure StageBlock where
  die   : BitVec 2
  block : BitVec 10
  deriving DecidableEq, Repr

/-- A tap copy: the fold that makes it, and whether its tally units agree on its data (R181, R425). -/
structure TapCopy where
  fold  : FoldId
  crcOk : Bool
  deriving DecidableEq, Repr

/-- A host read of the dictionary window: `len` bytes at an offset of BAR0 (R392). -/
structure WinRead where
  offset : BitVec 24
  len    : BitVec 8
  deriving DecidableEq, Repr

/-- What reaches a fold, and where it comes from: a message, a credit or a revocation. Of a credit, a revocation and a refused
message over the rigging, `ch` and `dfold` name the channel and the program fold that it belongs to. -/
inductive NetFrom where
  /-- Sent by a fold of this device. -/
  | here (g : FoldId) (ch : BitVec 4)
  /-- The last line of the first message that is landing at the queue has landed. -/
  | landed (q : BitVec 4)
  /-- Arrived over the rigging. -/
  | rig (h : FlitIn) (m : NetMsg)
  /-- A credit of a message of a multicast tree, over the rigging (R349). -/
  | tree (h : FlitIn) (tree : BitVec 6) (m : NetMsg)
  /-- A revocation over the rigging that answers a refused message: by its binding check (R285) or because its queue is
  closed (R296). -/
  | refused (h : FlitIn) (m : NetMsg) (binding : Bool)
  deriving DecidableEq, Repr

/-- Answer of the host to an ATS Translation Request (R362). -/
structure AtsAnswer where
  ubase : BitVec 64
  tbase : BitVec 64
  /-- Size as a power of two, 12 to 30 (4 KiB to 1 GiB). -/
  sizeLog : BitVec 5
  rd    : Bool
  wr    : Bool
  deriving DecidableEq, Repr

/-- Answer of the host to a PRI Page Request (R364). -/
inductive PriAnswer where
  | success | invalid | failure
  deriving DecidableEq, Repr

/-- A CXL.mem request of the host at a host physical address (R359); a write may carry poison (R357). -/
inductive CxlReq where
  | read  (addr : BitVec 64)
  | write (addr : BitVec 64) (data : List Byte) (poison : Bool)
  deriving DecidableEq, Repr

/-- A management request frame (R353) with the header of its flit. `hop` counts the hops that a directed frame has made, which the
frame's layout gives no place (log entry 85). -/
structure MgReq where
  h     : FlitIn
  directed : Bool
  hops  : List (BitVec 5)
  hop   : BitVec 4
  rid   : BitVec 16
  opc   : BitVec 2
  index : BitVec 16
  sub   : BitVec 8
  offset : BitVec 32
  len   : BitVec 8
  data  : List Byte
  deriving DecidableEq, Repr

/-- Target of a pennant write (R308). -/
inductive PnTarget where
  | pennant (f : FoldId) (pn : BitVec 6)
  | global (g : BitVec 6)
  deriving DecidableEq, Repr

/-- What one port reports of its training (R312, R313, R325). -/
structure PortReport where
  /-- Row of R311: 0 single device, 1 clamshell pair, 2 buffered stack, anything else no row. -/
  config : BitVec 8
  rawGiB : BitVec 8
  /-- The stored record's CRC-32C and format hold, and the verification pattern passes. -/
  storedOk : Bool
  /-- The highest of 48, 40 and 32 Gb/s at which the port trains; 0 when it fails at 32. -/
  best   : BitVec 8
  deriving DecidableEq, Repr

/-- The commands, in the order of the table. -/
inductive Instr where
  -- ctl slot (R50)
  | ctlNop (f : FoldId)
  | ctlBr (f : FoldId) (target : BitVec 12)
  | ctlLset (f : FoldId) (lc : BitVec 2) (count : BitVec 16)
  | ctlLoop (f : FoldId) (lc : BitVec 2) (target : BitVec 12)
  | ctlWait (f : FoldId) (tag : BitVec 12)
  | ctlStep (f : FoldId)
  | ctlArm (f : FoldId) (pn : BitVec 6) (base : BitVec 12) (span : BitVec 8)
  | ctlEnd (f : FoldId)
  | ctlYield (f : FoldId)
  -- qp slot (R53)
  | qNop (f : FoldId)
  | qSend (f : FoldId) (ch : BitVec 4) (lines : BitVec 4) (src : BitVec 17)
  | qRecv (f : FoldId) (q : BitVec 4)
  | qSel (f : FoldId) (ms ord rot : Bool) (mask : BitVec 16)
  | qPop (f : FoldId) (q : BitVec 4)
  | qSmr (f : FoldId) (mask : BitVec 16)
  | pnInc (f : FoldId) (fold : BitVec 5) (pn : BitVec 6) (inc : BitVec 8)
  | pnWait (f : FoldId) (pn : BitVec 6) (n : BitVec 8)
  | pnGinc (f : FoldId) (gpn : BitVec 6) (inc : BitVec 8)
  | pnGwait (f : FoldId) (gpn : BitVec 6) (n : BitVec 8)
  -- sp slot (R56)
  | spNop (f : FoldId)
  | spCfg (f : FoldId) (tile : BitVec 4) (cfg : BitVec 32)
  | spLdt (f : FoldId) (o : SpMove)
  | spStt (f : FoldId) (o : SpMove)
  | spRel (f : FoldId) (mask : BitVec 16)
  | spSset (f : FoldId) (ss : BitVec 2) (stride : BitVec 24)
  -- mm slot (R136-R140)
  | mmNop (f : FoldId)
  | mmLdw (f : FoldId) (o : MmLdw)
  | mmRunWs (f : FoldId) (o : MmRun)
  | mmRunOs (f : FoldId) (o : MmRun)
  | mmRunIs (f : FoldId) (o : MmRun)
  | mmDrain (f : FoldId) (o : MmDrain)
  | mmZero (f : FoldId) (arr : BitVec 4) (bank : Bool)
  -- vx slot (R204, R205)
  | vxNop (f : FoldId)
  | vxAdd (f : FoldId) (o : Vx)
  | vxSub (f : FoldId) (o : Vx)
  | vxMul (f : FoldId) (o : Vx)
  | vxFma (f : FoldId) (o : Vx)
  | vxMin (f : FoldId) (o : Vx)
  | vxMax (f : FoldId) (o : Vx)
  | vxAbs (f : FoldId) (o : Vx)
  | vxNeg (f : FoldId) (o : Vx)
  | vxCmp (f : FoldId) (o : Vx)
  | vxCvt (f : FoldId) (o : Vx)
  | vxAnd (f : FoldId) (o : Vx)
  | vxOr (f : FoldId) (o : Vx)
  | vxXor (f : FoldId) (o : Vx)
  | vxMov (f : FoldId) (o : Vx)
  | vxSel (f : FoldId) (o : Vx)
  | vxSll (f : FoldId) (o : Vx)
  | vxSrl (f : FoldId) (o : Vx)
  | vxSra (f : FoldId) (o : Vx)
  | vxExp2 (f : FoldId) (o : Vx)
  | vxLog2 (f : FoldId) (o : Vx)
  | vxRcp (f : FoldId) (o : Vx)
  | vxRsqrt (f : FoldId) (o : Vx)
  | vxLd (f : FoldId) (o : VxMem)
  | vxSt (f : FoldId) (o : VxMem)
  | vxAcc (f : FoldId) (o : VxAcc)
  | vxRsum (f : FoldId) (o : Vx)
  | vxRmax (f : FoldId) (o : Vx)
  | vxSmax (f : FoldId) (o : Vx)
  | vxTopk (f : FoldId) (o : Vx)
  -- shepherd (R73)
  | shAdd (f : FoldId) (ds sa sb : BitVec 5)
  | shSub (f : FoldId) (ds sa sb : BitVec 5)
  | shAnd (f : FoldId) (ds sa sb : BitVec 5)
  | shOr (f : FoldId) (ds sa sb : BitVec 5)
  | shXor (f : FoldId) (ds sa sb : BitVec 5)
  | shSll (f : FoldId) (ds sa sb : BitVec 5)
  | shSrl (f : FoldId) (ds sa sb : BitVec 5)
  | shSra (f : FoldId) (ds sa sb : BitVec 5)
  | shAddi (f : FoldId) (ds sa : BitVec 5) (imm : BitVec 15)
  | shAndi (f : FoldId) (ds sa : BitVec 5) (imm : BitVec 15)
  | shOri (f : FoldId) (ds sa : BitVec 5) (imm : BitVec 15)
  | shLui (f : FoldId) (ds : BitVec 5) (imm : BitVec 20)
  | shMul (f : FoldId) (ds sa sb : BitVec 5)
  | shMulh (f : FoldId) (ds sa sb : BitVec 5)
  | shSlt (f : FoldId) (ds sa sb : BitVec 5)
  | shSltu (f : FoldId) (ds sa sb : BitVec 5)
  | shSlti (f : FoldId) (ds sa : BitVec 5) (imm : BitVec 15)
  | shBeq (f : FoldId) (sa sb : BitVec 5) (off : BitVec 15)
  | shBne (f : FoldId) (sa sb : BitVec 5) (off : BitVec 15)
  | shBlt (f : FoldId) (sa sb : BitVec 5) (off : BitVec 15)
  | shBge (f : FoldId) (sa sb : BitVec 5) (off : BitVec 15)
  | shBltu (f : FoldId) (sa sb : BitVec 5) (off : BitVec 15)
  | shBgeu (f : FoldId) (sa sb : BitVec 5) (off : BitVec 15)
  | shJal (f : FoldId) (ds : BitVec 5) (imm : BitVec 20)
  | shJr (f : FoldId) (sa : BitVec 5)
  | shLw (f : FoldId) (ds sa : BitVec 5) (imm : BitVec 15)
  | shLh (f : FoldId) (ds sa : BitVec 5) (imm : BitVec 15)
  | shLhu (f : FoldId) (ds sa : BitVec 5) (imm : BitVec 15)
  | shLb (f : FoldId) (ds sa : BitVec 5) (imm : BitVec 15)
  | shLbu (f : FoldId) (ds sa : BitVec 5) (imm : BitVec 15)
  | shSw (f : FoldId) (sa sb : BitVec 5) (off : BitVec 15)
  | shSh (f : FoldId) (sa sb : BitVec 5) (off : BitVec 15)
  | shSb (f : FoldId) (sa sb : BitVec 5) (off : BitVec 15)
  | shLsp (f : FoldId) (ds sa : BitVec 5) (imm : BitVec 15)
  | shSsp (f : FoldId) (sa sb : BitVec 5) (off : BitVec 15)
  | shArm (f : FoldId) (sa : BitVec 5) (imm : BitVec 15)
  | shPinc (f : FoldId) (fold : BitVec 5) (pn : BitVec 6) (inc : BitVec 8)
  | shPwait (f : FoldId) (pn : BitVec 6) (n : BitVec 8)
  | shDvapp (f : FoldId) (ds sa : BitVec 5) (imm : BitVec 15)
  | shRstep (f : FoldId) (ds : BitVec 5) (seed high : Bool)
  | shTpush (f : FoldId) (ds sa sb : BitVec 5)
  | shTpop (f : FoldId) (ds sa sb : BitVec 5)
  | shHalt (f : FoldId)
  -- drover-owned cycles and landings (R107, R112, R247, R533)
  | shepherdScratchpadAccess (f : FoldId)
  | eccWriteBack (f : FoldId) (bank : BitVec 5)
  | mastLanding (f : FoldId) (seg : BitVec 2)
  | readLanding (f : FoldId) (t : BitVec 6)
  | sourceRead (f : FoldId) (t : BitVec 6)
  | remoteWriteLanding (g : FoldId) (t : BitVec 6)
  | tileLandingRow (f : FoldId) (t : BitVec 6)
  -- descriptors: the first unstarted descriptor of list `dl` (R227-R269)
  | descriptorBurst (f : FoldId) (dl1 : Bool) (block : BitVec 64)
  | end_ (f : FoldId) (dl : BitVec 2)
  | link (f : FoldId) (dl : BitVec 2)
  | sync (f : FoldId) (dl : BitVec 2)
  | read (f : FoldId) (dl : BitVec 2)
  | write (f : FoldId) (dl : BitVec 2)
  | msrc (f : FoldId) (dl : BitVec 2)
  | mtap (f : FoldId) (dl : BitVec 2)
  | fold (f : FoldId) (dl : BitVec 2)
  | chan (f : FoldId) (dl : BitVec 2)
  | predict (f : FoldId) (dl : BitVec 2)
  | claim (f : FoldId) (dl : BitVec 2)
  | transferComplete (f : FoldId) (t : BitVec 6) (r : EndResult)
  -- mast and staging (R255, R256, R266, R270)
  | msrcImageReady (die : BitVec 2)
  | mastUnitSend (seg : BitVec 2) (lane : BitVec 2) (ecc : Ecc)
  | mastStall (seg : BitVec 2) (lane : BitVec 2)
  | speculativeStageReady (b : StageBlock) (ecc : Ecc)
  | claimService (die : BitVec 2) (ecc : Ecc)
  -- memory ports (R319-R327)
  | dataSlot (port : BitVec 5) (errs : List LineErr)
  | readDataOut (port : BitVec 5) (errs : List LineErr)
  | maintenancePeriod (port : BitVec 5) (errs : List LineErr)
  | portFailure (port : BitVec 5)
  -- queues, pennants, verdicts, barrier and timers
  | messageArrival (f : FoldId) (src : NetFrom) (crcOk : Bool)
  | creditReturn (f : FoldId) (src : NetFrom)
  | queueRevocation (f : FoldId) (src : NetFrom)
  | bindingNotice (f : FoldId)
  | pennantIncrement (f : FoldId) (pn : BitVec 6) (srcs : List FoldId)
  | remoteTransferArrival (g : FoldId) (t : BitVec 6)
  | verdict (f : FoldId)
  | stepBarrier
  | noProgress (f : FoldId) (shepherd : Bool)
  | stallSpacing (f : FoldId)
  -- power, sensors, stalls, timeouts, clocks
  | powerWindow (q : BitVec 3)
  | droop (f : FoldId)
  | thermalLoop
  | sensorSample (readings memory : List Int)
  | heartbeat
  | treeStall (tree : BitVec 6)
  | riggingStall (link : BitVec 5) (cls : BitVec 2) (lane : Bool)
  | pageRequestTimeout (page : BitVec 64)
  | replayTimeout (link : BitVec 5)
  | linkFailure (link : BitVec 5)
  | watchdogExpiry
  | logFlush
  | sysRefclkLoss
  | rigRefclkLoss (k : BitVec 2)
  | cxlRefclkLoss
  -- jobs
  | doorbell (slot : BitVec 8) (ring : BitVec 2) (value : DWord)
  | jobStart (bad : JobReads)
  | foldLoad (f : FoldId)
  | startSignal
  | crc64Readback (n : BitVec 12) (addr : BitVec 64)
  | jobCommit
  | rsaOperation
  | completionRecord
  | preemption
  | foldPreemptStop (f : FoldId)
  | contextSaveComplete
  | resume (ring : BitVec 2) (seq : BitVec 64)
  | abort
  | abortComplete
  | hostAbort (slot : BitVec 8) (value : DWord)
  | tapFire (f : FoldId)
  | tapCopyComplete (c : TapCopy)
  -- host translation and CXL.mem
  | atsTranslationCompletion (a : AtsAnswer)
  | atsInvalidate (base : BitVec 64) (sizeLog : BitVec 6) (pasid : Option (BitVec 20))
  | pageResponse (page : BitVec 64) (a : PriAnswer)
  | birsp (line : BitVec 64)
  | cxlMemRequest (r : CxlReq)
  -- SPDM
  | getVersion
  | getCapabilities
  | negotiateAlgorithms
  | getDigests
  | getCertificate (slot : BitVec 4) (offset len : BitVec 16)
  | challenge (slot : BitVec 4) (nonce : List Byte)
  | getMeasurements (index : BitVec 8) (signed : Bool) (nonce : List Byte)
  -- dictionary
  | dictRead (r : WinRead)
  | dictWrite (offset : BitVec 24) (data : List Byte)
  | lookoutWriteComplete (slot : BitVec 8)
  | managementRequest (r : MgReq)
  | i3cPrivateWrite (data : List Byte)
  | i3cPrivateRead
  | setdasa (static dynamic : BitVec 7)
  | statusClear (slot : BitVec 8) (value : DWord)
  | submissionRingConfig (slot : BitVec 8) (ring : BitVec 2) (sub : BitVec 8) (value : DWord)
  | completionRingConfig (slot : BitVec 8) (sub : BitVec 8) (value : DWord)
  | completionRingHead (slot : BitVec 8) (value : DWord)
  | coherentWindowWrite (slot : BitVec 8) (n : BitVec 4) (value : DWord)
  | routeTableWrite (slot : BitVec 8) (offset : BitVec 32) (value : DWord)
  -- firmware and lock
  | firmwareSlotWrite (slot : BitVec 8) (offset : BitVec 32) (value : DWord)
  | sectorProgrammed
  | firmwareVerify (slot : BitVec 8)
  | firmwareActivate (slot : BitVec 8)
  | firmwareAbort (slot : BitVec 8)
  | firmwareCommit (slot : BitVec 8)
  | securityLock (slot : BitVec 8)
  -- debug and trace
  | haltExecute (slot : BitVec 8) (f : FoldId)
  | haltAll (slot : BitVec 8) (f : FoldId)
  | debugStep (slot : BitVec 8) (f : FoldId) (n : DWord)
  | debugResume (slot : BitVec 8) (f : FoldId)
  | foldHalt (f : FoldId)
  | breakpoint (f : FoldId)
  | foldStateWrite (slot : BitVec 8) (f : FoldId) (sub : BitVec 8) (offset : BitVec 32) (value : DWord)
  | pennantWrite (slot : BitVec 8) (t : PnTarget) (value : DWord)
  | traceBufferWrite (f : FoldId)
  -- resets
  | deviceResetCommand (slot : BitVec 8)
  | foldBlockReset (slot : BitVec 8) (value : DWord)
  | quadBlockReset (slot : BitVec 8) (value : DWord)
  | blockResetComplete (f : FoldId) (pass : Bool)
  -- rigging
  | remoteWrite (h : FlitIn) (addr : BitVec 41) (data : List Byte) (crcOk : Bool)
  | remoteReadRequest (h : FlitIn) (req : BitVec 16) (addr : BitVec 41) (linesm1 : BitVec 17) (gstr : BitVec 8)
  | remoteReadData (h : FlitIn) (req : BitVec 16) (data : List Byte)
  | treeMessage (h : FlitIn) (tree : BitVec 6) (m : TreeHead) (data : List Byte)
  | globalPennantIncrement (h : FlitIn) (g : TreePn) (inc : BitVec 16) (down : Bool)
  | groupAbort (h : FlitIn) (a : TreeAbort) (code : BitVec 16) (down : Bool)
  | resetNotice (h : FlitIn)
  | idleFlit (h : FlitIn)
  | linkUp (link : BitVec 5) (node : BitVec 12) (farLink : BitVec 5) (epoch : BitVec 8)
  | pgoodFall
  | pgoodRise (roleSel testEn : Bool)
  | resetN (lowNs : BitVec 32)
  | perstN
  | cxlHotReset
  | cxlLinkDown
  | resetHoldoffEnd
  | resetRelease
  | lookoutBoot
  | portTraining (ports : List PortReport)
  | foldSelfTest (q : BitVec 3) (failed : BitVec 4) (repairs : BitVec 16)
  | deviceReady (dies : BitVec 8)
  -- later rows
  | dueResultLands (f : FoldId)
  | supplyRecovers (f : FoldId)
  | sysRefclkAppears
  | cxlLinkUp
  | flitDiscarded (b : BadFlit)
  | transitFlit (h : FlitIn) (k : FlitKind) (payload : List Byte)
  | trainingRecordWritten
  | reservedOpcode (f : FoldId)
  | illegalInstructionEncoding (f : FoldId)
  | reservedDescriptorKind (f : FoldId) (dl : BitVec 2)
  | uncorrectableLookoutError
  deriving DecidableEq, Repr

end Sys2Proof
end

