-- ==== Sys2Proof/Machine/Bits.lean ====
section
/-! DEFINITION. Bit fields, sign extension and byte order (R6). -/
namespace Sys2Proof.Machine

/-- Bits `lo + n - 1` to `lo` of `x`. -/
def fld (x lo n : Nat) : Nat := x / 2 ^ lo % 2 ^ n

/-- Bit `i` of `x`. -/
def bitOf (x i : Nat) : Bool := x / 2 ^ i % 2 == 1

/-- A bit as a number. -/
def b2n (b : Bool) : Nat := if b then 1 else 0

/-- Two's complement value of the low `n` bits of `x`. -/
def sext (n x : Nat) : Int :=
  let y := x % 2 ^ n
  if 2 * y < 2 ^ n then (y : Int) else (y : Int) - (2 ^ n : Nat)

/-- The low `n` bits of an integer, as a natural number. -/
def wrap (n : Nat) (x : Int) : Nat := (x % ((2 ^ n : Nat) : Int)).toNat

/-- Little-endian value of bytes, byte 0 first (R6). -/
def leNat : List Byte → Nat
  | [] => 0
  | b :: t => b.toNat + 256 * leNat t

/-- The `n` little-endian bytes of `x` (R6). -/
def leBytes : Nat → Nat → List Byte
  | 0, _ => []
  | n + 1, x => BitVec.ofNat 8 x :: leBytes n (x / 256)

/-- Big-endian value of bytes. -/
def beNat (l : List Byte) : Nat := leNat l.reverse

/-- The `n` big-endian bytes of `x` (R195, R486). -/
def beBytes (n x : Nat) : List Byte := (leBytes n x).reverse

/-- Places `v` (cut to `n` bits) at bit `lo`. -/
def at_ (lo n v : Nat) : Nat := v % 2 ^ n * 2 ^ lo

/-- Number of set bits among the low `n`. -/
def popCount (x n : Nat) : Nat := ((List.range n).filter fun i => bitOf x i).length

/-- Set bits among the low `n`, ascending. -/
def setBits (x n : Nat) : List Nat := (List.range n).filter fun i => bitOf x i

/-- `x` with bit `i` set, or cleared. -/
def setBit (x i : Nat) (v : Bool) : Nat :=
  if bitOf x i = v then x else if v then x + 2 ^ i else x - 2 ^ i

/-- Saturating increment of a counter `bits` wide. -/
def satAdd (bits x y : Nat) : Nat := min (x + y) (2 ^ bits - 1)

/-- ASCII characters as bytes. -/
def ascii (s : String) : List Byte := s.toList.map fun c => BitVec.ofNat 8 c.toNat

/-- A byte list cut or padded with zero bytes to `n`. -/
def padTo (n : Nat) (l : List Byte) : List Byte := (l ++ List.replicate n 0).take n

end Sys2Proof.Machine
end

