-- ==== Sys2Proof/Machine/Digest.lean ====
section
/-! DEFINITION. Check values: CRC-32C (R180), CRC-64 (R192), SHA-512 (R195) and the seed mixer (R35). -/
namespace Sys2Proof.Machine

/-- One bit of the reflected CRC-32C register (R180). -/
def crc32cBit (c : Nat) : Nat := if c % 2 = 1 then (c / 2) ^^^ 0x82F63B78 else c / 2

/-- One byte through the CRC-32C register. -/
def crc32cByte (c : Nat) (b : Byte) : Nat :=
  crc32cBit (crc32cBit (crc32cBit (crc32cBit (crc32cBit (crc32cBit (crc32cBit (crc32cBit (c ^^^ b.toNat))))))))

/-- The running register of a CRC-32C over more bytes (R180: a resumed stream goes on from the saved value). -/
def crc32cRun (c : Nat) (l : List Byte) : Nat := l.foldl crc32cByte c

/-- CRC-32C: initial value and final exclusive-or all ones (R180). -/
def crc32c (l : List Byte) : Nat := crc32cRun 0xFFFFFFFF l ^^^ 0xFFFFFFFF

/-- One bit of the CRC-64 register (R192). -/
def crc64Bit (c : Nat) : Nat :=
  if c / 2 ^ 63 % 2 = 1 then (c * 2 % 2 ^ 64) ^^^ 0x42F0E1EBA9EA3693 else c * 2 % 2 ^ 64

def crc64Byte (c : Nat) (b : Byte) : Nat :=
  crc64Bit (crc64Bit (crc64Bit (crc64Bit (crc64Bit (crc64Bit (crc64Bit (crc64Bit (c ^^^ (b.toNat * 2 ^ 56)))))))))

/-- CRC-64, ECMA-182 polynomial, initial value 0, no reflection, no final exclusive-or (R192). -/
def crc64 (l : List Byte) : Nat := l.foldl crc64Byte 0

/-- mix64 of R35. -/
def mix64 (x : Nat) : Nat :=
  let x := x % 2 ^ 64
  let x := x ^^^ (x / 2 ^ 33)
  let x := x * 0xFF51AFD7ED558CCD % 2 ^ 64
  let x := x ^^^ (x / 2 ^ 33)
  let x := x * 0xC4CEB9FE1A85EC53 % 2 ^ 64
  x ^^^ (x / 2 ^ 33)

/-- step_seed of R35. -/
def stepSeed (seed step : Nat) : Nat := mix64 (seed ^^^ mix64 step)

/-- tile_seed of R35. -/
def tileSeed (seed step tileId : Nat) : Nat :=
  mix64 (stepSeed seed step ^^^ (tileId * 0x9E3779B97F4A7C15 % 2 ^ 64))

/-! SHA-512 as the standard that R195 names gives it (log entry 18). -/

/-- The primes below `n`, by trial division. -/
def primesTo (n : Nat) : List Nat :=
  (List.range n).filter fun p => decide (2 ≤ p) && ((List.range p).drop 2).all fun d => decide (p % d ≠ 0)

/-- The largest `r` with `r ^ e ≤ n`, found bit by bit from bit `k - 1` down, above the bits found in `r`. -/
def rootBits (e n : Nat) : Nat → Nat → Nat
  | 0, r => r
  | k + 1, r => rootBits e n k (if (r + 2 ^ k) ^ e ≤ n then r + 2 ^ k else r)

/-- The first 64 bits of the fractional part of the `e`-th root of `p`, for roots below 32. -/
def rootFraction (e p : Nat) : Nat := rootBits e (p * 2 ^ (64 * e)) 69 0 % 2 ^ 64

/-- The 80 round constants: the fractional parts of the cube roots of the first 80 primes, of which 409 is the last. -/
def roundConstants : List Nat := (primesTo 410).map (rootFraction 3)

/-- The eight initial words: the fractional parts of the square roots of the first eight primes, of which 19 is the last. -/
def initialWords : List Nat := (primesTo 20).map (rootFraction 2)

def rotr64 (x n : Nat) : Nat := (x / 2 ^ n) + x % 2 ^ n * 2 ^ (64 - n)

/-- The next word of the message schedule; the words so far stand newest first. -/
def shaWord (w : List Nat) : Nat :=
  let a := nth 0 w 1
  let b := nth 0 w 14
  let s1 := rotr64 a 19 ^^^ rotr64 a 61 ^^^ (a / 2 ^ 6)
  let s0 := rotr64 b 1 ^^^ rotr64 b 8 ^^^ (b / 2 ^ 7)
  (s1 + nth 0 w 6 + s0 + nth 0 w 15) % 2 ^ 64

def shaExtend : Nat → List Nat → List Nat
  | 0, w => w
  | n + 1, w => shaExtend n (shaWord w :: w)

/-- One round over the eight working words. -/
def shaRound (v : List Nat) (kw : Nat) : List Nat :=
  match v with
  | [a, b, c, d, e, f, g, h] =>
    let s1 := rotr64 e 14 ^^^ rotr64 e 18 ^^^ rotr64 e 41
    let ch := (e &&& f) ^^^ ((2 ^ 64 - 1 - e) &&& g)
    let t1 := h + s1 + ch + kw
    let s0 := rotr64 a 28 ^^^ rotr64 a 34 ^^^ rotr64 a 39
    let mj := (a &&& b) ^^^ (a &&& c) ^^^ (b &&& c)
    [(t1 + s0 + mj) % 2 ^ 64, a, b, c, (d + t1) % 2 ^ 64, e, f, g]
  | v => v

def shaBlock (h : List Nat) (blk : List Byte) : List Nat :=
  let w16 := (pieces 8 blk).map beNat
  let w := (shaExtend 64 w16.reverse).reverse
  let v := (List.zipWith (· + ·) roundConstants w).foldl shaRound h
  List.zipWith (fun x y => (x + y) % 2 ^ 64) h v

/-- SHA-512 of a byte string, 64 bytes. -/
def sha512 (m : List Byte) : List Byte :=
  let pad := (127 + 112 - m.length % 128) % 128
  let msg := m ++ [0x80] ++ List.replicate pad 0 ++ beBytes 16 (8 * m.length)
  ((pieces 128 msg).foldl shaBlock initialWords).flatMap (beBytes 8)

end Sys2Proof.Machine
end

