-- ==== Sys2Proof/Config.lean ====
section
/-! DEFINITION. What the spec leaves open: free values without a body, and the few numbers the grade fixes. -/
namespace Sys2Proof

/-- The grades of the AK960 (R439, OD 0x1010.01). -/
inductive Grade where
  | F | T | H
  deriving DecidableEq, Repr

/-- Folds, quads, rigging links and memory ports of a grade (R2, R439). -/
def Grade.folds : Grade → Nat
  | .F => 32 | .T => 28 | .H => 24

def Grade.quads (g : Grade) : Nat := g.folds / 4

def Grade.links : Grade → Nat
  | .F => 32 | .T => 16 | .H => 8

def Grade.ports : Grade → Nat
  | .F | .T => 24 | .H => 16

/-- The feature mask of a grade (R14). -/
def Grade.features : Grade → Nat
  | .F => 0x3FF | .T => 0x3FB | .H => 0x3F8

/-- OD 0x1010.01: the grade's code (R407). -/
def Grade.code : Grade → Nat
  | .F => 0 | .T => 1 | .H => 2

/-- The source of free values (log entry 7): nothing in Lean can evaluate it.
The machine applies it to a counter held in the state, so each use is a fresh value. -/
opaque Config.free : Nat → Nat

/-- A fresh free value of `w` bits. -/
def Config.freeBits (w n : Nat) : BitVec w := BitVec.ofNat w (Config.free n)

/-- Which FP32 neighbour of the exact result vx.exp2 gives for an input: a fixed function that the contract
major version names and the manual does not list (R212, R213, log entry 16). -/
opaque Config.exp2Up : Word → Bool

/-- The same for vx.log2 (R212, R213, log entry 16). -/
opaque Config.log2Up : Word → Bool

/-- The same for vx.rsqrt (R212, R213, log entry 16). -/
opaque Config.rsqrtUp : Word → Bool

/-- The opcode, bits 31:25 of a shepherd word, of each instruction of R73 by its place in that table; the manual lists no
number (R73, log entry 13). -/
opaque Config.shOpcode : Nat → BitVec 7

/-- The high half of a product that sh.mulh gives where its signed and unsigned readings differ, which R73 does not settle (log
entry 15). -/
opaque Config.shMulh : Word → Word → Word

/-- The symbol word of a payload line at a device address: four check bytes of the code over GF(2^8) that R317 names and does not
give by its polynomials (log entry 86). -/
opaque Config.symbolWord : List Byte → Nat → BitVec 32

/-- The fixed pattern of line `i` of the group lines of group `k` (R316), which the manual does not give (log entry 86). -/
opaque Config.groupLine : Nat → Nat → List Byte

/-- Buffers of a class and lane, key 2 CLASS + LANE, that the far end of a link offers when the link comes up (R338, log entry 84). -/
opaque Config.linkRoom : Nat → Nat

/-- The CTX field of a flit, from the numbers that its type carries there; the manual does not place them (R334, log entry 67). -/
opaque Config.flitCtx : List Nat → BitVec 49

/-- Detail word of an address fault that has no address to name: an absent queue or channel, or a remote destination
without a route (R287, R291, R342, R418, log entry 7). -/
opaque Config.absentDetail : Nat → Nat

/-- Width of a bundle of links whose width code 11 the manual reserves (R341, log entry 22). -/
opaque Config.reservedWidth : Nat

/-- AES-256-GCM as R491 names it, without the standard's tables (log entry 18): the text that a key, an initial value, a wrapped text and a
tag give, when the tag is valid. -/
opaque Config.gcmOpen : BitVec 256 → Nat → List Byte → Nat → Option (List Byte)

/-- The same standard's wrapping of a text under a key and an initial value: wrapped text and tag (R491, log entry 18). -/
opaque Config.gcmSeal : BitVec 256 → Nat → List Byte → List Byte × Nat

/-- The RSA-4096 key pair that the bytes of the generator give: modulus and private exponent (R491, log entry 18). -/
opaque Config.rsaKeyPair : List Byte → Nat × Nat

/-- The DER bytes of the device certificate for a serial number and a modulus (R492, log entry 18). -/
opaque Config.deviceCert : List Byte → Nat → List Byte

/-- The boot ROM's contents, which measurement 1 hashes (R494); the manual does not list them (log entry 18). -/
opaque Config.bootRom : List Byte

end Sys2Proof
end

