-- ==== Sys2Proof/Machine/Identity.lean ====
section
/-! DEFINITION. The lookout's flash records (R468, R483), the signatures of firmware, digests and SPDM (R195, R486, R492), and the identity
of a device (R491, R492). -/
namespace Sys2Proof.Machine

/-! ### Records in flash (R468, R483) -/

/-- A record that flash keeps in two alternating copies, each with its CRC-32C; a copy whose CRC fails is none. -/
structure Twin (α : Type) where
  a : Option α
  b : Option α
  /-- Copy `b` is the newer. -/
  newer : Bool
  deriving DecidableEq, Repr

/-- Both copies hold `v`. -/
def Twin.of {α : Type} (v : α) : Twin α := { a := some v, b := some v, newer := false }

/-- The newer copy whose CRC holds; `d` where both fail. -/
def Twin.now {α : Type} (t : Twin α) (d : α) : α := ((if t.newer then t.b.or t.a else t.a.or t.b)).getD d

/-- A write goes to the copy that does not hold the present value. -/
def Twin.write {α : Type} (v : α) (t : Twin α) : Twin α :=
  if (if t.newer then t.b.isSome else t.a.isNone) then { t with a := some v, newer := false } else { t with b := some v, newer := true }

/-- A write that is cut short leaves the copy that it goes to half written. -/
def Twin.tear {α : Type} (t : Twin α) : Twin α :=
  if (if t.newer then t.b.isSome else t.a.isNone) then { t with a := none } else { t with b := none }

/-- What an address of the flash belongs to (R483). -/
inductive FlashPart where
  | slot (n : Nat)
  | log
  | records
  | security
  deriving DecidableEq, Repr

/-- The map of the 16 MiB flash: first address, bytes and part (R483). -/
def flashMap : List (Nat × Nat × FlashPart) :=
  [(0x0000000, 0x400000, .slot 0), (0x0400000, 0x400000, .slot 1), (0x0800000, 0x600000, .log), (0x0E00000, 0x100000, .records),
    (0x0F00000, 0x100000, .security)]

/-- Bytes of a part of the flash. -/
def flashBytes (p : FlashPart) : Nat := sumNat ((flashMap.filter fun e => decide (e.2.2 = p)).map fun e => e.2.1)

/-- Bytes of an erase sector. -/
def sectorBytes : Nat := 65536

/-! ### RSASSA-PSS with SHA-512, MGF1 with SHA-512 and a 64-byte salt (R195, R486, R492; RFC 8017, log entry 18) -/

/-- `b ^ e` modulo `n`, for exponents of at most `k` bits. -/
def powMod (n : Nat) : Nat → Nat → Nat → Nat
  | 0, _, _ => 1 % n
  | k + 1, b, e =>
    let r := powMod n k (b * b % n) (e / 2)
    if e % 2 = 1 then b * r % n else r

/-- The mask generation function: `n` bytes from a seed. -/
def mgf1 (seed : List Byte) (n : Nat) : List Byte :=
  ((List.range ((n + 63) / 64)).flatMap fun i => sha512 (seed ++ beBytes 4 i)).take n

/-- The hash H of an encoded message. -/
def pssHash (msg salt : List Byte) : List Byte := sha512 (List.replicate 8 0 ++ sha512 msg ++ salt)

/-- Bytes of the masked data block of a 4,096-bit key, and of its zero padding. -/
def pssBlock : Nat := 447
def pssZeros : Nat := 382

/-- The exclusive-or of two byte strings. -/
def xorBytes (a b : List Byte) : List Byte := List.zipWith (· ^^^ ·) a b

/-- The first byte without its top bit: an encoded message has 4,095 bits. -/
def clearTop (l : List Byte) : List Byte :=
  match l with
  | [] => []
  | b :: t => (b &&& 0x7F) :: t

/-- The encoded message of `msg` under `salt`. -/
def pssEncode (msg salt : List Byte) : List Byte :=
  let h := pssHash msg salt
  let db := List.replicate pssZeros 0 ++ [1] ++ salt
  clearTop (xorBytes db (mgf1 h pssBlock)) ++ h ++ [0xBC]

/-- An encoded message fits `msg`. -/
def pssFits (msg em : List Byte) : Bool :=
  let m := em.take pssBlock
  let h := (em.drop pssBlock).take 64
  let db := clearTop (xorBytes m (mgf1 h pssBlock))
  decide (em.drop 511 = [0xBC]) && decide (clearTop m = m) && decide (db.take 383 = List.replicate pssZeros 0 ++ [1]) &&
    decide (pssHash msg (db.drop 383) = h)

/-- A signature verifies under a modulus with the public exponent 65,537; both are big-endian (R486). -/
def pssVerify (modulus sig msg : List Byte) : Bool :=
  let n := beNat modulus
  decide (beNat sig < n) && pssFits msg (beBytes 512 (powMod n 17 (beNat sig) 65537))

/-- The signature of `msg` under a private exponent `d` of the modulus `n`. -/
def pssSign (n d : Nat) (msg salt : List Byte) : List Byte := beBytes 512 (powMod n 4096 (beNat (pssEncode msg salt)) d)

/-! ### HMAC and HMAC_DRBG with SHA-512 (R491; NIST SP 800-90A, log entry 18) -/

/-- A key as HMAC pads it to a block. -/
def hmacKey (k : List Byte) (pad : Byte) : List Byte :=
  let k := if 128 < k.length then sha512 k else k
  (k ++ List.replicate (128 - k.length) 0).map (· ^^^ pad)

def hmac (k m : List Byte) : List Byte := sha512 (hmacKey k 0x5C ++ sha512 (hmacKey k 0x36 ++ m))

/-- The working state of the generator: key and value. -/
structure Drbg where
  k : List Byte
  v : List Byte
  deriving DecidableEq, Repr

def Drbg.update (data : List Byte) (g : Drbg) : Drbg :=
  let k := hmac g.k (g.v ++ [0] ++ data)
  let v := hmac k g.v
  if data.isEmpty then { k := k, v := v }
  else
    let k := hmac k (v ++ [1] ++ data)
    { k := k, v := hmac k v }

/-- The generator seeded from the entropy source. -/
def Drbg.seed (entropy : List Byte) : Drbg :=
  Drbg.update entropy { k := List.replicate 64 0, v := List.replicate 64 1 }

/-- `64 n` bytes of the generator. -/
def Drbg.take : Nat → Drbg → List Byte
  | 0, _ => []
  | n + 1, g =>
    let v := hmac g.k g.v
    v ++ Drbg.take n { g with v := v }

/-! ### The identity (R491-R493) -/

/-- One copy of the private key, wrapped with AES-256-GCM. -/
structure Wrapped where
  iv   : BitVec 96
  text : List Byte
  tag  : BitVec 128
  deriving DecidableEq, Repr

/-- A certificate of the chain: its DER bytes, and what they say of the subject: its serial number and its modulus (R492). -/
structure Cert where
  der     : List Byte
  serial  : List Byte
  modulus : Nat
  deriving DecidableEq, Repr

/-- What provisioning leaves in fuses and in the security area of flash (R483, R491): the fuse that forbids a second one, the fused secret,
both wrapped copies of the private exponent, and the chain of root, device authority and device certificate. -/
structure Identity where
  provisioned : Bool
  secret : BitVec 256
  wrap0  : Wrapped
  wrap1  : Wrapped
  root   : Cert
  authority : Cert
  device : Cert
  deriving DecidableEq, Repr

/-- The chain as concatenated DER (R492, R498). -/
def Identity.chain (x : Identity) : List Byte := x.root.der ++ x.authority.der ++ x.device.der

/-- The private exponent that a copy yields: its tag must be valid (R493). -/
def Wrapped.opened (secret : BitVec 256) (w : Wrapped) : Option Nat :=
  (Config.gcmOpen secret w.iv.toNat w.text w.tag.toNat).map beNat

/-- The private key that the lookout has: of the first copy whose tag is valid (R493). -/
def Identity.privateKey (x : Identity) : Option Nat := (x.wrap0.opened x.secret).or (x.wrap1.opened x.secret)

/-- Provisioning (R491, R492): Hokuser's step before a device is delivered, for which the command table has no row. The key pair comes from
the generator seeded by the entropy source; the private exponent is stored in two wrapped copies, and the device certificate carries the
serial number and the modulus. The burnt fuse forbids a second one. -/
def Identity.provision (entropy serial : List Byte) (root authority : Cert) (x : Identity) : Identity :=
  if x.provisioned then x
  else
    let key := Config.rsaKeyPair ((Drbg.seed entropy).take 16)
    let wrap := fun (iv : Nat) =>
      let c := Config.gcmSeal x.secret iv (beBytes 512 key.2)
      ({ iv := BitVec.ofNat 96 iv, text := c.1, tag := BitVec.ofNat 128 c.2 } : Wrapped)
    { x with provisioned := true, wrap0 := wrap 0, wrap1 := wrap 1, root := root, authority := authority,
             device := { der := Config.deviceCert serial key.1, serial := serial, modulus := key.1 } }

end Sys2Proof.Machine
end

