-- ==== Sys2Proof/Machine/State.lean ====
section
/-! DEFINITION. The state of the device: everything the spec gives it, as plain data, and its value right after reset. -/
namespace Sys2Proof.Machine

/-! ### Fault reports -/

/-- A fault report: the fields of the fault record that the detecting unit knows (R416). -/
structure FaultRep where
  code   : Nat
  die    : Nat
  lv     : Bool
  fold   : Nat
  lfold  : Nat
  engine : Nat
  akind  : Nat
  addr   : Nat
  tag    : BitVec 12
  step   : Nat
  cycle  : Nat
  detail : Nat
  origin : Nat
  deriving DecidableEq, Repr

/-! ### The execute engine -/

/-- What a fold or its shepherd waits for (R22, R75, R182, R307). -/
inductive WaitOn where
  | token (tag : BitVec 12)
  | recv (q : BitVec 4)
  | sel (set : BitVec 16)
  | send (ch : BitVec 4)
  | pn (pn : BitVec 6) (n : BitVec 8)
  | gpn (g : BitVec 6) (n : BitVec 8)
  | step
  | arm (pn : BitVec 6)
  | end_
  | shPwait (pn : BitVec 6) (n : BitVec 8)
  | shDvapp (list : Nat)
  | shTpush
  deriving DecidableEq, Repr

/-- A wait in progress and its no-progress timer (R27, R305). -/
structure Wait where
  on     : WaitOn
  cycles : Nat
  /-- The condition has been observed to hold at the end of a cycle of the wait (R23). -/
  seen   : Bool
  /-- The cycle of the fold in which the wait began. -/
  began  : Nat
  /-- Its beginning has been traced (R527). -/
  noted  : Bool
  deriving DecidableEq, Repr

/-- A tally hold (R182): the fault held, its tally unit (R46: 0 drover in, 1 mast in, 2 queue in, 3 queue out, 4 drain
out), the sender where the stream has one, and the cycles of its no-progress timer. -/
structure TallyHold where
  rep    : FaultRep
  unit   : Nat
  peer   : Option (Bool × Nat)
  cycles : Nat
  deriving DecidableEq, Repr

/-- One product operand: mantissa and exponent (R148, R153). -/
structure MX where
  m : Int
  x : Int
  deriving DecidableEq, Repr

/-- One weight of a cell: mantissa, exponent, and its dense position within the group for 2:4 (R83). -/
structure WCell where
  m   : Int
  x   : Int
  pos : Nat
  deriving DecidableEq, Repr

/-- The format classes of a product (R119). -/
inductive Cls where
  | c8 | c4 | sp | c16
  deriving DecidableEq, Repr

/-- Verdicts (R172). -/
inductive VKind where
  | pass | fail | trunc | sat
  deriving DecidableEq, Repr

/-- The vector operations that work element by element (R205). -/
inductive VxOp where
  | add | sub | mul | fma | min | max | abs | neg | cmp | cvt
  | and_ | or_ | xor_ | mov | sel | sll | srl | sra
  | exp2 | log2 | rcp | rsqrt
  deriving DecidableEq, Repr

/-- The vector operations over a row (R220-R224). -/
inductive VxRow where
  | rsum | rmax | smax | topk
  deriving DecidableEq, Repr

/-- A product under way: what mm.run fixed at issue (R117, R123). -/
structure RunRec where
  os    : Bool
  cls   : Cls
  arr   : Nat
  bank  : Nat
  tile  : Nat
  row0  : Nat
  steps : Nat
  scale : Int
  parts : Nat
  wtile : Nat
  wrow0 : Nat
  /-- The first array of an mm.run.os: its port reads the weight rows (R118). -/
  lead  : Bool
  /-- Weights of the buffers the run uses (R126, R128): key 128k + j, the 16-bit class with low parts in `wlow`. -/
  w     : List (Nat × List WCell)
  wlow  : List (Nat × List WCell)
  /-- The check column the run uses (R171): key 128n + k. -/
  ccol  : List (Nat × Nat)
  /-- Parts whose weights hold a non-finite mark (R152). -/
  marks : Nat
  deriving DecidableEq, Repr

/-- The contribution of one step, column by column of a part (R154, R170, R174). -/
structure StepRec where
  arr   : Nat
  bank  : Nat
  os    : Bool
  parts : Nat
  /-- Accumulator row of the step (weight- and input-stationary). -/
  row   : Nat
  /-- For each column of a part still to come: accumulator index and exact, cut sum. -/
  cols  : List (List (Nat × Int))
  /-- For each column still to come, the residue row terms: column and term (R174). -/
  rr    : List (List (Nat × Nat))
  col   : Nat
  /-- Per part: truncated contributions, non-finite mark, residue column term (R154, R152, R170). -/
  trunc : List Nat
  nonf  : List Bool
  rc    : List Nat
  deriving DecidableEq, Repr

/-- A drain or vx.acc under way (R139, R219). -/
structure DrainRec where
  arr   : Nat
  bank  : Nat
  vx    : Bool
  row0  : Nat
  rows  : Nat
  dtile : Nat
  drow0 : Nat
  dfmt  : Nat
  rnd   : Bool
  /-- The tile seed of the step counter at issue (R35, R65, R162). -/
  tseed : Nat
  parts : Nat
  cko   : Nat
  cks   : Nat
  vd    : Nat
  scale : Int
  os    : Bool
  /-- Rows read so far compare equal, per part, with the first mismatch. -/
  bad   : List (Option Nat)
  colSum : List Nat
  /-- Drained values kept for the residues of R176: rows of (mantissa, exponent). -/
  kept  : List (List MX)
  /-- Its number among the verdicts started (R178). -/
  id    : Nat
  tag   : BitVec 12
  baddr : Nat
  issue : Nat
  deriving DecidableEq, Repr

/-- An mm.ldw under way (R137). -/
structure LdwRec where
  /-- Named arrays, and for each the buffer it writes: masks. -/
  arr   : Nat
  buf   : Nat
  cls   : Cls
  fmt   : Nat
  tile  : Nat
  row0  : Nat
  rows  : Nat
  wt    : Bool
  parts : Nat
  deriving DecidableEq, Repr

/-- What becomes due in a fold, one indivisible part at a time (R66, R70). A read part schedules its later parts. -/
inductive DueOp where
  | cfg (tile : Nat) (word : BitVec 32)
  | rel (mask : BitVec 16)
  | sset (ss : Nat) (stride : BitVec 24)
  | zero (arrs bank : Nat)
  | selres (q : BitVec 4)
  /-- Read row `j` of an sp.ldt: the lines in its latch (R100) and its exponent line. -/
  | ldt (o : SpMove) (stride : Int) (cfg : BitVec 32) (j : Nat) (latch : List (Nat × List Byte)) (exps : List Byte)
  /-- Write a tile row: bytes and the exponent bytes it carries. -/
  | tileRow (tile row : Nat) (bytes exps : List Byte)
  /-- Read row `j` of an sp.stt; `gathered` holds the bytes gathered for lines not yet requested (byte address and
  bytes), `exps` the exponent words gathered. -/
  | stt (o : SpMove) (stride : Int) (cfg : BitVec 32) (j : Nat) (gathered exps : List (Nat × List Byte))
  /-- Two requests to one bank meet in this cycle (R99): the bundle at fault, the other one and the bank. -/
  | bankFault (baddr other bank : Nat)
  /-- Write scratchpad bytes at byte addresses. -/
  | spWrite (chunks : List (Nat × List Byte))
  /-- Read stationary row `q` of an mm.ldw; `got` holds the rows read. -/
  | ldw (l : LdwRec) (q : Nat) (got : List (List MX × List Nat × List Bool))
  /-- The loaded weights become usable. -/
  | ldwDone (l : LdwRec) (got : List (List MX × List Nat × List Bool))
  /-- Read streamed row `i` of an mm.run. -/
  | run (r : RunRec) (i : Nat)
  /-- The accumulators of the next column of a part receive a step. -/
  | step (r : StepRec)
  /-- Read accumulator row `i` of a drain or vx.acc. -/
  | drain (d : DrainRec) (i : Nat)
  /-- Read source group `g` of an element-wise vector instruction. -/
  | vx (op : VxOp) (o : Vx) (paired : Bool) (g : Nat)
  /-- Read source group `g` of a row instruction. -/
  | vrow (op : VxRow) (o : Vx) (paired : Bool) (g : Nat) (c : Word) (got : List Word)
  /-- Read group `g` of a vx.ld; for a queue head the message's first line is in `base`. -/
  | vld (o : VxMem) (stride : Int) (base : Nat) (g : Nat)
  /-- Read source group `g` of a vx.st. -/
  | vst (o : VxMem) (stride : Int) (g : Nat)
  /-- Write vector register words (key 128 r + lane), and the low half of one word more. -/
  | vecWrite (ws : List (Nat × Word)) (low : Option (Nat × BitVec 16))
  /-- Read source line `j` of a q.send into the message of sequence `seq`. -/
  | sendLine (seq src j : Nat)
  /-- The last line has entered the message of sequence `seq` (R70). -/
  | sendOut (seq : Nat)
  /-- Release the head message of a queue after a queue-head vx.ld with POP (R217). -/
  | release (q : Nat) (baddr : Nat)
  deriving DecidableEq, Repr

/-- A due part with its cycle and its order among those of one cycle: writes before reads, then the issue cycle of
its bundle, then its slot from weakest to strongest (R28, R29, R59). -/
structure Due where
  cycle : Nat
  read  : Bool
  issue : Nat
  slot  : Nat
  tag   : BitVec 12
  baddr : Nat
  op    : DueOp
  deriving DecidableEq, Repr

/-- Where a fold stands (R40, R42, R295, R410, R374). -/
inductive FoldRun where
  | idle | loading | loaded | running | ended | stopped | saved
  deriving DecidableEq, Repr

structure Exec where
  run        : FoldRun
  prog       : Nat
  cycle      : Nat
  nextBundle : Nat
  bundleCnt  : Nat
  /-- Bundle memory (R46): key bundle address, 256 bits. -/
  bundles    : List (Nat × BitVec 256)
  /-- SECDED state of bundles (R190): 1 a single-bit error, 2 a double-bit error. -/
  berr       : List (Nat × Nat)
  loops      : List (Nat × Nat)
  armAddr    : BitVec 12
  armValid   : Bool
  selMask    : BitVec 16
  selResult  : BitVec 4
  rp         : Nat
  ooo        : Bool
  pwr        : Nat
  /-- Address and tag of the bundle that governs the declaration (R61, R448). -/
  lastBundle : Nat
  lastTag    : BitVec 12
  sinceStall : Nat
  /-- A bundle has issued in this cycle: its other slots may issue with it (R65, log entry 5). -/
  issued     : Bool
  /-- That bundle issued through its qp stall point and its ctl slot is still to come. -/
  ctlDue     : Bool
  /-- Slots of that bundle that have issued: bit 0 mm, 1 vx, 2 sp, 3 qp. -/
  slots      : BitVec 4
  /-- The fault that the bundle at issue raised: 8 x code + slot code (R532). -/
  bad        : Option Nat
  /-- The breakpoint lets this bundle pass: the fold was resumed or stepped at it (R518). -/
  brkPass    : Bool
  wait       : Option Wait
  tally      : Option TallyHold
  due        : List Due
  busy       : List (Nat × (Nat × Nat))
  /-- Execution requests to banks (R99): cycle, bank, bundle address. -/
  bankUse    : List (Nat × Nat × Nat)
  /-- Active products (R62): array and the cycle of their last accumulator write. -/
  active     : List (Nat × Nat)
  /-- Live ranges of the fold section (R14): first line and lines. -/
  live       : List (Nat × Nat)
  deriving DecidableEq, Repr

/-! ### Tiles, scratchpad, matrix unit, vector engine -/

structure Tiles where
  /-- Stride registers S0-S3, 24 bits (R56). -/
  stride : List (Nat × BitVec 24)
  cfg    : List (Nat × BitVec 32)
  inUse  : BitVec 16
  incomp : BitVec 16
  start  : List (Nat × Nat)
  /-- Row bytes: key (128 tile + row) * 128 + byte. -/
  dat    : List Host.Cell
  /-- Exponent fields: key (128 tile + row) * 8 + byte. -/
  exps   : List Host.Cell
  /-- Rows written since the tile came into use; the others hold no defined content (R87): key 128 tile + row. -/
  known  : List (Nat × Bool)
  /-- The model's own field: which free values undefined rows of a tile read as (log entry 24). -/
  junk   : List (Nat × Nat)
  /-- 32-bit words whose parity bit does not match (R93): key 34 (128 tile + row) + word, words 0 to 31 of data, 32 and 33 of the
  exponent field. -/
  bad    : List (Nat × Bool)
  /-- Operand-reuse latches of the read ports (R94): the keys of the row that each read last. Ports 0 to 3 feed the arrays, 4 is the
  weight port, 5 the port of sp.stt. -/
  latch  : List (Nat × List Nat)
  /-- Rows that execution has written in this cycle: they keep what it wrote (R92). -/
  wrote  : List Nat
  /-- Transfers, by slot, that have written a row in this cycle, one entry a row (R533). -/
  rowsNow : List Nat
  deriving DecidableEq, Repr

structure Spm where
  /-- Scratchpad bytes: key 64 line + byte (R95). -/
  mem    : List Host.Cell
  /-- SECDED state of 64-bit words (R106, R107): 1 a single-bit error, 2 a double-bit error. -/
  err    : List (Nat × Nat)
  /-- Words waiting for a write-back (R107). -/
  wback  : List Nat
  eccCount : Nat
  /-- Banks served in this drover-owned cycle (R247). -/
  served : List Nat
  /-- The drover-owned accesses of this cycle are over: execution has read in it (R98). -/
  past   : Bool
  deriving DecidableEq, Repr

/-- What the last mm.ldw of a weight buffer left (R141, R152). -/
structure LoadRec where
  cls   : Cls
  parts : Nat
  marks : Nat
  deriving DecidableEq, Repr

/-- Bank state besides accumulators, counts and residues (R131, R175). -/
structure BankRec where
  scale : Int
  parts : Nat
  empty : Bool
  os    : Bool
  deriving DecidableEq, Repr

/-- A verdict to be delivered (R173). -/
structure PendVerdict where
  cycle : Nat
  /-- Its number among the verdicts started. -/
  id    : Nat
  arr   : Nat
  os    : Bool
  parts : List (VKind × Nat)
  /-- Check slots a drain with CKO fills (R176): slot and its 128 entries. -/
  fill  : List (Nat × List Nat)
  tag   : BitVec 12
  baddr : Nat
  vx    : Bool
  deriving DecidableEq, Repr

/-- A streamed row in the feeders of an array (R46, R125): what each array row holds of it, and the cycle in which its last pass
leaves. -/
structure FeedRow where
  arr  : Nat
  els  : List (List MX)
  gone : Nat
  deriving DecidableEq, Repr

structure Matrix where
  /-- Weight buffers: key (2 array + buffer) * 16384 + 128 row + column. -/
  wbuf   : List (Nat × List WCell)
  loads  : List (Nat × Option LoadRec)
  active : BitVec 4
  /-- Check columns: key ((2 array + buffer) * 4 + n) * 128 + row (R130, R167). -/
  ccol   : List (Nat × Nat)
  /-- Check slots: key 128 slot + entry (R129, R166). -/
  cslot  : List (Nat × Nat)
  cvalid : BitVec 4
  /-- Cycle in which a drain last filled a check slot: its write remains against a transfer of that cycle (R176). -/
  drained : List (Nat × Nat)
  banks  : List (Nat × BankRec)
  /-- Accumulators: key (2 array + bank) * 16384 + 128 row + column. -/
  acc    : List (Nat × BitVec 64)
  /-- Per part: key (2 array + bank) * 4 + part. -/
  trunc  : List (Nat × Nat)
  sat    : List (Nat × Bool)
  /-- Residue columns: key ((2 array + bank) * 4 + part) * 128 + row. -/
  rcol   : List (Nat × Nat)
  /-- Residue rows: key (2 array + bank) * 128 + column. -/
  rrow   : List (Nat × Nat)
  verdicts : List PendVerdict
  /-- Verdicts started since load, and those of them not yet delivered, for the hold of R178. -/
  vStarted : Nat
  vOpen  : List Nat
  /-- A drain value whose two converters differ (R189): array and row. -/
  convBad : Option (Nat × Nat)
  /-- The feeder queues of the arrays' rows (R46, R125). -/
  feeder : List FeedRow
  deriving DecidableEq, Repr

structure Vec where
  /-- Vector registers: key 128 register + lane (R199). -/
  reg     : List (Nat × Word)
  /-- Words whose parity does not match (R187). -/
  bad     : List (Nat × Bool)
  /-- Element whose two lane sets differ in the next instruction (R186). -/
  laneBad : Option Nat
  deriving DecidableEq, Repr

/-! ### Queues, channels and pennants -/

structure QEnt where
  base : Nat
  lines : Nat
  deriving DecidableEq, Repr

structure WEnt where
  base : Nat
  lines : Nat
  src : Nat
  gpn : Nat
  deriving DecidableEq, Repr

structure CEnt where
  rem : Bool
  node : Nat
  dfold : Nat
  dq : Nat
  slotm1 : Nat
  ncred : Nat
  deriving DecidableEq, Repr

/-- A message sent over the rigging whose credit has not returned: its slot, and what sent it (R285, R296). -/
structure SentRef where
  slot : Nat
  akind : Nat
  addr : Nat
  tag : BitVec 12
  deriving DecidableEq, Repr

/-- A channel at its sender (R184, R286, R295). -/
structure Chan where
  credits : Nat
  ptr     : Nat
  closed  : Bool
  sendCnt : BitVec 8
  sent    : List SentRef
  deriving DecidableEq, Repr

/-- The channel bound to a queue (R285): the device (none: this one), the program fold and the channel. -/
structure Binding where
  node : Option Nat
  fold : Nat
  ch   : Nat
  slotm1 : Nat
  ncred : Nat
  tree : Option Nat
  deriving DecidableEq, Repr

/-- A message held in a queue (R288). -/
structure MsgRec where
  slot  : Nat
  lines : Nat
  node  : Option Nat
  fold  : Nat
  deriving DecidableEq, Repr

structure Queue where
  bound  : Option Binding
  head   : Nat
  msgs   : List MsgRec
  closed : Bool
  expect : BitVec 8
  deriving DecidableEq, Repr

/-- A message sent and not yet arrived (R288). -/
structure OutMsg where
  seq   : Nat
  ch    : Nat
  lines : Nat
  slot  : Nat
  tally : BitVec 8
  data  : List Byte
  /-- The CRC-32C that queue out has produced, once every line has entered (R181). -/
  crc   : Nat
  /-- The cycle of its issue or start. -/
  issue : Nat
  /-- Every line has entered the message. -/
  ready : Bool
  /-- Its lines have reached the receiving fold of this device (R288). -/
  reached : Bool
  /-- Transfer of a CHAN (R243); none for a q.send. -/
  xfer  : Option Nat
  /-- Verdicts that must be delivered before the message leaves the device (R178). -/
  hold  : Nat
  baddr : Nat
  akind : Nat
  tag   : BitVec 12
  deriving DecidableEq, Repr

/-- A message whose lines have reached the receiving fold and land there, one drover-owned cycle a line (R47, R247, R288). -/
structure InMsg where
  q     : Nat
  /-- The channel that sent it, as the queue's binding names it. -/
  from_ : Binding
  rec_  : MsgRec
  /-- The scratchpad line of its next line, and the lines still to land. -/
  line  : Nat
  left  : List (List Byte)
  /-- Running CRC-32C register of the lines landed (R183), and the sender's CRC-32C. -/
  crc   : Nat
  want  : Nat
  tally : BitVec 8
  /-- Its number among the messages that its fold of this device has sent, and its tag there. -/
  seq   : Nat
  tag   : BitVec 12
  deriving DecidableEq, Repr

/-- A pennant increment on its way (R301). -/
structure PnMsg where
  /-- The target is the incrementing fold itself. -/
  own    : Bool
  dst    : Nat
  pn     : Nat
  inc    : Nat
  due    : Nat
  engine : Nat
  akind  : Nat
  addr   : Nat
  tag    : BitVec 12
  deriving DecidableEq, Repr

structure QueueUnit where
  qtab   : List (Nat × QEnt)
  wtab   : List (Nat × WEnt)
  wcred  : List (Nat × Nat)
  ctab   : List (Nat × CEnt)
  chans  : List (Nat × Chan)
  queues : List (Nat × Queue)
  outMsg : List OutMsg
  msgSeq : Nat
  /-- Messages that are landing, in the order in which they reached the fold (R47). -/
  inMsgs : List InMsg
  /-- Credits on their way to this fold's channels (R293): channel, and the cycle of this fold by which a release on this device
  must have been counted (R70). -/
  credIn : List (Nat × Option Nat)
  /-- Revocations on their way, in the same form (R295). -/
  revIn  : List (Nat × Option Nat)
  pn     : List (Nat × BitVec 16)
  /-- Dictionary writes of pennants that take effect at the next cycle boundary, oldest first (R308). -/
  pnSet  : List (Nat × BitVec 16)
  pnLast : List (Nat × Option Nat)
  outPn  : List PnMsg
  /-- Binding notices of every sender have been checked (R285). -/
  bound  : Bool
  /-- The queue and message that a q.pop of this cycle released. -/
  popNow : Option (Nat × MsgRec)
  /-- The queues as they stood when ctl.end issued in this cycle: the other slots of its bundle still see them (R65). -/
  ending : List (Nat × Queue)
  deriving DecidableEq, Repr

/-! ### Shepherd -/

inductive ShRun where
  | halted | running | waiting
  deriving DecidableEq, Repr

/-- A pending scratchpad access of the shepherd (R73, R247). -/
structure ShAcc where
  store : Bool
  addr  : Nat
  data  : Word
  ds    : BitVec 5
  deriving DecidableEq, Repr

structure Shepherd where
  /-- s1-s31 (R71); s0 is never listed. -/
  reg   : List (Nat × Word)
  pc    : Nat
  run   : ShRun
  wait  : Option Wait
  codeWords : Nat
  imem  : List (Nat × Word)
  dmem  : List Host.Cell
  /-- SECDED state of words of the two memories (R190): 1 a single-bit error, 2 a double-bit error. -/
  ierr  : List (Nat × Nat)
  derr  : List (Nat × Nat)
  acc   : Option ShAcc
  deriving DecidableEq, Repr

/-! ### Drover -/

/-- A descriptor held and not started: its address, or list and data address, with AKIND (R417), and its 256 bits. -/
structure Desc where
  addr  : Nat
  akind : Nat
  w     : BitVec 256
  deriving DecidableEq, Repr

structure DList where
  next : Nat
  live : Bool
  /-- A burst has been requested and has not come (R228). -/
  asked : Bool
  buf  : List Desc
  deriving DecidableEq, Repr

/-- The geometry of an image (R237, R251, R264): lines, granule stride, format, row bytes code, rows, orientation and split
of its residues, whether residues follow, decompression code and span code. -/
structure Geom where
  len  : Nat
  gstr : Nat
  fmt  : Nat
  rbc  : Nat
  rows : Nat
  wt   : Bool
  spl  : Nat
  ck   : Bool
  dcf  : Nat
  spanC : Nat
  deriving DecidableEq, Repr

/-- Where a transfer lands in its fold, or what it reads there (R237, R252): a tile span, or scratchpad lines. -/
structure Land where
  tiles : Bool
  line  : Nat
  tile  : Nat
  row0  : Nat
  cks   : Nat
  deriving DecidableEq, Repr

/-- A source in memory as it is read (R240, R248): `asked` source lines have been requested, `raw` holds those delivered in
address order, and `early` those delivered before a line in front of them, by source line number. -/
structure Src where
  addr  : Nat
  geom  : Geom
  asked : Nat
  raw   : List Byte
  early : List (Nat × List Byte)
  deriving DecidableEq, Repr

/-- An outstanding transfer (R32, R244). -/
structure Xfer where
  slot   : Nat
  desc   : Desc
  start  : Nat
  /-- Verdicts issued before the start that hold outbound data (R178). -/
  hold   : Nat
  geom   : Geom
  land   : Land
  src    : Src
  /-- READ and MTAP: image lines delivered; those landed in scratchpad are dropped. WRITE, FOLD and CHAN: source lines read. -/
  ready  : List (List Byte)
  /-- Image lines delivered. -/
  got    : Nat
  /-- Image lines delivered before this cycle: a tile row that they complete lands in it (R533). -/
  had    : Nat
  /-- READ and MTAP: scratchpad lines or tile rows landed. FOLD: lines landed at the receiver. -/
  landed : Nat
  /-- READ: the cycles in which the lines of `ready` were delivered, the earliest first; FOLD: that of its arrival (R247). -/
  asked  : List Nat
  /-- The cycle of the latest source read: the next line is requested after it (R247). -/
  since  : Nat
  /-- Running CRC-32C register of the lines delivered or read (R180, R183). -/
  crc    : Nat
  /-- Residues for the check slots from CKS onward, once they have been delivered (R249). -/
  resid  : Option (List (List Nat))
  /-- WRITE: its data has left the fold. -/
  sent   : Bool
  /-- WRITE: lines still to be written at the destination. -/
  left   : Nat
  /-- The remote arrival check of R114 has been passed. -/
  arrived : Bool
  /-- Everything has left or landed; only the completion is due. -/
  done   : Bool
  /-- A tally mismatch held for inspection (R182). -/
  held   : Bool
  deriving DecidableEq, Repr

/-- A subscription of the mast tap (R230, R254, R255): its transfer, stream identifier and number among the fold's MTAPs for
it, the stream matched with its segment, and the lines in the landing buffer. -/
structure Tap where
  xfer  : Nat
  msid  : Nat
  nth   : Nat
  stream : Option (Nat × Nat)
  /-- Lines with the cycle in which each reached the tap. -/
  buf   : List (Nat × List Byte)
  deriving DecidableEq, Repr

structure Drover where
  dl0 : DList
  dl1 : DList
  dl2 : DList
  dl3 : DList
  /-- The list that started a descriptor last (R230). -/
  rot : Nat
  /-- The cycle of the last start: at most one descriptor starts in a cycle (R230). -/
  lastStart : Option Nat
  xfers : List Xfer
  /-- Tokens emitted and not consumed, oldest first (R31, R33). -/
  tokens : List (BitVec 12)
  taps  : List Tap
  /-- MTAPs started for each MSID (R254). -/
  mtapN : List (Nat × Nat)
  rht   : List (Nat × BitVec 256)
  tasks : List Word
  /-- Bundles of this fold that have issued at a tapped address in the present step: address and count (R425). -/
  arrivals : List (Nat × Nat)
  /-- Tap entries that have fired in the present step. -/
  fired : List Nat
  /-- A tap copy in progress: tap entry index. -/
  tapping : Option Nat
  /-- Its data has left the fold (R178, R425). -/
  tapSent : Bool
  deriving DecidableEq, Repr

/-! ### Debug and trace of a fold -/

structure Debug where
  /-- A halt is requested and not yet taken (R517, R518). -/
  req   : Bool
  /-- The request was for the shepherd and the drover also. -/
  all   : Bool
  /-- The debugger holds the fold. -/
  held  : Bool
  /-- The cycle of the fold in which the halt took effect. -/
  since : Nat
  stepping : Bool
  steps : Nat
  brk   : BitVec 16
  /-- Trace unit (R529): records not yet written, oldest first, and records lost since the last that fitted. -/
  recs  : List (BitVec 256)
  lost  : Nat
  /-- Records lost at the buffer since the last that fitted there. -/
  lostB : Nat
  /-- Cycles are being stretched (R452). -/
  droop : Bool
  /-- Cycles stretched since load (R452, OD 0x4020.01). -/
  stretched : Nat
  /-- A self-test has run on this fold and failed (R438) or passed. -/
  tested : Bool
  deriving DecidableEq, Repr

structure Fold where
  ex  : Exec
  ti  : Tiles
  sp  : Spm
  mx  : Matrix
  ve  : Vec
  qu  : QueueUnit
  sh  : Shepherd
  dr  : Drover
  db  : Debug
  deriving DecidableEq, Repr

/-! ### Jobs and faults -/

structure JobHdr where
  seed : Nat
  step0 : Nat
  image : Nat
  taps : Nat
  folds : Nat
  bwR : Nat
  bwW : Nat
  bwX : Nat
  sign : Bool
  paired : Bool
  mode : Nat
  mastLimit : Nat
  npExp : Nat
  tag : Nat
  records : Nat
  deriving DecidableEq, Repr

structure SubBlk where
  rlist : Nat
  rlcount : Nat
  save : Nat
  pasid : Nat
  pv : Bool
  deriving DecidableEq, Repr

structure ProgHdr where
  magic : Nat
  verMajor : Nat
  verMinor : Nat
  foldCount : Nat
  heavyMax : Nat
  features : Nat
  hdrCrc : Nat
  sectOff : Nat
  imageLen : Nat
  deriving DecidableEq, Repr

structure Sect where
  bundleOff : Nat
  bundleCnt : Nat
  shWords : Nat
  shOff : Nat
  datOff : Nat
  datWords : Nat
  liveCount : Nat
  liveOff : Nat
  descOff : Nat
  preOff : Nat
  preLines : Nat
  preBase : Nat
  crc : Nat
  deriving DecidableEq, Repr

structure ResEnt where
  addr : Nat
  len : Nat
  tag : Nat
  deriving DecidableEq, Repr

structure TapEnt where
  step : Nat
  fold : Nat
  baddr : Nat
  sk : Bool
  line : Nat
  tile : Nat
  span : Nat
  len : Nat
  dest : Nat
  tag : Nat
  occ : Nat
  deriving DecidableEq, Repr

structure TapList where
  magic : Nat
  count : Nat
  wend : Nat
  ents : List TapEnt
  deriving DecidableEq, Repr

inductive JobPhase where
  | loading | running | readback | committed | signing | aborting | preempting | restoring
  deriving DecidableEq, Repr

structure Job where
  ring : Nat
  hdr : JobHdr
  sub : SubBlk
  prog : ProgHdr
  sects : List Sect
  results : List ResEnt
  taps : Option TapList
  seq : Nat
  phase : JobPhase
  step : Nat
  glean : Nat
  pass : Nat
  fail : Nat
  trunc : Nat
  sat : Nat
  /-- This device's copies of the global pennants (R302, R303). -/
  gpn : List (Nat × BitVec 16)
  /-- The program fold bound to each global pennant by its first pn.gwait (R304). -/
  gOwn : List (Nat × Option Nat)
  /-- The program fold of this device whose increment of each global pennant came last (R307). -/
  gLast : List (Nat × Option Nat)
  /-- The leader of each MSID: the program fold that started its first stream (R253). -/
  leaders : List (Nat × Option Nat)
  /-- Streams started for each MSID and program fold: key 32 MSID + fold (R254). -/
  nStreams : List (Nat × Nat)
  reports : List FaultRep
  /-- Logical fold that last arrived at the step barrier (R432). -/
  lastArrive : Nat
  abort : Option (FaultRep × Nat)
  crcs : List (Nat × Option Nat)
  /-- Policy in force since job start (R177, R182). -/
  satFault : Bool
  tallyHold : Bool
  /-- The window of R426 has ended the job. -/
  wendStop : Bool
  /-- Windows that each quad had closed when the job started (R453). -/
  winStart : List (Nat × Nat)
  deriving DecidableEq, Repr


/-! ### Host interface and dictionary -/

structure Ring where
  base : BitVec 64
  size : BitVec 32
  en   : Bool
  head : BitVec 32
  tail : BitVec 32
  deriving DecidableEq, Repr

/-- A completion record waiting for room (R379, R381). -/
structure CompRec where
  kind : Nat
  /-- Path H's status field when the record was formed (R402, R403). -/
  status : Nat
  ring : Nat
  step : Nat
  recptr : Nat
  seq : Nat
  tag : Nat
  glean : Nat
  rcount : Nat
  reason : Nat
  elapsed : Nat
  deriving DecidableEq, Repr

structure TtEnt where
  ubase : Nat
  tbase : Nat
  size : Nat
  rd : Bool
  wr : Bool
  pasid : Option Nat
  valid : Bool
  deriving DecidableEq, Repr

structure Slot where
  sel : BitVec 64
  code : BitVec 8
  status : BitVec 16
  rdata : BitVec 64
  /-- The CODE that came back with the last read of RDATA: 0x81 when the access was not performed (R396). -/
  ans : BitVec 8
  /-- A write accepted and not yet performed: index, subindex, offset, value (R396). -/
  wait : Option (Nat × Nat × Nat × Nat)
  deriving DecidableEq, Repr

/-- An answer of CXL.mem (R359, R329, R472). -/
inductive CxlAns where
  | data (addr : Nat) (bytes : List Byte)
  | poison (addr : Nat)
  | done (addr : Nat)
  deriving DecidableEq, Repr

structure HostIf where
  rings : List (Nat × Ring)
  comp : Ring
  compPhase : Bool
  compWait : List CompRec
  heartbeat : BitVec 32
  skipped : Nat
  preempts : Nat
  resumes : Nat
  windows : List (Nat × BitVec 64)
  snoop : List (Nat × List Byte)
  pageTimeout : BitVec 32
  pageReqs : Nat
  misses : Nat
  tt : List TtEnt
  victim : Nat
  /-- ATS requests that wait for a completion: page, whether for a write, fold and transfer (R362). -/
  ats : List (Nat × Bool × Nat × Nat)
  /-- PRI requests outstanding: page, fold and transfer (R364). -/
  pri : List (Nat × Nat × Nat)
  cxlOut : List CxlAns
  /-- The host physical base of the HDM decoder (R359). -/
  hdmBase : BitVec 64
  /-- The PASID of the job whose start reads host memory before the job runs (R362). -/
  listPasid : Option Nat
  /-- Invalidate Completions sent (R363): base, size and PASID. -/
  invDone : List (Nat × Nat × Option Nat)
  lastSeq : Nat
  hostMem : List Host.Cell
  deriving DecidableEq, Repr

structure MgReply where
  node : Nat
  /-- The link on which a directed request came: the reply goes back on it (R353). -/
  back : Option Nat
  rid : Nat
  code : Nat
  status : BitVec 16
  data : List Byte
  deriving DecidableEq, Repr

structure I3c where
  dyn : Option (BitVec 7)
  reply : Option (BitVec 16 × Nat × List Byte)
  /-- The bytes that the last private read returned. -/
  out : List Byte
  deriving DecidableEq, Repr

/-- A run of debugger writes from one path to one DOMAIN entry, not yet logged (R525). -/
structure DbgRun where
  path : Nat
  fold : Nat
  index : Nat
  sub : Nat
  first : Nat
  next : Nat
  count : Nat
  seq : Nat
  step : Nat
  deriving DecidableEq, Repr

/-- Event counters with their sticky bit are kept as numbers, sticking at 2^48 - 1 (R430). -/
structure Dict where
  /-- Bits 14:5 of the status field for paths H, F, M (keys 0, 1, 2; R402). -/
  status : List (Nat × BitVec 16)
  attMask : List (Nat × BitVec 16)
  setCount : List (Nat × Nat)
  slots : List (Nat × Slot)
  replies : List MgReply
  i3c : I3c
  satFault : Bool
  tallyHold : Bool
  checkCtr : List (Nat × Nat)
  /-- The copies of the global pennants that a write sets while no job runs (R308). -/
  gpnIdle : List (Nat × BitVec 16)
  runs : List DbgRun
  /-- What the last read of the window of path H returned (R392, R395). -/
  winOut : List Byte
  /-- Directed requests that this device has passed on and whose replies it has not: requester, RID and the link on which each came
  (R353). -/
  passed : List (Nat × Nat × Nat)
  deriving DecidableEq, Repr

/-! ### Memory-side dies -/

/-- What the device reads or writes for itself (R260). -/
inductive DevKey where
  /-- The program image for a logical fold (R40). -/
  | load (f : Nat)
  /-- Result buffer `n` of the job, for its CRC-64 (R192). -/
  | result (n : Nat)
  /-- The saved context of a program fold (R375). -/
  | restore (p : Nat)
  /-- Bytes from an address that the start of a job reads (R13, R15, R366). -/
  | start (a n : Nat)
  /-- A record or digest that it writes. -/
  | out
  /-- A tap copy or saved context that it writes, which an abort of the job discards. -/
  | jobOut
  deriving DecidableEq, Repr

/-- Whose data a port request carries. -/
inductive ReqFor where
  | xfer (f t : Nat)
  | stream (die id : Nat)
  /-- A staging block, and which of its stages. -/
  | stage (die block gen : Nat)
  /-- A descriptor burst of DL0 or DL1. -/
  | burst (f dl : Nat)
  | dev (k : DevKey)
  /-- A CXL.mem access; a write may be poisoned. -/
  | cxl (poison : Bool)
  /-- A peer's read: node, program fold and request number. -/
  | remote (node fold req : Nat)
  /-- A peer's write. -/
  | remoteW (node fold : Nat)
  deriving DecidableEq, Repr

/-- A request to a port (R319): whose it is, the line number within its source, the device address, the lines, and the
bytes to write. -/
structure Req where
  who  : ReqFor
  off  : Nat
  addr : Nat
  n    : Nat
  wr   : Bool
  data : List Byte
  deriving DecidableEq, Repr

/-- What the device reads for itself: requests not yet served, the bytes delivered, and the first line that could not be
corrected. -/
structure DevRead where
  key  : DevKey
  left : Nat
  mem  : List Host.Cell
  bad  : Option Nat
  deriving DecidableEq, Repr

/-- What the training record of a port holds (R325). -/
structure TrainRec where
  config : Nat
  rawGiB : Nat
  rate   : Nat
  /-- The port has not failed since (R327). -/
  ok     : Bool
  deriving DecidableEq, Repr

structure Port where
  /-- Slot within the frame, 0-99 (R258). -/
  slot : Nat
  /-- Place within the cycle of 15 data slots and a maintenance period (R318). -/
  place : Nat
  /-- The group lines hold their pattern, since training (R316). -/
  pattern : Bool
  /-- The device's own requests, ahead of the others of their class (R260). -/
  dq : List Req
  rq : List Req
  wq : List Req
  xq : List Req
  /-- Read slots served whose lines have not left (R320), earliest first: the request, its bytes, and the errors of its lines as
  they stood in the slot. -/
  out : List (Req × List Byte × List (Nat × Bool))
  failed : Bool
  /-- Maintenance periods of the present scrub pass (R322). -/
  scrub : Nat
  /-- Lines that the scrubber has corrected and writes back in its next period. -/
  fixing : List (Nat × List Byte)
  corrected : Nat
  deriving DecidableEq, Repr

/-- A mast stream (R253, R255): its die and number, leader, descriptor, subscribers, and its place among the streams of its
MSID that name each fold. -/
structure Stream where
  id : Nat
  die : Nat
  msid : Nat
  leader : Nat
  lfold : Nat
  lslot : Nat
  desc : Desc
  subs : Nat
  nth : List (Nat × Nat)
  src : Src
  /-- It may take a lane: an MSRC, or a CLAIM served from memory (R270). -/
  go : Bool
  lane : Option Nat
  /-- The image is in the lane's buffer, with its residue lines. -/
  ready : Bool
  image : List (List Byte)
  resid : List (List Nat)
  /-- Units sent (R255). -/
  sent : Nat
  stall : List (Nat × Nat)
  /-- The program fold whose stall counter reached the limit first, and the blocking set of that cycle (R256). -/
  limit : Option (Nat × Nat)
  deriving DecidableEq, Repr

/-- A staging block (R264, R266, R271): its tag, the part's first source address and geometry, and what it holds. -/
structure Stage where
  gen  : Nat
  fold : Nat
  site : Nat
  slot : Nat
  part : Nat
  expert : Nat
  src : Src
  /-- Being filled; an error or a cancellation drops it (R267, R271). -/
  failed : Bool
  ready : Bool
  image : List (List Byte)
  resid : List (List Nat)
  deriving DecidableEq, Repr

/-- A CLAIM that its die has not yet served (R270): its stream, program fold, site, part and expert, and, of the first of a die, the block
that it matched, with that block's generation. -/
structure Claim where
  stream : Nat
  fold : Nat
  site : Nat
  part : Nat
  expert : Nat
  hit    : Option (Nat × Nat)
  deriving DecidableEq, Repr

/-- A peer's read being served (R346): its node, program fold and request number, the source, and source lines sent. -/
structure Serve where
  node : Nat
  fold : Nat
  req : Nat
  src : Src
  sent : Nat
  deriving DecidableEq, Repr

/-- The saved context of a program fold (R374, R375): where it lies, its bytes, and the CRC-32C that the device computed as it wrote
them. -/
structure SavedArea where
  prog : Nat
  addr : Nat
  len  : Nat
  crc  : Nat
  deriving DecidableEq, Repr

/-- A preempted job (R373): its folds, the mast streams that had not finished and the CLAIMs that were not served, by die, and its
contexts in the save area. -/
structure Saved where
  job : Job
  folds : List (Nat × Fold)
  streams : List Stream
  claims : List (Nat × List Claim)
  areas : List SavedArea
  deriving DecidableEq, Repr

structure Msd where
  mem : List Host.Cell
  /-- Stored lines in error (R317), by line number: bytes wrong, and whether the line fails its check for certain. -/
  lineErr : List (Nat × (Nat × Bool))
  devReads : List DevRead
  config : Nat
  rawGiB : Nat
  rate : Nat
  /-- The pin rate that training attempts first and the request for full training, as the last reset found them (R325, R331). -/
  rateNow : BitVec 8
  fullNow : Bool
  trainKind : Nat
  trainMs : Nat
  /-- A new training record is being written (R325). -/
  recWriting : Bool
  split : Nat × Nat × Nat
  ports : List (Nat × Port)
  corrected : Nat
  uncorrected : Nat
  threshold : BitVec 32
  scrubPass : Nat
  lastAddr : Nat
  lastDetail : Nat
  eccSingle : Nat
  eccDouble : Nat
  streams : List Stream
  streamN : Nat
  stages : List (Nat × Option Stage)
  claims : List (Nat × List Claim)
  serves : List Serve
  specHit : Nat
  specMiss : Nat
  specDrop : Nat
  specErr : Nat
  deriving DecidableEq, Repr

/-! ### Rigging -/

/-- What a flit that this device sends carries (R334). -/
inductive FlitBody where
  | msg (m : NetMsg)
  | rwrite (addr : Nat) (data : List Byte)
  | rread (req addr lines gstr : Nat)
  | rdata (req : Nat) (data : List Byte)
  /-- A credit (R345), or that of a message of a tree (R349). -/
  | credit (fold ch : Nat) (tree : Option Nat)
  | revoke (fold ch : Nat)
  /-- A message refused (R285, R296): the sender's program fold, channel and slot, and whether the binding check failed. -/
  | refuse (fold ch slot : Nat) (binding : Bool)
  | tree (t : Nat) (m : NetMsg)
  /-- A global pennant increment, with the tree of its group (R351). -/
  | gpn (t g inc : Nat) (down : Bool)
  /-- A group abort, with the tree of its group (R352). -/
  | abort (t origin code : Nat) (down : Bool)
  | notice
  | reply (r : MgReply)
  /-- A directed management request on its way (R353). -/
  | request (r : MgReq)
  /-- A packet of another device: its TYPE, CTX and payload. -/
  | transit (typ : BitVec 5) (ctx : BitVec 49) (payload : List Byte)
  deriving DecidableEq, Repr

/-- A flit that leaves, or waits to leave, on a link (R334, R336): its header and the body of its packet. -/
structure OutFlit where
  dst : Nat
  src : Nat
  cls : Nat
  lane : Bool
  tally : BitVec 8
  epoch : BitVec 8
  lseq : Nat
  /-- The acknowledgement that it carried when it was put on the link (R336). -/
  lack : Nat
  nak : Bool
  fold : Nat
  body : FlitBody
  /-- Its number within its packet. -/
  part : Nat
  /-- Replays of it without an acknowledgement (R337). -/
  tries : Nat
  /-- The link in whose buffer it waits and that buffer's class and lane, where it came from another device (R338). -/
  via : Option (Nat × Nat)
  deriving DecidableEq, Repr

/-- An idle flit that a link has sent (R334, R336): LACK, NAK, and the buffers of this end, key 2 CLASS + LANE, that have become free
(R338, log entry 84). -/
structure IdleOut where
  lack : Nat
  nak  : Bool
  room : List (Nat × Nat)
  deriving DecidableEq, Repr

structure Link where
  st : Nat
  corrCw : Nat
  badCw : Nat
  replays : Nat
  farNode : Nat
  farLink : Nat
  sendSeq : Nat
  expSeq : Nat
  /-- The replay buffer (R336). -/
  buf : List OutFlit
  /-- Flits that wait at the output for a buffer of their class and lane at the far end, or for room in the replay buffer, in
  order (R338, R339). -/
  wait : List OutFlit
  /-- Free buffers at the far end: key 2 CLASS + LANE (R338). -/
  room : List (Nat × Nat)
  /-- Free buffers at this end: key 2 CLASS + LANE (R338). -/
  space : List (Nat × Nat)
  /-- Flits accepted of the packet that is arriving (R336). -/
  part : Nat
  /-- The last idle flit sent (R336). -/
  idle : Option IdleOut
  discarding : Bool
  deriving DecidableEq, Repr

structure Tree where
  children : BitVec 32
  parent : BitVec 8
  loc : Bool
  source : BitVec 16
  deriving DecidableEq, Repr

/-- A tree message held at a member until released and credited (R349): tree, fold, queue, released here, children
that have returned the credit. -/
structure TreeMsg where
  tree : Nat
  fold : Nat
  ch : Nat
  dfold : Nat
  dq : Nat
  released : Bool
  back : Nat
  deriving DecidableEq, Repr

structure Rig where
  nodeId : BitVec 12
  linkEn : BitVec 32
  epoch : BitVec 8
  mgr : BitVec 16
  treeLimit : BitVec 32
  stallLimit : BitVec 32
  route : List (Nat × BitVec 32)
  trees : List (Nat × Tree)
  groups : List (Nat × BitVec 32)
  abEn : Bool
  abRoot : BitVec 16
  abTree : BitVec 8
  links : List (Nat × Link)
  seen : List (Nat × Option (BitVec 8))
  noticed : List (Nat × Bool)
  /-- Tally counts of remote transfer streams: key 2 (32 node + fold) + direction (R346). -/
  sendT : List (Nat × BitVec 8)
  expT : List (Nat × BitVec 8)
  treeMsgs : List TreeMsg
  dropped : Nat
  notices : Nat
  deriving DecidableEq, Repr

/-! ### Lookout -/

/-- A log entry without its check value (R484). -/
structure LogEnt where
  seq : Nat
  epoch : BitVec 8
  time : Nat
  cls : Nat
  code : Nat
  data : Nat
  deriving DecidableEq, Repr

/-- Work of the RSA engine (R495). -/
inductive RsaJob where
  | digest
  | challenge (nonce : List Byte)
  | measurements (index : Nat) (nonce : List Byte)
  deriving DecidableEq, Repr

/-- What the responder says it can do (R494). -/
structure SpdmCaps where
  ctExponent : Nat
  certificates : Bool
  challenge : Bool
  measurements : Bool
  keyExchange : Bool
  pskExchange : Bool
  mutualAuth : Bool
  setCertificate : Bool
  deriving DecidableEq, Repr

/-- The algorithms that R494 names: base asymmetric, base hash and measurement hash. -/
inductive SpdmAlg where
  | rsapss4096
  | sha512
  deriving DecidableEq, Repr

/-- Codes of ERROR: R493 names Unspecified; the standard's name of a request with a field that the responder does not accept is the other
(log entry 114). -/
inductive SpdmError where
  | unspecified
  | invalidRequest
  deriving DecidableEq, Repr

/-- SPDM responses (R494). -/
inductive Spdm where
  | version (major minor : Nat)
  | capabilities (caps : SpdmCaps)
  | algorithms (asym hash measurement : SpdmAlg)
  | digests (chain : List Byte)
  | certificate (part : List Byte) (remainder : Nat)
  | challengeAuth (signature : List Byte)
  | measurements (blocks : List (Nat × List Byte)) (signature : List Byte)
  | error (code : SpdmError)
  deriving DecidableEq, Repr

/-- What the lookout keeps in flash besides images, log and security area, each a record of its own (R470, R483): OD 0x4000.03, OD 0x5000.05,
OD 0x5001.02, OD 0x6000.02, OD 0x6000.05, OD 0x6000.04, OD 0x7003.01, and the training records by port (R325). -/
structure Kept where
  spread : Twin (BitVec 8)
  rate   : Twin (BitVec 8)
  full   : Twin Bool
  node   : Twin (BitVec 12)
  links  : Twin (BitVec 32)
  epoch  : Twin (BitVec 8)
  seq    : Twin Nat
  recs   : Twin (List (Nat × Option TrainRec))
  deriving DecidableEq, Repr

structure Lookout where
  log : List LogEnt
  buf : List LogEnt
  seq : Nat
  cursor : BitVec 64
  logDropped : Nat
  /-- Image slots 0 and 1: key byte offset; an erased byte reads 0xFF. -/
  img0 : List Host.Cell
  img1 : List Host.Cell
  active : Nat
  nextBoot : Nat
  rollback : Nat
  session : Option Nat
  fwState : Nat
  fwResult : Nat
  fwBytes : Nat
  /-- Bytes taken into the two 64 KiB buffers and not yet programmed (R490): offset and value. -/
  fwBuf : List (Nat × Byte)
  fwVersion : BitVec 32
  svn : Nat
  /-- The lookout's memory holds the body of the running image, and where it was entered (R480, R486, R487); an absent byte is erased. -/
  mem : List Host.Cell
  /-- Words of 64 bits of that memory in error: 1 a single bit, 2 two bits (R480). -/
  merr : List (Nat × Nat)
  entry : Nat
  /-- A commit burns the rollback count up to this value (R489). -/
  burn : Option Nat
  kept : Kept
  ident : Identity
  /-- The private exponent, once a wrapped copy has yielded it (R493). -/
  priv : Option Nat
  rootHash : BitVec 512
  lock : Bool
  wdog : Bool
  rsa : List RsaJob
  spdm : Option Spdm
  sensors : List Int
  memTemps : List Int
  deriving DecidableEq, Repr

/-! ### Power -/

structure Quad where
  cap : BitVec 8
  floor : Int
  k : Nat
  t : Int
  dpred : Nat
  kTherm : Nat
  /-- Totals of the last 64 windows, newest first, and windows since reset (R453). -/
  hist : List Nat
  windows : Nat
  winSum : Nat
  /-- The part of the total that the present job has declared (R447, R449). -/
  jobSum : Nat
  /-- Latched in the window's last cycle (R448): the logical fold with the largest declaration, and the address and tag of the
  bundle that governs it. -/
  top : Option (Nat × Nat × BitVec 12)
  winCycles : Nat
  /-- Frames sent to the quad's regulator: targets in millivolts (R505). -/
  avs : List Int
  /-- A frame went out at the last window end, and its answer is not yet known. -/
  frame : Bool
  deriving DecidableEq, Repr

structure Power where
  pkgCap : BitVec 16
  spread : BitVec 8
  quads : List (Nat × Quad)
  overCtr : List (Nat × Nat)
  warnJ : BitVec 8
  warnM : BitVec 8
  deriving DecidableEq, Repr

structure Trace where
  enable : BitVec 32
  folds : BitVec 32
  base : BitVec 64
  size : BitVec 32
  widx : BitVec 32
  ridx : BitVec 32
  mode : Bool
  lost : Nat
  deriving DecidableEq, Repr

/-! ### Chip and reset -/

/-- Step of the release order that has been reached (R467, R471). -/
inductive Phase where
  /-- Held in reset. -/
  | held
  /-- Waiting for SYS_REFCLK in step 1 (R507). -/
  | noClock
  /-- Step 1: IOD and lookout released. -/
  | released
  /-- Lookout firmware runs; memory-side dies released and ready to train. -/
  | booted
  /-- Training complete; quads under self-test. -/
  | trained
  /-- Ready (OD 0x2001.02 = 1). -/
  | ready
  /-- Recovery mode (R488). -/
  | recovery
  deriving DecidableEq, Repr

structure Chip where
  grade : Grade
  stepping : BitVec 16
  serial : List Byte
  quadMap : BitVec 32
  rigged : Bool
  testEn : Bool
  pgood : Bool
  sysRef : Bool
  cxlRef : Bool
  rigRef : BitVec 4
  phase : Phase
  /-- Reset sources that a flash pulse holds off, in the order taken (R468). -/
  heldOff : List Nat
  cause : BitVec 16
  ldownArm : Bool
  cxlUp : Bool
  quadsTested : BitVec 8
  fatal : Nat
  failedFolds : BitVec 32
  dieTests : BitVec 8
  repairs : BitVec 16
  blockReset : BitVec 32
  /-- Thermal trip holds the reset until the sensors have cooled (R460). -/
  tripHold : Bool
  /-- JOBSEQ and tag of the jobs that the reset in progress ended (R420). -/
  ended : List (Nat × Nat)
  /-- The reset has been logged, and LOG is set when the device is ready (R479). -/
  resetNoted : Bool
  /-- The release sequence of the last device reset is not over: further sources join its cause (R467, R479). -/
  gather : Bool
  /-- RESET_N and PERST_N are low (R466, R508). -/
  rstLow : Bool
  perstLow : Bool
  deriving DecidableEq, Repr

/-- The whole device and its queue of waiting commands. -/
structure State where
  pending : List Instr
  /-- The model's own counter of free values (log entry 7). -/
  freeCtr : Nat
  chip : Chip
  folds : List (Nat × Fold)
  job : Option Job
  saved : List Saved
  /-- The context of the running job that is being saved or restored (R374, R375). -/
  moving : Option Saved
  host : HostIf
  dict : Dict
  msd : Msd
  rig : Rig
  look : Lookout
  pow : Power
  trace : Trace
  deriving DecidableEq, Repr

/-! ### Why a step can stop -/

/-- No fault of the AK960 stops the device: a fault of a job is an effect on the state (R409), so this type has no
constructor and no meaning can end in a fault. -/
inductive Fault where
  deriving DecidableEq, Repr

/-- Why a command has no meaning. -/
inductive Refusal where
  /-- The command has no meaning in this model yet; safe. -/
  | notModelled (mnemonic : String)
  /-- A management request with OPC 10 or 11 (R353) or a path M request whose OPC byte is neither 0 nor 1 (R399): the
  spec reserves the value and gives no outcome; raised by managementRequest and i3cPrivateWrite; safe. -/
  | reservedOpc
  deriving DecidableEq, Repr

/-! ### Reset -/

def Exec.init : Exec :=
  { run := .idle, prog := 0, cycle := 0, nextBundle := 0, bundleCnt := 0, bundles := [], berr := [], loops := [], armAddr := 0,
    armValid := false, selMask := 0, selResult := 0, rp := 15, ooo := false, pwr := 0, lastBundle := 0, lastTag := 0,
    sinceStall := 0, issued := false, ctlDue := false, slots := 0,
    bad := none, brkPass := false, wait := none, tally := none, due := [], busy := [], bankUse := [], active := [], live := [] }

def Tiles.init : Tiles :=
  { stride := [], cfg := [], inUse := 0, incomp := 0, start := [], dat := [], exps := [], known := [],
    junk := [], bad := [], latch := [], wrote := [], rowsNow := [] }

def Spm.init : Spm := { mem := [], err := [], wback := [], eccCount := 0, served := [], past := false }

def BankRec.init : BankRec := { scale := 0, parts := 1, empty := true, os := false }

def Matrix.init : Matrix :=
  { wbuf := [], loads := [], active := 0, ccol := [], cslot := [], cvalid := 0, drained := [], banks := [], acc := [], trunc := [],
    sat := [], rcol := [], rrow := [], verdicts := [], vStarted := 0, vOpen := [], convBad := none, feeder := [] }

def Vec.init : Vec := { reg := [], bad := [], laneBad := none }

def QEnt.none : QEnt := { base := 0, lines := 0 }
def WEnt.none : WEnt := { base := 0, lines := 0, src := 0, gpn := 0 }
def CEnt.none : CEnt := { rem := false, node := 0, dfold := 0, dq := 0, slotm1 := 0, ncred := 0 }
def Chan.init : Chan := { credits := 0, ptr := 0, closed := false, sendCnt := 0, sent := [] }
def Queue.init : Queue := { bound := none, head := 0, msgs := [], closed := false, expect := 0 }

def QueueUnit.init : QueueUnit :=
  { qtab := [], wtab := [], wcred := [], ctab := [], chans := [], queues := [], outMsg := [], msgSeq := 0,
    inMsgs := [], credIn := [], revIn := [], pn := [], pnSet := [], pnLast := [], outPn := [], bound := false, popNow := none,
    ending := [] }

def Shepherd.init : Shepherd :=
  { reg := [], pc := 0, run := .halted, wait := none, codeWords := 0, imem := [], dmem := [], ierr := [], derr := [], acc := none }

def DList.init : DList := { next := 0, live := false, asked := false, buf := [] }

def Drover.init : Drover :=
  { dl0 := .init, dl1 := .init, dl2 := .init, dl3 := .init, rot := 3, lastStart := none, xfers := [], tokens := [], taps := [],
    mtapN := [], rht := [], tasks := [], arrivals := [], fired := [], tapping := none, tapSent := false }

def Debug.init : Debug :=
  { req := false, all := false, held := false, since := 0, stepping := false, steps := 0, brk := 0, recs := [], lost := 0,
    lostB := 0, droop := false, stretched := 0, tested := false }

/-- A fold that holds nothing of a job. -/
def Fold.init : Fold :=
  { ex := .init, ti := .init, sp := .init, mx := .init, ve := .init, qu := .init, sh := .init, dr := .init,
    db := .init }

def Ring.init : Ring := { base := 0, size := 0, en := false, head := 0, tail := 0 }
def Slot.init : Slot := { sel := 0, code := 0, status := 0, rdata := 0, ans := 0, wait := none }

def HostIf.init : HostIf :=
  { rings := [], comp := .init, compPhase := true, compWait := [], heartbeat := 1000, skipped := 0, preempts := 0,
    resumes := 0, windows := [], snoop := [], pageTimeout := 1000, pageReqs := 0, misses := 0, tt := [], victim := 0,
    ats := [], pri := [], cxlOut := [], hdmBase := 0, listPasid := none, invDone := [], lastSeq := 0, hostMem := [] }

def Dict.init : Dict :=
  { status := [], attMask := [], setCount := [], slots := [], replies := [], i3c := { dyn := none, reply := none, out := [] },
    satFault := false, tallyHold := false, checkCtr := [], gpnIdle := [], runs := [], winOut := [], passed := [] }

def Port.init : Port :=
  { slot := 0, place := 0, pattern := false, dq := [], rq := [], wq := [], xq := [], out := [], failed := false, scrub := 0,
    fixing := [], corrected := 0 }

def Msd.init : Msd :=
  { mem := [], lineErr := [], devReads := [], config := 2, rawGiB := 80, rate := 48, rateNow := 48, fullNow := false,
    trainKind := 0, trainMs := 0, recWriting := false, split := (72, 18, 10), ports := [], corrected := 0, uncorrected := 0,
    threshold := 1024, scrubPass := 0, lastAddr := 0, lastDetail := 0, eccSingle := 0, eccDouble := 0, streams := [],
    streamN := 0, stages := [], claims := [], serves := [], specHit := 0, specMiss := 0, specDrop := 0, specErr := 0 }

def Link.init : Link :=
  { st := 0, corrCw := 0, badCw := 0, replays := 0, farNode := 0, farLink := 0, sendSeq := 0, expSeq := 0, buf := [],
    wait := [], room := [], space := [], part := 0, idle := none, discarding := false }

def Tree.init : Tree := { children := 0, parent := 0xFF, loc := false, source := 0 }

def Rig.init : Rig :=
  { nodeId := 0, linkEn := 0xFFFFFFFF, epoch := 0, mgr := 0xFFFF,
    treeLimit := 1000, stallLimit := 10000, route := [], trees := [], groups := [], abEn := false, abRoot := 0,
    abTree := 0, links := [], seen := [], noticed := [], sendT := [], expT := [], treeMsgs := [], dropped := 0,
    notices := 0 }

/-- The records as a new part has them: the defaults, and no training record (R470, log entry 3). -/
def Kept.init : Kept :=
  { spread := .of 2, rate := .of 48, full := .of false, node := .of 0, links := .of 0xFFFFFFFF, epoch := .of 0, seq := .of 0,
    recs := .of [] }

/-- A certificate without contents. -/
def Cert.blank : Cert := { der := [], serial := [], modulus := 0 }

/-- A provisioned part; what provisioning wrote into it is the model's choice (log entry 3). -/
def Identity.init : Identity :=
  let w : Wrapped := { iv := 0, text := [], tag := 0 }
  { provisioned := true, secret := 0, wrap0 := w, wrap1 := w, root := .blank, authority := .blank,
    device := { Cert.blank with serial := List.replicate 16 0x30 } }

def Lookout.init : Lookout :=
  { log := [], buf := [], seq := 0, cursor := 0, logDropped := 0, img0 := [], img1 := [], active := 0, nextBoot := 0,
    rollback := 0, session := none, fwState := 0, fwResult := 0, fwBytes := 0, fwBuf := [], fwVersion := 0, svn := 0,
    mem := [], merr := [], entry := 0, burn := none, kept := .init, ident := .init, priv := none, rootHash := 0, lock := false, wdog := false, rsa := [],
    spdm := none, sensors := [], memTemps := [] }

def Quad.init : Quad :=
  { cap := 56, floor := -30, k := 32, t := 0, dpred := 16384, kTherm := 32, hist := [], windows := 0,
    winSum := 0, jobSum := 0, top := none, winCycles := 0, avs := [], frame := false }

def Power.init : Power :=
  { pkgCap := 760, spread := 2, quads := [], overCtr := [], warnJ := 95, warnM := 85 }

def Trace.init : Trace :=
  { enable := 0, folds := 0, base := 0, size := 0, widx := 0, ridx := 0, mode := false, lost := 0 }

def Chip.init : Chip :=
  { grade := .F, stepping := 0, serial := List.replicate 16 0x30, quadMap := 0x76543210, rigged := true,
    testEn := false, pgood := true, sysRef := true, cxlRef := true, rigRef := 0xF, phase := .released, heldOff := [],
    cause := 0x0001, ldownArm := false, cxlUp := false, quadsTested := 0, fatal := 0,
    failedFolds := 0, dieTests := 0, repairs := 0, blockReset := 0, tripHold := false,
    ended := [], resetNoted := false, gather := true, rstLow := false, perstLow := false }

/-- The device right after the release of a power-good reset (R463, R467, R469, log entries 1, 2, 3, 8 to 12); its enabled links
train (R333). -/
def State.reset : State :=
  { pending := [], freeCtr := 0, chip := .init, folds := [], job := none, saved := [], moving := none, host := .init, dict := .init,
    msd := .init, rig := { Rig.init with links := (List.range 32).map fun l => (l, { Link.init with st := 1 }) },
    look := .init, pow := .init, trace := .init }

end Sys2Proof.Machine
end

