-- ==== Sys2Proof/Machine/Banks.lean ====
section
/-! DEFINITION. The drover-owned cycles of a fold's scratchpad banks (R97, R247): what waits for them, what each bank serves, and
the lines of inbound messages, which land in them as the fold's clock runs (R47). -/
namespace Sys2Proof.Machine

/-! ### Scratchpad bytes (R95, R106) -/

/-- Lines of a scratchpad (R95). -/
def spLines : Nat := 98304

/-- `n` bytes from byte address `a` (R95). -/
def Spm.bytes (x : Spm) (a n : Nat) : List Byte := peekRun 0 x.mem a n

/-- Line `l`. -/
def Spm.line (x : Spm) (l : Nat) : List Byte := x.bytes (64 * l) 64

/-- Writes bytes at byte address `a`; check bits follow, so words written whole hold no error (R106). -/
def Spm.write (x : Spm) (a : Nat) (l : List Byte) : Spm :=
  { x with mem := putRun 0 x.mem a l
           err := if x.err.isEmpty then [] else
             x.err.filter fun e => !(decide (a ≤ 8 * e.1) && decide (8 * e.1 + 8 ≤ a + l.length)) }

/-! ### Kinds of descriptors (R235) -/

def Desc.n (d : Desc) : Nat := d.w.toNat
def Desc.kind (d : Desc) : Nat := fld d.n 252 4

def kEnd : Nat := 0
def kLink : Nat := 1
def kSync : Nat := 2
def kRead : Nat := 3
def kWrite : Nat := 4
def kMsrc : Nat := 5
def kMtap : Nat := 6
def kFold : Nat := 7
def kChan : Nat := 8
def kPredict : Nat := 9
def kClaim : Nat := 10

/-- The receiving program fold, window and line of a FOLD (R243). -/
def Desc.dfold (d : Desc) : Nat := fld d.n 121 5
def Desc.win (d : Desc) : Nat := fld d.n 118 3
def Desc.woff (d : Desc) : Nat := fld d.n 101 17

/-! ### Images (R238) -/

/-- Formats that carry exponents (R80): B8, B4 and S4B. -/
def fmtExps (fmt : Nat) : Bool := fmt = 3 || fmt = 4 || fmt = 0xA

/-- Tiles of a span code (R237). -/
def spanTiles (c : Nat) : Nat := match c with | 0 => 1 | 1 => 2 | _ => 4

/-- Lines of a tile image of `r` rows of `rb` bytes (R238). -/
def imageLines (fmt rb r : Nat) : Nat := ceilDiv (r * rb) 64 + (if fmtExps fmt then ceilDiv r 8 else 0)

/-- Row bytes of a geometry. -/
def Geom.rb (g : Geom) : Nat := 16 * (g.rbc + 1)

/-- Lines of the data part of a tile image, and of one tile image (R238). -/
def Geom.dataLines (g : Geom) : Nat := ceilDiv (g.rows * g.rb) 64
def Geom.tileLines (g : Geom) : Nat := imageLines g.fmt g.rb g.rows
def Geom.tiles (g : Geom) : Nat := spanTiles g.spanC

/-- Lines of the span image (R238). -/
def Geom.spanLines (g : Geom) : Nat := g.tiles * g.tileLines

/-- Image lines that must have been delivered before row `i` of tile `k` can be written (R533). -/
def Geom.rowNeeds (g : Geom) (k i : Nat) : Nat :=
  if fmtExps g.fmt then k * g.tileLines + g.dataLines + i / 8 + 1 else k * g.tileLines + (i * g.rb + g.rb - 1) / 64 + 1

/-! ### The transfers of a fold -/

/-- The transfer in slot `t` of fold `f`. -/
def Fold.xfer (x : Fold) (t : Nat) : Option Xfer := x.dr.xfers.find? fun y => decide (y.slot = t)

def Fold.setXfer (x : Fold) (y : Xfer) : Fold :=
  { x with dr := { x.dr with xfers := x.dr.xfers.map fun z => if z.slot = y.slot then y else z } }

def Fold.dropXfer (x : Fold) (t : Nat) : Fold :=
  { x with dr := { x.dr with xfers := x.dr.xfers.filter fun z => decide (z.slot ≠ t) } }

/-- Image lines reach the fold in its cycle `c`. A scratchpad landing keeps those it has still to land: after a resume an image may
come again from its first line, and only lines at and above the saved one land (R257). The CRC-32C of a tile landing covers the lines
as they come, that of a scratchpad landing as they land (R180). -/
def Xfer.deliver (y : Xfer) (c : Nat) (ls : List (List Byte)) : Xfer :=
  if y.land.tiles then
    { y with ready := y.ready ++ ls, got := y.got + ls.length, crc := crc32cRun y.crc (ls.flatMap id) }
  else
    let l := ls.drop (y.landed - y.got)
    { y with ready := y.ready ++ l, got := y.got + ls.length, asked := y.asked ++ List.replicate l.length c }

/-- Lines that a fold's mast tap takes in from its landing buffers in a cycle (R247). -/
def tapRate : Nat := 8

/-- One landing buffer gives lines for tiles to their transfer, at most `n`; what remains of `n`. -/
def Fold.takeLines (x : Fold) (n : Nat) (u : Tap) : Fold × Nat :=
  match x.xfer u.xfer with
  | some y =>
    if y.land.tiles && !y.held then
      let k := min n u.buf.length
      let z := x.setXfer (y.deliver x.ex.cycle ((u.buf.take k).map (·.2)))
      let w := { u with buf := u.buf.drop k }
      ({ z with dr := { z.dr with taps := z.dr.taps.map fun o => if o.xfer = u.xfer then w else o } }, n - k)
    else (x, n)
  | none => (x, n)

/-- Landing buffers give the lines of tile landings to their transfers, which use no bank cycle (R92, R250, R255). -/
def Fold.drainTaps (x : Fold) : Fold :=
  if x.dr.taps.isEmpty then x else (x.dr.taps.foldl (fun (a : Fold × Nat) u => a.1.takeLines a.2 u) (x, tapRate)).1

/-! ### Requests to the banks (R247) -/

/-- A request of one line: who makes it, the line, and the cycle in which it was made. -/
abbrev LineReq := Nat × Nat × Nat

/-- The transfer reads a source in its fold. -/
def Xfer.outbound (y : Xfer) : Bool :=
  decide (y.desc.kind = kWrite) || decide (y.desc.kind = kFold) || decide (y.desc.kind = kChan)

/-- The scratchpad line that a READ lands next, when one waits for a drover-owned cycle. -/
def Xfer.landLine (y : Xfer) : Option Nat :=
  if decide (y.desc.kind = kRead) && !y.land.tiles && !y.held && !y.ready.isEmpty then some (y.land.line + y.landed) else none

/-- The scratchpad line that a transfer reads next. -/
def Xfer.readLine (y : Xfer) : Option Nat :=
  if y.outbound && !y.land.tiles && decide (y.ready.length < y.geom.len) then some (y.land.line + y.ready.length) else none

/-- The scratchpad line that a tap lands next. -/
def tapLine (x : Fold) (u : Tap) : Option Nat :=
  match x.xfer u.xfer with
  | some y => if !y.land.tiles && !y.held && !u.buf.isEmpty then some (y.land.line + y.landed) else none
  | none => none

/-- Lines of the mast (class 3). -/
def Fold.mastReqs (x : Fold) : List LineReq :=
  x.dr.taps.filterMap fun u => (tapLine x u).map fun l => (u.xfer, l, (u.buf.head?.map (·.1)).getD 0)

/-- Lines of inbound messages (class 4), in the order in which the messages reached the fold. -/
def Fold.msgReqs (x : Fold) : List LineReq :=
  (enumFrom 0 x.qu.inMsgs).filterMap fun e => if e.2.left.isEmpty then none else some (e.1, e.2.line, 0)

/-- Lines of READ landings (class 6). -/
def Fold.readReqs (x : Fold) : List LineReq :=
  x.dr.xfers.filterMap fun y => y.landLine.map fun l => (y.slot, l, y.asked.headD 0)

/-- Source reads (class 7): a transfer requests its first line in the cycle after its start, and each next one after the read of
the one before (log entry 78). -/
def Fold.sourceReqs (x : Fold) : List LineReq :=
  x.dr.xfers.filterMap fun y => if y.start < x.ex.cycle then y.readLine.map fun l => (y.slot, l, y.since) else none

/-- The earliest request at bank `b`; of several made in one cycle the first of the list. -/
def soonest (b : Nat) (l : List LineReq) : Option Nat :=
  ((l.filter fun e => decide (e.2.1 % 32 = b)).foldl (fun (a : Option LineReq) e =>
    match a with
    | some o => if e.2.2 < o.2.2 then some e else some o
    | none => some e) none).map (·.1)

/-- A request waits at bank `b`. -/
def atBank (b : Nat) (l : List LineReq) : Bool := l.any fun e => decide (e.2.1 % 32 = b)

/-- The bank of the shepherd's pending access. -/
def Shepherd.bank (x : Shepherd) : Option Nat := x.acc.map fun a => a.addr / 64 % 32

/-- The class of a shepherd access at bank `b` in cycle `c`: k = (c - b) / 4 counts the drover cycles of the bank from the fold's
cycle counter. -/
def shClass (c b : Nat) : Nat := if ((c : Int) - b) / 4 % 3 = 0 then 2 else 8

/-- The classes of R247 that wait at bank `b` within the fold, by their numbers there; class 5 comes from other folds. -/
def Fold.classes (x : Fold) (b : Nat) : List Nat :=
  (if x.sp.wback.any fun w => decide (w / 8 % 32 = b) then [1] else []) ++
  (if x.sh.bank = some b then [shClass x.ex.cycle b] else []) ++
  (if atBank b x.mastReqs then [3] else []) ++
  (if atBank b x.msgReqs then [4] else []) ++
  (if atBank b x.readReqs then [6] else []) ++
  (if atBank b x.sourceReqs then [7] else [])

/-- The drover owns bank `b` in this cycle, and nothing has used the bank's access (R97, R247). -/
def Fold.bankFree (x : Fold) (b : Nat) : Bool :=
  decide (x.ex.cycle % 4 = b % 4) && !x.sp.served.contains b && !x.sp.past

/-- Banks at which something of the fold waits. -/
def Fold.waitBanks (x : Fold) : List Nat :=
  x.sp.wback.map (fun w => w / 8 % 32) ++ x.sh.bank.toList ++
    (x.mastReqs ++ x.readReqs ++ x.sourceReqs).map fun e => e.2.1 % 32

/-! ### Tile landings (R533) -/

/-- The next row of a tile landing lands in this cycle: the lines that it needs came before it, and fewer than four rows have landed. -/
def Xfer.rowDue (x : Tiles) (y : Xfer) : Bool :=
  let i := y.landed
  (decide (y.desc.kind = kRead) || decide (y.desc.kind = kMtap)) && y.land.tiles && !y.held &&
    decide (i < y.geom.tiles * y.geom.rows) && decide (y.geom.rowNeeds (i / y.geom.rows) (i % y.geom.rows) ≤ y.had) &&
    decide ((x.rowsNow.filter (· = y.slot)).length < 4)

/-- A tile row has still to land in this cycle. -/
def Fold.rowsDue (x : Fold) : Bool := x.dr.xfers.any (Xfer.rowDue x.ti)

/-! ### Lines of remote writes (R243, R247) -/

/-- The first line of a FOLD at its receiver `x` (R243). A window that the receiver does not have is taken to begin at line 0, and R114
then refuses the transfer (log entry 88). -/
def Xfer.target (y : Xfer) (x : Fold) : Nat := (peek WEnt.none x.qu.wtab y.desc.win).base + y.desc.woff

/-- The line that a FOLD which has arrived lands next. -/
def Xfer.remoteLine (y : Xfer) (x : Fold) : Option Nat :=
  if decide (y.desc.kind = kFold) && y.arrived && !y.done then some (y.target x + y.landed) else none

/-- A FOLD whose source has been read has reached its receiver by cycle `c` of the sender at the latest (R534). -/
def Xfer.overdue (y : Xfer) (c : Nat) : Bool :=
  decide (y.desc.kind = kFold) && decide (y.geom.len ≤ y.ready.length) && !y.arrived && !y.held && decide (y.since + 48 ≤ c)

/-! ### Inbound messages (R47, R247, R288) -/

/-- The next line of a message has landed. -/
def InMsg.step (m : InMsg) : InMsg :=
  match m.left with
  | l :: t => { m with line := m.line + 1, left := t, crc := crc32cRun m.crc l }
  | [] => m

/-- Bank `b` serves the inbound message line whose turn it is, if the drover owns the bank and no earlier class waits there. -/
def Fold.landMsgLine (x : Fold) (b : Nat) : Fold :=
  if x.bankFree b && decide ((x.classes b).min? = some 4) then
    match soonest b x.msgReqs with
    | some i =>
      match x.qu.inMsgs[i]? with
      | some m => { x with sp := (match m.left with | l :: _ => x.sp.write (64 * m.line) l | [] => x.sp)
                           qu := { x.qu with inMsgs := x.qu.inMsgs.set i m.step } }
      | none => x
    | none => x
  else x

/-- The drover's part of the cycle ends: inbound message lines have landed in the banks that were free for them (R247). -/
def Fold.endDrover (x : Fold) : Fold :=
  if x.sp.past then x
  else
    let y := if x.qu.inMsgs.isEmpty then x else
      (List.range 8).foldl (fun (y : Fold) i => y.landMsgLine (x.ex.cycle % 4 + 4 * i)) x
    { y with sp := { y.sp with past := true } }

end Sys2Proof.Machine
end

