-- ==== Sys2Proof/Machine/Operands.lean ====
section
/-! DEFINITION. Operand forms: the fields of a bundle and of its slots, and which of them are encoding faults. -/
namespace Sys2Proof.Machine

/-! ### The bundle (R48, R49) -/

/-- Bits 255:224: the ctl slot. -/
def ctlSlot (w : BitVec 256) : Nat := fld w.toNat 224 32
/-- Bits 223:160: the mm slot. -/
def mmSlot (w : BitVec 256) : Nat := fld w.toNat 160 64
/-- Bits 159:96: the vx slot. -/
def vxSlot (w : BitVec 256) : Nat := fld w.toNat 96 64
/-- Bits 95:48: the sp slot. -/
def spSlot (w : BitVec 256) : Nat := fld w.toNat 48 48
/-- Bits 47:16: the qp slot. -/
def qpSlot (w : BitVec 256) : Nat := fld w.toNat 16 32
/-- Bits 15:4: the command tag (R60). -/
def bundleTag (w : BitVec 256) : BitVec 12 := BitVec.ofNat 12 (fld w.toNat 4 12)
/-- Bits 3:0: the power class (R61). -/
def bundlePwr (w : BitVec 256) : Nat := fld w.toNat 0 4

def ctlOp (w : BitVec 256) : Nat := fld (ctlSlot w) 26 6
def mmOp (w : BitVec 256) : Nat := fld (mmSlot w) 58 6
def vxOp (w : BitVec 256) : Nat := fld (vxSlot w) 57 7
def spOp (w : BitVec 256) : Nat := fld (spSlot w) 43 5
def qpOp (w : BitVec 256) : Nat := fld (qpSlot w) 27 5

/-- The ctl slot holds a stall-point instruction (R50). -/
def ctlStall (w : BitVec 256) : Bool := decide (4 ≤ ctlOp w) && decide (ctlOp w ≤ 8)

/-- The qp slot holds a stall-point instruction (R53). -/
def qpStall (w : BitVec 256) : Bool := [1, 2, 3, 9, 11].contains (qpOp w)

/-- The pennant that the bundle's stall point waits on, and the count it subtracts: ctl.arm or pn.wait (R22, R50, R53). -/
def stallPn (w : BitVec 256) : Option (Nat × Nat) :=
  if ctlOp w = 6 then some (fld (ctlSlot w) 20 6, 1)
  else if qpOp w = 9 then some (fld (qpSlot w) 21 6, fld (qpSlot w) 13 8) else none

/-- The channel that the bundle's stall point sends on (R22, R53). -/
def stallSend (w : BitVec 256) : Option Nat := if qpOp w = 1 then some (fld (qpSlot w) 23 4) else none

/-! ### Opcodes that the tables of R49, R50, R53, R56 and R205 list -/

def ctlOpOk (n : Nat) : Bool := decide (n ≤ 8)
def mmOpOk (n : Nat) : Bool := decide (n ≤ 6)
def spOpOk (n : Nat) : Bool := decide (n ≤ 5)
def qpOpOk (n : Nat) : Bool := decide (n ≤ 5) || (decide (8 ≤ n) && decide (n ≤ 11))
def vxOpOk (n : Nat) : Bool :=
  decide (n ≤ 0x0A) || (decide (0x10 ≤ n) && decide (n ≤ 0x17)) || (decide (0x20 ≤ n) && decide (n ≤ 0x23)) ||
    (decide (0x30 ≤ n) && decide (n ≤ 0x32)) || (decide (0x38 ≤ n) && decide (n ≤ 0x3B))

/-! ### mm slot (R136) -/

/-- mm.ldw: a named array, BANK 0 and an SPL that is not reserved. -/
def ldwEnc (o : MmLdw) : Bool := decide (o.arr ≠ 0) && !o.bank && decide (o.spl ≠ 3)

/-- mm.run.ws and mm.run.is: WTILE and WROW0 are zero. -/
def runEnc (o : MmRun) : Bool :=
  decide (o.arr ≠ 0) && decide (o.spl ≠ 3) && decide (o.wtile = 0) && decide (o.wrow0 = 0)

/-- mm.run.os: SWAP and SPL are zero. -/
def runOsEnc (o : MmRun) : Bool := decide (o.arr ≠ 0) && !o.swap && decide (o.spl = 0)

/-- mm.drain. -/
def drainEnc (o : MmDrain) : Bool := decide (o.arr ≠ 0) && decide (o.spl ≠ 3)

def zeroEnc (arr : BitVec 4) : Bool := decide (arr ≠ 0)

/-! ### sp slot (R56, R57) -/

/-- sp.stt: MODE 00 or 01 only. -/
def sttEnc (o : SpMove) : Bool := decide (o.mode.toNat < 2)

/-! ### qp slot (R53, R58, R291) -/

def pnEnc (pn : BitVec 6) (n : BitVec 8) : Bool := decide (pn.toNat < 48) && decide (n ≠ 0)
def gpnEnc (n : BitVec 8) : Bool := decide (n ≠ 0)
def selEnc (ms ord : Bool) : Bool := !ord || ms
/-- ctl.arm (R50, R58). -/
def armEnc (pn : BitVec 6) (span : BitVec 8) : Bool := decide (pn.toNat < 48) && decide (span ≠ 0)

/-! ### vx slot (R205-R207, R216, R218) -/

/-- Operands whose stride-zero bit a vx opcode may set: those it reads, and all of vx.smax, which ignores them (R207, R222). -/
structure VxShape where
  a : Bool
  b : Bool
  c : Bool
  /-- Forms it accepts, by their code. -/
  forms : List Nat
  /-- Largest SUB value. -/
  sub : Nat
  deriving DecidableEq, Repr

/-- The row of R205 of an arithmetic, logic, transcendental or reduction opcode. -/
def vxShape (op : Nat) : VxShape :=
  match op with
  | 0x01 | 0x02 => { a := true, b := true, c := false, forms := [0, 1, 2, 3], sub := 0 }
  | 0x03 | 0x05 | 0x06 => { a := true, b := true, c := false, forms := [0, 1, 2], sub := 0 }
  | 0x04 => { a := true, b := true, c := true, forms := [0, 1, 2], sub := 0 }
  | 0x07 | 0x08 => { a := true, b := false, c := false, forms := [0, 1, 2], sub := 0 }
  | 0x09 => { a := true, b := true, c := false, forms := [0, 1, 2], sub := 6 }
  | 0x0A => { a := true, b := false, c := false, forms := [0], sub := 5 }
  | 0x10 | 0x11 | 0x12 | 0x15 | 0x16 | 0x17 => { a := true, b := true, c := false, forms := [3], sub := 0 }
  | 0x13 => { a := true, b := false, c := false, forms := [3], sub := 0 }
  | 0x14 => { a := true, b := true, c := true, forms := [3], sub := 0 }
  | 0x3A => { a := true, b := true, c := true, forms := [0], sub := 0 }
  | 0x3B => { a := true, b := false, c := false, forms := [0], sub := 7 }
  | _ => { a := true, b := false, c := false, forms := [0], sub := 0 }

/-- The checks of R207 on an opcode that R204 lays out. -/
def vxEnc (op : Nat) (o : Vx) : Bool :=
  let h := vxShape op
  h.forms.contains o.form.toNat && decide (o.sub.toNat ≤ h.sub) && (h.a || !o.ba) && (h.b || !o.bb) && (h.c || !o.bc)

/-- vx.ld (R206, R216). -/
def vxLdEnc (o : VxMem) : Bool :=
  decide (o.form.toNat ≤ 3) && (!o.pop || decide (o.mode = 2)) && (decide (o.va = 0) || decide (o.mode = 3))

/-- vx.st (R206, R216). -/
def vxStEnc (o : VxMem) : Bool :=
  decide (o.form.toNat ≤ 3) && !o.pop && decide (o.mode.toNat < 2) && decide (o.vd = 0)

/-- vx.acc (R206, R218, R219). -/
def vxAccEnc (o : VxAcc) : Bool := decide (o.form = 0) && decide (o.spl ≠ 3)

/-! ### Fields of slots (R56, R137-R139, R204, R214, R218) -/

def ldwOf (w : Nat) : MmLdw :=
  { arr := BitVec.ofNat 4 (fld w 54 4), bank := bitOf w 53, wtile := BitVec.ofNat 4 (fld w 49 4),
    rows := BitVec.ofNat 7 (fld w 42 7), wt := bitOf w 41, spl := BitVec.ofNat 2 (fld w 39 2),
    wrow0 := BitVec.ofNat 7 (fld w 32 7), cks := BitVec.ofNat 2 (fld w 30 2) }

def runOf (w : Nat) : MmRun :=
  { arr := BitVec.ofNat 4 (fld w 54 4), bank := bitOf w 53, tile := BitVec.ofNat 4 (fld w 49 4),
    row0 := BitVec.ofNat 7 (fld w 42 7), rows := BitVec.ofNat 7 (fld w 35 7), swap := bitOf w 34,
    scale := BitVec.ofNat 8 (fld w 26 8), spl := BitVec.ofNat 2 (fld w 24 2), wtile := BitVec.ofNat 4 (fld w 20 4),
    wrow0 := BitVec.ofNat 7 (fld w 13 7) }

def drainOf (w : Nat) : MmDrain :=
  { arr := BitVec.ofNat 4 (fld w 54 4), bank := bitOf w 53, dtile := BitVec.ofNat 4 (fld w 49 4),
    arow0 := BitVec.ofNat 7 (fld w 42 7), rows := BitVec.ofNat 7 (fld w 35 7), drow0 := BitVec.ofNat 7 (fld w 28 7),
    dfmt := BitVec.ofNat 2 (fld w 26 2), rnd := bitOf w 25, tid := BitVec.ofNat 12 (fld w 13 12),
    spl := BitVec.ofNat 2 (fld w 11 2), cko := BitVec.ofNat 2 (fld w 9 2), cks := BitVec.ofNat 2 (fld w 7 2) }

def vxOf (w : Nat) : Vx :=
  { vd := BitVec.ofNat 5 (fld w 52 5), va := BitVec.ofNat 5 (fld w 47 5), vb := BitVec.ofNat 5 (fld w 42 5),
    vc := BitVec.ofNat 5 (fld w 37 5), count := BitVec.ofNat 12 (fld w 25 12), form := BitVec.ofNat 3 (fld w 22 3),
    ba := bitOf w 21, bb := bitOf w 20, bc := bitOf w 19, sub := BitVec.ofNat 4 (fld w 15 4) }

def vxMemOf (w : Nat) : VxMem :=
  { vd := BitVec.ofNat 5 (fld w 52 5), va := BitVec.ofNat 5 (fld w 47 5), count := BitVec.ofNat 12 (fld w 25 12),
    form := BitVec.ofNat 3 (fld w 22 3), line := BitVec.ofNat 17 (fld w 5 17), ss := BitVec.ofNat 2 (fld w 3 2),
    mode := BitVec.ofNat 2 (fld w 1 2), pop := bitOf w 0 }

def vxAccOf (w : Nat) : VxAcc :=
  { vd := BitVec.ofNat 5 (fld w 52 5), count := BitVec.ofNat 12 (fld w 25 12), form := BitVec.ofNat 3 (fld w 22 3),
    arrn := BitVec.ofNat 2 (fld w 20 2), bank := bitOf w 19, arow0 := BitVec.ofNat 7 (fld w 12 7),
    spl := BitVec.ofNat 2 (fld w 10 2) }

/-- sp.ldt and sp.stt (R56); TILE lies at 42:39 in every sp instruction that names one tile (R49). -/
def spMoveOf (w : Nat) : SpMove :=
  { tile := BitVec.ofNat 4 (fld w 39 4), row0 := BitVec.ofNat 7 (fld w 32 7), rows := BitVec.ofNat 7 (fld w 25 7),
    line := BitVec.ofNat 17 (fld w 8 17), mode := BitVec.ofNat 2 (fld w 6 2), ss := BitVec.ofNat 2 (fld w 4 2) }

/-! ### Which instruction a slot holds (R49, R50, R53, R56, R136-R140, R204, R205, R214, R218) -/

/-- A field of a slot, from bit `lo`, holds `v`. -/
def fieldIs {n : Nat} (w lo : Nat) (v : BitVec n) : Bool := decide (fld w lo n = v.toNat)

/-- The slot of an instruction of the bundle stream holds that instruction, operands and all, in bundle `w`; reserved bits
take no part (R8). No other command is an instruction of a bundle. -/
def inBundle (i : Instr) (w : BitVec 256) : Bool :=
  let c := ctlSlot w
  let m := mmSlot w
  let v := vxSlot w
  let p := spSlot w
  let q := qpSlot w
  match i with
  | .ctlNop _ => decide (ctlOp w = 0)
  | .ctlBr _ target => decide (ctlOp w = 1) && fieldIs c 14 target
  | .ctlLset _ lc count => decide (ctlOp w = 2) && fieldIs c 24 lc && fieldIs c 8 count
  | .ctlLoop _ lc target => decide (ctlOp w = 3) && fieldIs c 24 lc && fieldIs c 12 target
  | .ctlWait _ tag => decide (ctlOp w = 4) && fieldIs c 14 tag
  | .ctlStep _ => decide (ctlOp w = 5)
  | .ctlArm _ pn base span => decide (ctlOp w = 6) && fieldIs c 20 pn && fieldIs c 8 base && fieldIs c 0 span
  | .ctlEnd _ => decide (ctlOp w = 7)
  | .ctlYield _ => decide (ctlOp w = 8)
  | .qNop _ => decide (qpOp w = 0)
  | .qSend _ ch lines src => decide (qpOp w = 1) && fieldIs q 23 ch && fieldIs q 19 lines && fieldIs q 2 src
  | .qRecv _ n => decide (qpOp w = 2) && fieldIs q 23 n
  | .qSel _ ms ord rot mask =>
    decide (qpOp w = 3) && decide (bitOf q 26 = ms) && decide (bitOf q 25 = ord) && decide (bitOf q 24 = rot) && fieldIs q 8 mask
  | .qPop _ n => decide (qpOp w = 4) && fieldIs q 23 n
  | .qSmr _ mask => decide (qpOp w = 5) && fieldIs q 11 mask
  | .pnInc _ fold pn inc => decide (qpOp w = 8) && fieldIs q 22 fold && fieldIs q 16 pn && fieldIs q 8 inc
  | .pnWait _ pn n => decide (qpOp w = 9) && fieldIs q 21 pn && fieldIs q 13 n
  | .pnGinc _ gpn inc => decide (qpOp w = 10) && fieldIs q 21 gpn && fieldIs q 13 inc
  | .pnGwait _ gpn n => decide (qpOp w = 11) && fieldIs q 21 gpn && fieldIs q 13 n
  | .spNop _ => decide (spOp w = 0)
  | .spCfg _ tile cfg => decide (spOp w = 1) && fieldIs p 39 tile && fieldIs p 0 cfg
  | .spLdt _ o => decide (spOp w = 2) && decide (spMoveOf p = o)
  | .spStt _ o => decide (spOp w = 3) && decide (spMoveOf p = o)
  | .spRel _ mask => decide (spOp w = 4) && fieldIs p 27 mask
  | .spSset _ ss stride => decide (spOp w = 5) && fieldIs p 41 ss && fieldIs p 17 stride
  | .mmNop _ => decide (mmOp w = 0)
  | .mmLdw _ o => decide (mmOp w = 1) && decide (ldwOf m = o)
  | .mmRunWs _ o => decide (mmOp w = 2) && decide (runOf m = o)
  | .mmRunOs _ o => decide (mmOp w = 3) && decide (runOf m = o)
  | .mmRunIs _ o => decide (mmOp w = 4) && decide (runOf m = o)
  | .mmDrain _ o => decide (mmOp w = 5) && decide (drainOf m = o)
  | .mmZero _ arr bank => decide (mmOp w = 6) && fieldIs m 54 arr && decide (bitOf m 53 = bank)
  | .vxNop _ => decide (vxOp w = 0)
  | .vxAdd _ o => decide (vxOp w = 0x01) && decide (vxOf v = o)
  | .vxSub _ o => decide (vxOp w = 0x02) && decide (vxOf v = o)
  | .vxMul _ o => decide (vxOp w = 0x03) && decide (vxOf v = o)
  | .vxFma _ o => decide (vxOp w = 0x04) && decide (vxOf v = o)
  | .vxMin _ o => decide (vxOp w = 0x05) && decide (vxOf v = o)
  | .vxMax _ o => decide (vxOp w = 0x06) && decide (vxOf v = o)
  | .vxAbs _ o => decide (vxOp w = 0x07) && decide (vxOf v = o)
  | .vxNeg _ o => decide (vxOp w = 0x08) && decide (vxOf v = o)
  | .vxCmp _ o => decide (vxOp w = 0x09) && decide (vxOf v = o)
  | .vxCvt _ o => decide (vxOp w = 0x0A) && decide (vxOf v = o)
  | .vxAnd _ o => decide (vxOp w = 0x10) && decide (vxOf v = o)
  | .vxOr _ o => decide (vxOp w = 0x11) && decide (vxOf v = o)
  | .vxXor _ o => decide (vxOp w = 0x12) && decide (vxOf v = o)
  | .vxMov _ o => decide (vxOp w = 0x13) && decide (vxOf v = o)
  | .vxSel _ o => decide (vxOp w = 0x14) && decide (vxOf v = o)
  | .vxSll _ o => decide (vxOp w = 0x15) && decide (vxOf v = o)
  | .vxSrl _ o => decide (vxOp w = 0x16) && decide (vxOf v = o)
  | .vxSra _ o => decide (vxOp w = 0x17) && decide (vxOf v = o)
  | .vxExp2 _ o => decide (vxOp w = 0x20) && decide (vxOf v = o)
  | .vxLog2 _ o => decide (vxOp w = 0x21) && decide (vxOf v = o)
  | .vxRcp _ o => decide (vxOp w = 0x22) && decide (vxOf v = o)
  | .vxRsqrt _ o => decide (vxOp w = 0x23) && decide (vxOf v = o)
  | .vxRsum _ o => decide (vxOp w = 0x38) && decide (vxOf v = o)
  | .vxRmax _ o => decide (vxOp w = 0x39) && decide (vxOf v = o)
  | .vxSmax _ o => decide (vxOp w = 0x3A) && decide (vxOf v = o)
  | .vxTopk _ o => decide (vxOp w = 0x3B) && decide (vxOf v = o)
  | .vxLd _ o => decide (vxOp w = 0x30) && decide (vxMemOf v = o)
  | .vxSt _ o => decide (vxOp w = 0x31) && decide (vxMemOf v = o)
  | .vxAcc _ o => decide (vxOp w = 0x32) && decide (vxAccOf v = o)
  | _ => false

/-! ### Which instruction a shepherd word holds (R73) -/

/-- Places of the shepherd's instructions in the table of R73; `Config.shOpcode` gives the opcode of each. -/
def shRow (i : Instr) : Option Nat :=
  match i with
  | .shAdd _ _ _ _ => some 0
  | .shSub _ _ _ _ => some 1
  | .shAnd _ _ _ _ => some 2
  | .shOr _ _ _ _ => some 3
  | .shXor _ _ _ _ => some 4
  | .shSll _ _ _ _ => some 5
  | .shSrl _ _ _ _ => some 6
  | .shSra _ _ _ _ => some 7
  | .shAddi _ _ _ _ => some 8
  | .shAndi _ _ _ _ => some 9
  | .shOri _ _ _ _ => some 10
  | .shLui _ _ _ => some 11
  | .shMul _ _ _ _ => some 12
  | .shMulh _ _ _ _ => some 13
  | .shSlt _ _ _ _ => some 14
  | .shSltu _ _ _ _ => some 15
  | .shSlti _ _ _ _ => some 16
  | .shBeq _ _ _ _ => some 17
  | .shBne _ _ _ _ => some 18
  | .shBlt _ _ _ _ => some 19
  | .shBge _ _ _ _ => some 20
  | .shBltu _ _ _ _ => some 21
  | .shBgeu _ _ _ _ => some 22
  | .shJal _ _ _ => some 23
  | .shJr _ _ => some 24
  | .shLw _ _ _ _ => some 25
  | .shLh _ _ _ _ => some 26
  | .shLhu _ _ _ _ => some 27
  | .shLb _ _ _ _ => some 28
  | .shLbu _ _ _ _ => some 29
  | .shSw _ _ _ _ => some 30
  | .shSh _ _ _ _ => some 31
  | .shSb _ _ _ _ => some 32
  | .shLsp _ _ _ _ => some 33
  | .shSsp _ _ _ _ => some 34
  | .shArm _ _ _ => some 35
  | .shPinc _ _ _ _ => some 36
  | .shPwait _ _ _ => some 37
  | .shDvapp _ _ _ _ => some 38
  | .shRstep _ _ _ _ => some 39
  | .shTpush _ _ _ _ => some 40
  | .shTpop _ _ _ _ => some 41
  | .shHalt _ => some 42
  | _ => none

/-- Instructions that the table of R73 lists. -/
def shRows : Nat := 43

/-- The operand fields of a shepherd word are those of the instruction, in the format that R73 gives it. R73 names no format for
sh.jr, sh.pinc, sh.pwait and sh.halt, and no coding of IMM for sh.rstep: sh.jr takes SA where the register format has it, and the
others' operands are tied to no bits (log entry 13). -/
def shFields (i : Instr) (w : Nat) : Bool :=
  match i with
  | .shAdd _ ds sa sb => fieldIs w 20 ds && fieldIs w 15 sa && fieldIs w 10 sb
  | .shSub _ ds sa sb => fieldIs w 20 ds && fieldIs w 15 sa && fieldIs w 10 sb
  | .shAnd _ ds sa sb => fieldIs w 20 ds && fieldIs w 15 sa && fieldIs w 10 sb
  | .shOr _ ds sa sb => fieldIs w 20 ds && fieldIs w 15 sa && fieldIs w 10 sb
  | .shXor _ ds sa sb => fieldIs w 20 ds && fieldIs w 15 sa && fieldIs w 10 sb
  | .shSll _ ds sa sb => fieldIs w 20 ds && fieldIs w 15 sa && fieldIs w 10 sb
  | .shSrl _ ds sa sb => fieldIs w 20 ds && fieldIs w 15 sa && fieldIs w 10 sb
  | .shSra _ ds sa sb => fieldIs w 20 ds && fieldIs w 15 sa && fieldIs w 10 sb
  | .shAddi _ ds sa imm => fieldIs w 20 ds && fieldIs w 15 sa && fieldIs w 0 imm
  | .shAndi _ ds sa imm => fieldIs w 20 ds && fieldIs w 15 sa && fieldIs w 0 imm
  | .shOri _ ds sa imm => fieldIs w 20 ds && fieldIs w 15 sa && fieldIs w 0 imm
  | .shLui _ ds imm => fieldIs w 20 ds && fieldIs w 0 imm
  | .shMul _ ds sa sb => fieldIs w 20 ds && fieldIs w 15 sa && fieldIs w 10 sb
  | .shMulh _ ds sa sb => fieldIs w 20 ds && fieldIs w 15 sa && fieldIs w 10 sb
  | .shSlt _ ds sa sb => fieldIs w 20 ds && fieldIs w 15 sa && fieldIs w 10 sb
  | .shSltu _ ds sa sb => fieldIs w 20 ds && fieldIs w 15 sa && fieldIs w 10 sb
  | .shSlti _ ds sa imm => fieldIs w 20 ds && fieldIs w 15 sa && fieldIs w 0 imm
  | .shBeq _ sa sb off => fieldIs w 20 sa && fieldIs w 15 sb && fieldIs w 0 off
  | .shBne _ sa sb off => fieldIs w 20 sa && fieldIs w 15 sb && fieldIs w 0 off
  | .shBlt _ sa sb off => fieldIs w 20 sa && fieldIs w 15 sb && fieldIs w 0 off
  | .shBge _ sa sb off => fieldIs w 20 sa && fieldIs w 15 sb && fieldIs w 0 off
  | .shBltu _ sa sb off => fieldIs w 20 sa && fieldIs w 15 sb && fieldIs w 0 off
  | .shBgeu _ sa sb off => fieldIs w 20 sa && fieldIs w 15 sb && fieldIs w 0 off
  | .shJal _ ds imm => fieldIs w 20 ds && fieldIs w 0 imm
  | .shJr _ sa => fieldIs w 15 sa
  | .shLw _ ds sa imm => fieldIs w 20 ds && fieldIs w 15 sa && fieldIs w 0 imm
  | .shLh _ ds sa imm => fieldIs w 20 ds && fieldIs w 15 sa && fieldIs w 0 imm
  | .shLhu _ ds sa imm => fieldIs w 20 ds && fieldIs w 15 sa && fieldIs w 0 imm
  | .shLb _ ds sa imm => fieldIs w 20 ds && fieldIs w 15 sa && fieldIs w 0 imm
  | .shLbu _ ds sa imm => fieldIs w 20 ds && fieldIs w 15 sa && fieldIs w 0 imm
  | .shSw _ sa sb off => fieldIs w 20 sa && fieldIs w 15 sb && fieldIs w 0 off
  | .shSh _ sa sb off => fieldIs w 20 sa && fieldIs w 15 sb && fieldIs w 0 off
  | .shSb _ sa sb off => fieldIs w 20 sa && fieldIs w 15 sb && fieldIs w 0 off
  | .shLsp _ ds sa imm => fieldIs w 20 ds && fieldIs w 15 sa && fieldIs w 0 imm
  | .shSsp _ sa sb off => fieldIs w 20 sa && fieldIs w 15 sb && fieldIs w 0 off
  | .shArm _ sa imm => fieldIs w 15 sa && fieldIs w 0 imm
  | .shPinc _ _ _ _ => true
  | .shPwait _ _ _ => true
  | .shDvapp _ ds sa imm => fieldIs w 20 ds && fieldIs w 15 sa && fieldIs w 0 imm
  | .shRstep _ ds _ _ => fieldIs w 20 ds
  | .shTpush _ ds sa sb => fieldIs w 20 ds && fieldIs w 15 sa && fieldIs w 10 sb
  | .shTpop _ ds sa sb => fieldIs w 20 ds && fieldIs w 15 sa && fieldIs w 10 sb
  | .shHalt _ => true
  | _ => false

/-- Instruction word `w` of the shepherd holds the instruction: its opcode lies in bits 31:25 (R73). -/
def inWord (i : Instr) (w : Word) : Bool :=
  match shRow i with
  | some k => fieldIs w.toNat 25 (Config.shOpcode k) && shFields i w.toNat
  | none => false

/-- No instruction of R73 has the opcode of the word: an illegal encoding (R76). -/
def shIllegal (w : Word) : Bool := (List.range shRows).all fun k => !fieldIs w.toNat 25 (Config.shOpcode k)

/-! ### Which slot of a bundle is an encoding fault (R57, R58) -/

def ctlEncOf (w : BitVec 256) : Bool :=
  ctlOpOk (ctlOp w) &&
    (decide (ctlOp w ≠ 6) || armEnc (BitVec.ofNat 6 (fld (ctlSlot w) 20 6)) (BitVec.ofNat 8 (fld (ctlSlot w) 0 8)))

def mmEncOf (w : BitVec 256) : Bool :=
  match mmOp w with
  | 0 => true
  | 1 => ldwEnc (ldwOf (mmSlot w))
  | 2 => runEnc (runOf (mmSlot w))
  | 3 => runOsEnc (runOf (mmSlot w))
  | 4 => runEnc (runOf (mmSlot w))
  | 5 => drainEnc (drainOf (mmSlot w))
  | 6 => zeroEnc (BitVec.ofNat 4 (fld (mmSlot w) 54 4))
  | _ => false

def vxEncOf (w : BitVec 256) : Bool :=
  let n := vxOp w
  if n = 0 then true
  else if !vxOpOk n then false
  else if n = 0x30 then vxLdEnc (vxMemOf (vxSlot w))
  else if n = 0x31 then vxStEnc (vxMemOf (vxSlot w))
  else if n = 0x32 then decide (fld (vxSlot w) 22 3 = 0) && decide (fld (vxSlot w) 10 2 ≠ 3)
  else vxEnc n (vxOf (vxSlot w))

def spEncOf (w : BitVec 256) : Bool := spOpOk (spOp w) && (decide (spOp w ≠ 3) || decide (fld (spSlot w) 6 2 < 2))

def qpEncOf (w : BitVec 256) : Bool :=
  let q := qpSlot w
  qpOpOk (qpOp w) &&
    (match qpOp w with
     | 3 => selEnc (bitOf q 26) (bitOf q 25)
     | 8 => pnEnc (BitVec.ofNat 6 (fld q 16 6)) (BitVec.ofNat 8 (fld q 8 8))
     | 9 => pnEnc (BitVec.ofNat 6 (fld q 21 6)) (BitVec.ofNat 8 (fld q 13 8))
     | 10 => gpnEnc (BitVec.ofNat 8 (fld q 13 8))
     | 11 => gpnEnc (BitVec.ofNat 8 (fld q 13 8))
     | _ => true) &&
    !(ctlStall w && qpStall w)

/-- The lowest slot code of the encoding detail word (R418) whose slot breaks R57 or R58; none when the bundle is
well formed. -/
def bundleEnc (w : BitVec 256) : Option Nat :=
  if !ctlEncOf w then some 0
  else if !mmEncOf w then some 1
  else if !vxEncOf w then some 2
  else if !spEncOf w then some 3
  else if !qpEncOf w then some 4
  else if 4 < bundlePwr w then some 5
  else none

end Sys2Proof.Machine
end

