-- ==== Sys2Proof/Machine/Ops.lean ====
section
/-! DEFINITION. Named operations that the meanings share: folds, free values, log and status, fault reports, memory, the
issue of a bundle and what becomes due later. -/
namespace Sys2Proof.Machine

/-- What a meaning answers. -/
abbrev Res := Host.Outcome State Fault Refusal

/-- The clocks run: no reset is held off by a flash pulse, during which all but those of the lookout and of the flash interface
stop (R468). -/
def State.clocked (s : State) : Bool := s.chip.heldOff.isEmpty

/-- The lookout runs: it is out of reset. -/
def State.lookoutRuns (s : State) : Bool :=
  match s.chip.phase with
  | .held | .noClock => false
  | _ => true

/-- The answer of a command of the clocked device: `t`, or no change while its clocks are stopped (R468). -/
def whileClocked (s t : State) : Res := .next (if s.clocked then t else s)

/-! ### Folds and the job -/

/-- Logical fold `f`. -/
def State.fold (s : State) (f : Nat) : Fold := peek Fold.init s.folds f

def State.setFold (s : State) (f : Nat) (x : Fold) : State := { s with folds := put Fold.init s.folds f x }

def State.onFold (s : State) (f : Nat) (g : Fold → Fold) : State := s.setFold f (g (s.fold f))

/-- Changes the running job; nothing without one. -/
def State.onJob (s : State) (g : Job → Job) : State := { s with job := s.job.map g }

/-- The step counter (R34); 0 without a job. -/
def State.stepNo (s : State) : Nat := match s.job with | some j => j.step | none => 0

/-- The fold is in the cycle of issue of a ctl.step, after which the counter holds its new value (R34, R70). -/
def Fold.atStep (x : Fold) : Bool := x.ex.issued && decide (ctlOp (peek 0 x.ex.bundles x.ex.lastBundle) = 5)

/-- The step counter as fold `f` sees it in its cycle `c`. -/
def State.stepAt (s : State) (f c : Nat) : Nat :=
  if (s.fold f).atStep && decide (c ≤ (s.fold f).ex.cycle) then s.stepNo - 1 else s.stepNo

/-- The step counter as fold `f` sees it now. -/
def State.stepOf (s : State) (f : Nat) : Nat := s.stepAt f (s.fold f).ex.cycle

/-- Logical folds of the job in the order of its program folds (R16). -/
def Job.places (j : Job) : List Nat := setBits j.hdr.folds 32

/-- The logical fold of program fold `p` (R16, R18); none at or above FOLD_COUNT. -/
def Job.place (j : Job) (p : Nat) : Option Nat := if p < j.prog.foldCount then j.places[p]? else none

/-- Reefed mode (R11). -/
def Job.reefed (j : Job) : Bool := decide (j.hdr.mode = 1)

def State.reefed (s : State) : Bool := match s.job with | some j => j.reefed | none => false

/-- Paired mode of the running job (R69). -/
def State.paired (s : State) : Bool := match s.job with | some j => j.hdr.paired | none => false

/-! ### Free values (log entry 7) -/

/-- The next free value, `w` bits wide. -/
def State.free (s : State) (w : Nat) : Nat := Config.free s.freeCtr % 2 ^ w

/-- The free value has been used. -/
def State.used (s : State) : State := { s with freeCtr := s.freeCtr + 1 }

/-! ### Event counters (R430) -/

def ctrMax : Nat := 2 ^ 48 - 1

/-- An event counter after `k` more events. -/
def ctrAdd (n k : Nat) : Nat := min (n + k) ctrMax

/-- What an event counter reads as: stuck with its overflow bit at its largest value. -/
def ctrRead (n : Nat) : Nat := if ctrMax ≤ n then 0x8000FFFFFFFFFFFF else n

/-- Counting `k` events on a counter that holds `n` makes it stick. -/
def ctrSticks (n k : Nat) : Bool := decide (n < ctrMax) && decide (ctrMax ≤ n + k)

/-! ### Status field (R401-R405) and log (R484, R485) -/

def bitFault : Nat := 14
def bitFatal : Nat := 13
def bitChk : Nat := 12
def bitTherm : Nat := 11
def bitLink : Nat := 10
def bitMem : Nat := 9
def bitLog : Nat := 8
def bitSec : Nat := 7
def bitPreempt : Nat := 6
def bitJobdone : Nat := 5

/-- Sets a status bit in the copies of all three paths (R402). -/
def setCopies (bit : Nat) (d : Dict) : Dict :=
  let v : BitVec 16 := BitVec.ofNat 16 (2 ^ bit)
  let m := put 0 d.status 0 (peek 0 d.status 0 ||| v)
  let m := put 0 m 1 (peek 0 m 1 ||| v)
  { d with status := put 0 m 2 (peek 0 m 2 ||| v) }

/-- Sets a status bit and counts the event (R403, R406). -/
def markStatus (bit : Nat) (d : Dict) : Dict :=
  let e := setCopies bit d
  { e with setCount := put 0 e.setCount (15 - bit) (ctrAdd (peek 0 e.setCount (15 - bit)) 1) }

/-- Appends a log entry to the lookout's buffer, or drops and counts it when 256 wait (R485). -/
def logAppend (cls code data : Nat) (s : State) : State :=
  if s.look.buf.length < 256 then
    { s with
      freeCtr := s.freeCtr + 1
      look := { s.look with
        seq := s.look.seq + 1
        buf := s.look.buf ++ [{ seq := s.look.seq + 1, epoch := s.rig.epoch, time := Config.free s.freeCtr % 2 ^ 48,
                                cls := cls, code := code, data := data }] } }
  else { s with look := { s.look with logDropped := ctrAdd s.look.logDropped 1 } }

/-- A new log entry sets LOG (R403, R485); the LOG counter that sticks on it writes one entry more (R430). -/
def logEntry (cls code data : Nat) (s : State) : State :=
  if s.look.buf.length < 256 then
    let n := peek 0 s.dict.setCount 7
    let t := logAppend cls code data s
    let t := { t with dict := markStatus bitLog t.dict }
    if ctrSticks n 1 then logAppend 8 0 0 t else t
  else logAppend cls code data s

/-- A log entry whose code and data the spec does not lay out: both are free values (log entry 7). -/
def logFree (cls : Nat) (s : State) : State :=
  logEntry cls (Config.free s.freeCtr % 2 ^ 16) (Config.free (s.freeCtr + 1) % 2 ^ 320)
    { s with freeCtr := s.freeCtr + 2 }

/-- A log entry that carries `w` bits of value `v` (R420, R460, R479): the spec gives its place in DATA no layout, so the
code and the other bits are free values (log entry 26). -/
def logWith (cls w v : Nat) (s : State) : State :=
  logEntry cls (Config.free s.freeCtr % 2 ^ 16) (at_ 0 w v + at_ w (320 - w) (Config.free (s.freeCtr + 1)))
    { s with freeCtr := s.freeCtr + 2 }

/-- DATA of the log entry of a run of debugger writes (R525). -/
def DbgRun.data (r : DbgRun) : Nat :=
  at_ 256 64 r.seq + at_ 192 64 r.step + at_ 190 2 r.path + at_ 185 5 r.fold + at_ 169 16 r.index + at_ 161 8 r.sub +
    at_ 129 32 r.first + at_ 97 32 r.count

/-- The runs that `p` selects are logged (R525); the code has no value that the spec gives. -/
def flushRuns (p : DbgRun → Bool) (s : State) : State :=
  (s.dict.runs.filter p).foldl
    (fun t r => logEntry 7 (Config.free t.freeCtr % 2 ^ 16) r.data { t with freeCtr := t.freeCtr + 1 })
    { s with dict := { s.dict with runs := s.dict.runs.filter fun r => !p r } }

/-- An event counter that sticks writes a log entry (R430); the entry changes the lookout's buffer and the status copies alone. -/
def logStick (before k : Nat) (s : State) : State :=
  let v := if ctrSticks before k then logFree 8 s else s
  { s with freeCtr := v.freeCtr, look := v.look, dict := { s.dict with status := v.dict.status, setCount := v.dict.setCount } }

/-- The lookout writes records that it keeps in flash (R470, R483). -/
def State.keep (g : Kept → Kept) (s : State) : State := { s with look := { s.look with kept := g s.look.kept } }

/-- The identity key is available (R493). -/
def Lookout.keyOk (x : Lookout) : Bool := x.priv.isSome

/-- The lookout's signature of a message under its identity key, with a fresh salt (R195, R491, R492): it verifies under the modulus of the
device certificate. -/
def State.signature (s : State) (msg : List Byte) : List Byte :=
  pssSign s.look.ident.device.modulus (s.look.priv.getD 0) msg (leBytes 64 (Config.free s.freeCtr))

/-- The certificate chain (R492). -/
def Lookout.chain (x : Lookout) : List Byte := x.ident.chain

/-- An event sets a status bit in every copy (R402, R403). -/
def setStatus (bit : Nat) (s : State) : State :=
  logStick (peek 0 s.dict.setCount (15 - bit)) 1 { s with dict := markStatus bit s.dict }

/-- A checking counter of R198 counts `n` events: keys 1 to 4 are OD 0x7001.01-.04, 5 to 8 OD 0x7002.01-.04. -/
def checkCount (key n : Nat) (s : State) : State :=
  if n = 0 then s
  else
    let b := peek 0 s.dict.checkCtr key
    let t := logStick b n { s with dict := { s.dict with checkCtr := put 0 s.dict.checkCtr key (ctrAdd b n) } }
    if key = 2 || 5 ≤ key then setStatus bitChk t else t

/-! ### Trace (R526-R529) -/

/-- A trace record (R526). -/
def traceRec (kind prog lf engine tag step cycle baddr data : Nat) : BitVec 256 :=
  BitVec.ofNat 256 (at_ 248 8 kind + at_ 243 5 prog + at_ 238 5 lf + at_ 234 4 engine + at_ 222 12 tag +
    at_ 158 64 step + at_ 110 48 cycle + at_ 98 12 baddr + at_ 0 64 data)

/-- Fold `f` records an event of its cycle `c` when its KIND and the fold are traced; a record that finds no room is lost
(R529). -/
def State.trAt (f c kind engine : Nat) (tag : BitVec 12) (data : Nat) (s : State) : State :=
  if bitOf s.trace.enable.toNat kind && bitOf s.trace.folds.toNat f then
    let x := s.fold f
    let rec_ := fun (k e d : Nat) => traceRec k x.ex.prog f e tag.toNat (s.stepAt f c) c x.ex.lastBundle d
    if x.db.lost = 0 then
      if x.db.recs.length < 64 then
        s.setFold f { x with db := { x.db with recs := x.db.recs ++ [rec_ kind engine data] } }
      else
        logStick s.trace.lost 1
          { s.setFold f { x with db := { x.db with lost := 1 } } with
            trace := { s.trace with lost := ctrAdd s.trace.lost 1 } }
    else if x.db.recs.length + 2 ≤ 64 then
      s.setFold f { x with db := { x.db with
        recs := x.db.recs ++ [rec_ 0x0C engine x.db.lost, rec_ kind engine data], lost := 0 } }
    else
      logStick s.trace.lost 1
        { s.setFold f { x with db := { x.db with lost := x.db.lost + 1 } } with
          trace := { s.trace with lost := ctrAdd s.trace.lost 1 } }
  else s

/-- Fold `f` records an event of its present cycle. -/
def State.tr (f kind engine : Nat) (tag : BitVec 12) (data : Nat) (s : State) : State :=
  s.trAt f (s.fold f).ex.cycle kind engine tag data

/-- What a fold keeps when its state is given up: its count of corrected errors, which only a reset of the device clears (R107, R430, R476),
and the droop of its supply (R452). -/
def Fold.kept (x : Fold) : Fold :=
  { Fold.init with sp := { Spm.init with eccCount := x.sp.eccCount }, db := { Debug.init with droop := x.db.droop } }

/-- The stretched cycles of fold `f` join the device's count before the fold's state is given up (R452, OD 0x4020.01). -/
def keepStretched (f : Nat) (s : State) : State :=
  let n := (s.fold f).db.stretched
  let b := peek 0 s.pow.overCtr 1
  if n = 0 then s else logStick b n { s with pow := { s.pow with overCtr := put 0 s.pow.overCtr 1 (ctrAdd b n) } }

/-! ### Fault reports (R409-R418) -/

/-- ENGINE codes of R417. -/
def engExec : Nat := 0
def engMatrix : Nat := 1
def engVector : Nat := 2
def engSp : Nat := 3
def engScratch : Nat := 4
def engQueue : Nat := 5
def engShepherd : Nat := 6
def engDrover : Nat := 7
def engTally : Nat := 8
def engMast : Nat := 9
def engPort : Nat := 10
def engLink : Nat := 11
def engLookout : Nat := 12
def engNone : Nat := 15

/-- A job fault can still be raised: the job has not committed and no abort has reached its units (R412, R414). -/
def Job.open_ (j : Job) : Bool :=
  match j.phase with
  | .loading | .running | .readback | .preempting | .restoring => true
  | .committed | .signing | .aborting => false

/-- A fault report of the running job on its way to the abort controller (R409, R410). -/
def raise (r : FaultRep) (s : State) : State :=
  match s.job with
  | some j => if j.open_ then { s with job := some { j with reports := j.reports ++ [r] } } else s
  | none => s

/-- A fault report of fold `f` in its cycle `c`. -/
def State.repAt (s : State) (f c code engine akind addr : Nat) (tag : BitVec 12) (detail : Nat) : FaultRep :=
  { code := code, die := 0, lv := true, fold := (s.fold f).ex.prog, lfold := f, engine := engine, akind := akind,
    addr := addr, tag := tag, step := s.stepAt f c, cycle := c, detail := detail % 2 ^ 64,
    origin := s.rig.nodeId.toNat }

/-- A fault report of fold `f` in its present cycle. -/
def State.rep (s : State) (f code engine akind addr : Nat) (tag : BitVec 12) (detail : Nat) : FaultRep :=
  s.repAt f (s.fold f).ex.cycle code engine akind addr tag detail

/-- A fault report without a fold (LV 0). -/
def State.repNone (s : State) (code die engine detail : Nat) : FaultRep :=
  { code := code, die := die, lv := false, fold := 0, lfold := 0, engine := engine, akind := 0, addr := 0, tag := 0,
    step := s.stepNo, cycle := 0, detail := detail % 2 ^ 64, origin := s.rig.nodeId.toNat }

/-- Raises a fault of fold `f` in its cycle `c` and records it in the fold's trace (R527). -/
def State.raiseAt (f c code engine akind addr : Nat) (tag : BitVec 12) (detail : Nat) (s : State) : State :=
  (raise (s.repAt f c code engine akind addr tag detail) s).trAt f c 9 engine tag code

/-- Raises a fault of fold `f` in its present cycle. -/
def State.raiseFold (f code engine akind addr : Nat) (tag : BitVec 12) (detail : Nat) (s : State) : State :=
  s.raiseAt f (s.fold f).ex.cycle code engine akind addr tag detail

/-- A condition after which the device does not serve until reset (R403, R406, R419): the first cause stays, FATAL is
set, the release sequence is over unless the cause is a thermal trip, whose own reset may belong to it (R467, R479), and a running job aborts, with no record for cause 0x04. -/
def setFatal (cause : Nat) (r : Option FaultRep) (s : State) : State :=
  let s := { s with chip := { s.chip with fatal := if s.chip.fatal = 0 then cause else s.chip.fatal
                                          gather := s.chip.gather && decide (cause = 5) } }
  let s := setStatus bitFatal s
  match r with
  | some r => raise r s
  | none => s

/-- Sets FATAL for a cause whose fault is the device fatal of R419. -/
def setFatal70 (cause : Nat) (s : State) : State := setFatal cause (some (s.repNone 0x70 5 engLookout cause)) s

/-- A tally unit finds a CRC-32C mismatch (R181, R182): it is counted, CHK is set, and the fold raises the fault or, under
the hold policy of the job, holds it. `unit` numbers the units of R46: 0 drover in, 1 mast in, 2 queue in, 3 queue out,
4 drain out. -/
def tallyFault (f unit : Nat) (peer : Option (Bool × Nat)) (r : FaultRep) (s : State) : State :=
  let s := checkCount 5 1 s
  match s.job with
  | some j =>
    if j.tallyHold && j.open_ then
      s.onFold f fun x =>
        let h := x.ex.tally.getD { rep := r, unit := unit, peer := peer, cycles := 0 }
        { x with ex := { x.ex with tally := some h } }
    else (raise r s).tr f 9 engTally r.tag r.code
  | none => s

/-! ### Shape and encoding details (R418) -/

def detailSlot (slot : Nat) : Nat := at_ 61 3 slot
def detailShape (rule : Nat) : Nat := at_ 48 16 rule
def detailShapeTile (rule tile : Nat) : Nat := at_ 48 16 rule + at_ 44 4 tile + at_ 43 1 1
def detailBusy (unit holder index : Nat) : Nat := at_ 60 4 unit + at_ 48 12 holder + at_ 40 8 index

/-! ### Memory of the device and of the host (R314, R357, R361) -/

def memDefault : Byte := 0

/-- Usable bytes behind one port: 15/16 of its raw capacity (R314). -/
def State.portBytes (s : State) : Nat := s.msd.rawGiB * 2 ^ 30 / 16 * 15

/-- The device address limit (R314, OD 0x5000.04). -/
def State.limit (s : State) : Nat := s.chip.grade.ports * s.portBytes

/-- Bit 63 names host memory (R11, R228, R366, R370). -/
def isHost (a : Nat) : Bool := bitOf a 63

/-- The 4 KiB page of a host address. -/
def pageOf (a : Nat) : Nat := a % 2 ^ 63 / 4096 * 4096

/-- The PASID that host accesses carry: that of the running job, or of one that is about to start (R362). -/
def State.jobPasid (s : State) : Option Nat :=
  match s.job with
  | some j => if j.sub.pv then some j.sub.pasid else none
  | none => s.host.listPasid

def TtEnt.covers (e : TtEnt) (pasid : Option Nat) (page : Nat) : Bool :=
  e.valid && decide (e.pasid = pasid) && decide (e.ubase ≤ page) && decide (page < e.ubase + e.size)

/-- The entry that translates a page, if any (R362). -/
def State.transOf (s : State) (page : Nat) : Option TtEnt := s.host.tt.find? fun e => e.covers s.jobPasid page

/-- The translated address of an untranslated host address (R362); an access is made only once its page is translated. -/
def State.hostAddr (s : State) (a : Nat) : Nat :=
  match s.transOf (pageOf a) with
  | some e => e.tbase + (a % 2 ^ 63 - e.ubase)
  | none => a % 2 ^ 63

/-- Bytes `a` to `a + n - 1`, page by page: address and bytes. -/
def pageRuns : Nat → Nat → Nat → List (Nat × Nat)
  | 0, _, _ => []
  | k + 1, a, n => if n = 0 then [] else
    let m := min n (4096 - a % 4096)
    (a, m) :: pageRuns k (a + m) (n - m)

def State.readHost (s : State) (a n : Nat) : List Byte :=
  (pageRuns (n / 4096 + 2) a n).flatMap fun r => peekRun memDefault s.host.hostMem (s.hostAddr r.1) r.2

/-- `n` bytes from address `a` of device or host memory. -/
def State.readMem (s : State) (a n : Nat) : List Byte :=
  if isHost a then s.readHost a n else peekRun memDefault s.msd.mem a n

/-- A device line lies inside an active coherent window (R360). -/
def State.windowed (s : State) (a : Nat) : Bool :=
  s.host.windows.any fun w =>
    let v := w.2.toNat
    bitOf v 0 && decide (fld v 35 29 ≤ a / 4096) && decide (a / 4096 < fld v 35 29 + fld v 6 29)

/-- Writes device memory at once. -/
def State.pokeMem (s : State) (a : Nat) (l : List Byte) : State :=
  { s with msd := { s.msd with mem := putRun memDefault s.msd.mem a l } }

def State.pokeHost (s : State) (a : Nat) (l : List Byte) : State :=
  { s with host := { s.host with hostMem := putRun memDefault s.host.hostMem a l } }

/-- A write to host memory, page by page (R357, R362). -/
def State.writeHost (s : State) (a : Nat) (l : List Byte) : State :=
  (pageRuns (l.length / 4096 + 2) a l.length).foldl
    (fun t r => t.pokeHost (s.hostAddr r.1) ((l.drop (r.1 - a)).take r.2)) s

/-! ### What becomes due later (R66, R70) -/

/-- Order of two due parts: the cycle, writes before reads, the issue cycle, the slot from weakest to strongest
(R28, R29, R59). -/
def Due.before (a b : Due) : Bool :=
  decide (a.cycle < b.cycle) ||
    (decide (a.cycle = b.cycle) &&
      ((!a.read && b.read) ||
        (decide (a.read = b.read) &&
          (decide (a.issue < b.issue) || (decide (a.issue = b.issue) && decide (a.slot < b.slot))))))

/-- Inserts a due part behind those that come before it or rank equal. -/
def addDue (d : Due) : List Due → List Due
  | [] => [d]
  | e :: t => if d.before e then d :: e :: t else e :: addDue d t

def addDues (ds : List Due) (l : List Due) : List Due := ds.foldl (fun acc d => addDue d acc) l

/-- A part of an operation of the bundle at issue, due `after` cycles from issue. -/
def Exec.dueAt (x : Exec) (read : Bool) (slot after : Nat) (op : DueOp) : Due :=
  { cycle := x.cycle + after, read := read, issue := x.cycle, slot := slot, tag := x.lastTag, baddr := x.lastBundle,
    op := op }

def Exec.addDue (x : Exec) (d : Due) : Exec := { x with due := Machine.addDue d x.due }

/-- Something of an earlier cycle, or a write of this one, has not yet taken effect. -/
def Exec.overdue (x : Exec) : Bool :=
  match x.due with
  | [] => false
  | d :: _ => decide (d.cycle < x.cycle) || (decide (d.cycle = x.cycle) && !d.read)

/-- Something of this cycle or an earlier one has not yet taken effect. -/
def Exec.unsettled (x : Exec) : Bool :=
  match x.due with
  | [] => false
  | d :: _ => decide (d.cycle ≤ x.cycle)

/-- FOLD transfers on their way to fold `x` of the job, with their sender. -/
def State.inbound (s : State) (x : Fold) : List (Nat × Xfer) :=
  match s.job with
  | none => []
  | some j => j.places.flatMap fun g =>
      ((s.fold g).dr.xfers.filter fun y => decide (y.desc.kind = kFold) && decide (y.desc.dfold = x.ex.prog)).map
        fun y => (g, y)

/-- Lines of remote writes into windows of fold `x` (class 5), with the place of each among those on their way. -/
def State.remoteReqs (s : State) (x : Fold) : List LineReq :=
  (enumFrom 0 (s.inbound x)).filterMap fun e => (e.2.2.remoteLine x).map fun l => (e.1, l, e.2.2.asked.headD 0)

/-- The class that bank `b` of fold `x` serves next (R247). -/
def State.nextClass (s : State) (x : Fold) (b : Nat) : Option Nat :=
  (x.classes b ++ if atBank b (s.remoteReqs x) then [5] else []).min?

/-- A bank of fold `x` has still to serve, in this cycle, a request that a command stands for: a bank that the drover owns serves one
access of those that wait (R247). An inbound message's line lands by itself. -/
def State.unserved (s : State) (x : Fold) : Bool :=
  (x.waitBanks ++ (s.remoteReqs x).map fun (e : LineReq) => e.2.1 % 32).any fun b =>
    x.bankFree b && (s.nextClass x b).any fun c => decide (c ≠ 4)

/-- The cycle of fold `x` cannot end yet: something of it has not taken effect, a bank has still to serve what waits for it (R247), or
a tile row has still to land (R533). -/
def Fold.unsettled (s : State) (x : Fold) : Bool := x.ex.unsettled || s.unserved x || x.rowsDue

/-! ### Occupancy (R67) -/

/-- The end of a unit's occupancy and the bundle that holds it. -/
def Exec.busyAt (x : Exec) (unit : Nat) : Nat × Nat := peek (0, 0) x.busy unit

/-- A unit is still occupied. -/
def Exec.isBusy (x : Exec) (unit : Nat) : Bool := decide (x.cycle < (x.busyAt unit).1)

/-- Occupies a unit for `n` cycles from issue. -/
def Exec.occupy (x : Exec) (unit n : Nat) : Exec :=
  { x with busy := put (0, 0) x.busy unit (x.cycle + n, x.lastBundle) }

/-! ### Requests to scratchpad banks (R99) -/

/-- Every bank at once (R103, R217). -/
def allBanks : Nat := 32

/-- Two requests, each a cycle and a bank, lie in one bank in one cycle or in two consecutive cycles. -/
def bankNear (c1 b1 c2 b2 : Nat) : Bool :=
  (decide (b1 = b2) || decide (b1 = allBanks) || decide (b2 = allBanks)) && decide (c1 ≤ c2 + 1) && decide (c2 ≤ c1 + 1)

/-- A clash of two requests: the cycle of the later one, the bundle at fault, the other bundle and the bank. -/
structure BankHit where
  cycle : Nat
  baddr : Nat
  other : Nat
  bank  : Nat
  deriving DecidableEq, Repr

/-- The earlier clash of two. -/
def BankHit.first (a : Option BankHit) (h : BankHit) : Option BankHit :=
  match a with
  | some g => if h.cycle < g.cycle then some h else some g
  | none => some h

/-- The first clash of a request of bundle `me` with requests already made: the fault is at the bundle of the later
request, or of the later-issued one in one cycle (R99). -/
def bankHitOf (me c b : Nat) (own : Bool) (used : List (Nat × Nat × Nat)) (acc : Option BankHit) : Option BankHit :=
  used.foldl (fun a u =>
    if bankNear u.1 u.2.1 c b && !(own && decide (u.2.1 = allBanks)) then
      if c < u.1 then BankHit.first a { cycle := u.1, baddr := u.2.2, other := me, bank := u.2.1 }
      else BankHit.first a { cycle := c, baddr := me, other := u.2.2, bank := if b = allBanks then u.2.1 else b }
    else a) acc

/-- Makes the requests `reqs` (cycle and bank) of the bundle at issue: all requests made, and the first clash. -/
def bankClaims (me : Nat) (used : List (Nat × Nat × Nat)) (reqs : List (Nat × Nat)) :
    List (Nat × Nat × Nat) × Option BankHit :=
  let r := reqs.foldl (fun (a : List (Nat × Nat × Nat) × Option BankHit) q =>
    (a.1 ++ [(q.1, q.2, me)],
      bankHitOf me q.1 q.2 true a.1 (bankHitOf me q.1 q.2 false used a.2))) ([], none)
  (used ++ r.1, r.2)

/-- Requests that can still clash with one made from cycle `c` on. -/
def pruneBanks (c : Nat) (used : List (Nat × Nat × Nat)) : List (Nat × Nat × Nat) :=
  used.filter fun u => decide (c ≤ u.1 + 1)

/-! ### The issue of a bundle (R21-R26, R57-R66, log entry 5) -/

/-- The debugger has halted the fold, is halting it or steps it (R520). -/
def Debug.busy (d : Debug) : Bool := d.req || d.held || d.stepping

/-- The debugger lets the fold go. -/
def Debug.release (d : Debug) : Debug := { d with req := false, all := false, held := false, stepping := false, steps := 0 }

/-- Timers of the job pause while a fold is in a debug halt (R305, R520). -/
def State.paused (s : State) : Bool := s.job.isSome && s.folds.any fun p => p.2.db.busy

/-- One more cycle waited, unless timers pause. -/
def Wait.count (paused : Bool) (w : Wait) : Wait := if paused then w else { w with cycles := w.cycles + 1 }

/-- Rows whose last pass has left the feeders by cycle `c` are gone (R125). -/
def Matrix.feed (x : Matrix) (c : Nat) : Matrix :=
  if x.feeder.isEmpty then x else { x with feeder := x.feeder.filter fun r => decide (c < r.gone) }

/-- The image lines delivered to tile landings so far complete rows from the next cycle on (R533). -/
def Drover.settle (x : Drover) : Drover :=
  if x.xfers.any (fun y => decide (y.had ≠ y.got)) then { x with xfers := x.xfers.map fun y => { y with had := y.got } } else x

/-- One cycle of the fold's arithmetic clock: what belongs to the cycle before ends, the wait timers count, and pennants that the
dictionary sets take their values (R27, R66, R75, R97, R308). -/
def Fold.advance (paused : Bool) (y : Fold) : Fold :=
  let x := y.endDrover.drainTaps
  { x with
    ex := { x.ex with cycle := x.ex.cycle + 1, issued := false, slots := 0, bad := none,
                      wait := x.ex.wait.map (Wait.count paused),
                      tally := x.ex.tally.map fun t => if paused then t else { t with cycles := t.cycles + 1 },
                      active := x.ex.active.filter fun p => decide (x.ex.cycle + 1 ≤ p.2),
                      bankUse := pruneBanks (x.ex.cycle + 1) x.ex.bankUse }
    sp := { x.sp with served := [], past := false }
    ti := { x.ti with wrote := [], rowsNow := [] }
    mx := x.mx.feed (x.ex.cycle + 1)
    dr := x.dr.settle
    db := { x.db with stretched := x.db.stretched + b2n x.db.droop }
    qu := { x.qu with popNow := none, ending := [], pn := x.qu.pnSet.foldl (fun m w => put 0 m w.1 w.2) x.qu.pn, pnSet := [] }
    sh := { x.sh with wait := x.sh.wait.map (Wait.count paused) } }

/-- What happens when a bundle reaches issue. -/
inductive Reach where
  /-- It does not reach issue in this state. -/
  | no
  /-- It raises a fault: code, detail, bundle address and tag of the record, with the fold as it then stands. -/
  | bad (x : Fold) (code detail addr : Nat) (tag : BitVec 12)
  /-- The abort stops the fold at this stall point (R25, R410). -/
  | stop (x : Fold)
  /-- It is at issue. -/
  | go (x : Fold)

/-- The fold executes its bundle stream: not halted by a debugger, held by a tap copy or in a tally hold (R182). -/
def Fold.executes (x : Fold) : Bool :=
  decide (x.ex.run = .running) && !x.db.held && decide (x.dr.tapping = none) && x.ex.tally.isNone

/-- The cycle of this fold in which a message that a q.send of `k` lines sent on this device has arrived at the latest (R70). -/
def OutMsg.due (m : OutMsg) : Nat := m.issue + m.lines + 5 + 48

/-- A message that R70 bounds: from a q.send, to a fold of this device. -/
def QueueUnit.bounded (u : QueueUnit) (m : OutMsg) : Bool :=
  m.ready && m.xfer.isNone && !(peek CEnt.none u.ctab m.ch).rem

/-- Something that is due by cycle `c` has not taken effect (R70): an increment of one of the fold's own pennants or of another
fold's (R301), the delivery of a verdict (R173), the arrival of a message (R288) or of a FOLD (R534) of this fold, or a credit or
revocation of this device (R293, R295). -/
def Fold.late (x : Fold) (c : Nat) : Bool :=
  (x.qu.outPn.any fun m => decide (m.due ≤ c)) || (x.mx.verdicts.any fun v => decide (v.cycle ≤ c)) ||
    (x.qu.outMsg.any fun m => x.qu.bounded m && decide (m.due ≤ c)) || (x.dr.xfers.any fun y => y.overdue c) ||
    (x.qu.credIn ++ x.qu.revIn).any fun e => match e.2 with
      | some d => decide (d ≤ c)
      | none => false

/-- The cycle of a fold whose bundle has issued can end: the ctl slot has followed its qp stall point, and all that is due up to it has
taken effect. -/
def Fold.canEnd (s : State) (x : Fold) : Bool := x.ex.issued && !x.ex.ctlDue && !x.unsettled s && !x.late x.ex.cycle

/-- The fold in cycle `c`, where that is the next one and the present one can end. -/
def Fold.reaching (s : State) (c : Nat) (x : Fold) : Fold :=
  if decide (c = x.ex.cycle + 1) && x.canEnd s then x.advance s.paused else x

/-- The cycle up to which what is due may take effect now: the next one when the bundle of this one has issued. -/
def Exec.upTo (x : Exec) : Nat := x.cycle + b2n x.issued

/-- A step has issued its bundles: the fold halts before the next one (R518). -/
def Debug.stepped (d : Debug) : Bool := d.stepping && decide (d.steps = 0)

/-- The next bundle is the one that the breakpoint names, and it has not been let past (R517, R518). -/
def Fold.atBreak (x : Fold) : Bool :=
  x.db.brk.getLsbD 15 && decide (x.db.brk.toNat % 2 ^ 12 = x.ex.nextBundle) && !x.ex.brkPass

/-- The next bundle holds a stall point and nothing keeps it from issue but the preemption (R25). -/
def atStall (x : Fold) : Bool :=
  x.ex.wait.isSome ||
    (let b := x.ex.nextBundle
     let w := peek 0 x.ex.bundles b
     decide (b < x.ex.bundleCnt) && (bundleEnc w).isNone && (ctlStall w || qpStall w))

/-- A tap entry that must fire before the fold's stall point at `b` is evaluated (R425). -/
def tapDue (s : State) (x : Fold) (b : Nat) : Option Nat :=
  match s.job with
  | some j =>
    match j.taps with
    | some l =>
      (enumFrom 0 l.ents).findSome? fun p =>
        if p.2.fold = x.ex.prog && p.2.step = j.step && p.2.baddr = b && p.2.occ = peek 0 x.dr.arrivals b
            && !x.dr.fired.contains p.1 then some p.1 else none
    | none => none
  | none => none

/-- The bundle address is named by a tap entry of the fold. -/
def tapped (s : State) (x : Fold) (b : Nat) : Bool :=
  match s.job with
  | some j =>
    match j.taps with
    | some l => l.ents.any fun e => decide (e.fold = x.ex.prog) && decide (e.baddr = b)
    | none => false
  | none => false

/-- The job's phase lets stall points be evaluated: neither aborting nor preempting. -/
def State.aborting (s : State) : Bool := match s.job with | some j => decide (j.phase = .aborting) | none => false
def State.preempting (s : State) : Bool := match s.job with | some j => decide (j.phase = .preempting) | none => false

/-- The next bundle of fold `f`, which `is` must know for the command's own (log entry 5), reaches issue: in the cycle after the
last one, or again when it waits for `on`. -/
def reach (s : State) (f : Nat) (on : Option WaitOn) (is : BitVec 256 → Bool) : Reach :=
  let x := s.fold f
  if !x.executes || x.ex.ctlDue || s.job.isNone || x.db.stepped then .no
  else
    match x.ex.wait with
    | some w =>
      if x.late x.ex.cycle || !is (peek 0 x.ex.bundles x.ex.nextBundle) then .no
      else if on = some w.on then (if s.aborting then .stop x else if s.preempting || x.db.req then .no else .go x) else .no
    | none =>
      if (if x.ex.issued then x.unsettled s else x.ex.overdue) then .no
      else
        let x := if x.ex.issued then x.advance s.paused else x
        if x.late x.ex.cycle then .no else
        let b := x.ex.nextBundle
        let w := peek 0 x.ex.bundles b
        if x.atBreak && !s.aborting then .no
        else if x.ex.bundleCnt ≤ b then .bad x 0x12 b x.ex.lastBundle x.ex.lastTag
        else if peek 0 x.ex.berr b = 2 then .bad x 0x54 (at_ 0 16 b) b (bundleTag w)
        else if !is w then .no
        else
          match bundleEnc w with
          | some k => .bad x 0x10 (detailSlot k) b (bundleTag w)
          | none =>
            if on.isSome then
              if s.aborting then .stop x
              else if s.preempting || x.db.req || (tapDue s x b).isSome then .no
              else .go x
            else if ctlStall w || qpStall w then .no
            else if 8192 ≤ x.ex.sinceStall then .bad x 0x14 0 b (bundleTag w)
            else .go x

/-- The bundle whose stall point fold `x` evaluates in this cycle (R25, R302): the one that waits, or the next one when this cycle's has
not issued yet; none while a debugger, a tap copy, a preemption or an abort keeps it from being evaluated. -/
def Fold.coming (s : State) (x : Fold) : Option (BitVec 256) :=
  let b := x.ex.nextBundle
  let w := peek 0 x.ex.bundles b
  if !x.executes || s.preempting || s.aborting || x.db.req || x.db.stepped then none
  else if x.ex.wait.isSome then some w
  else if x.ex.issued || x.ex.ctlDue || x.atBreak || decide (x.ex.bundleCnt ≤ b) || decide (peek 0 x.ex.berr b = 2) ||
      (bundleEnc w).isSome || (tapDue s x b).isSome then none
  else some w

/-- The value of pennant `p` (R299). -/
def QueueUnit.pennant (u : QueueUnit) (p : Nat) : Nat := (peek 0 u.pn p).toNat

/-- The stall point of this cycle takes pennant `p` (R302). -/
def Fold.stallTakes (s : State) (x : Fold) (p : Nat) : Bool :=
  ((x.coming s).bind stallPn).any fun e => decide (e.1 = p) && decide (e.2 ≤ x.qu.pennant p)

/-- The bundle at issue governs the declaration from now on (R61). -/
def Exec.govern (x : Exec) : Exec :=
  let w := peek 0 x.bundles x.nextBundle
  { x with pwr := bundlePwr w, lastBundle := x.nextBundle, lastTag := bundleTag w }

/-- More arrays are active than the declaration states (R62). -/
def Exec.overPower (x : Exec) : Bool := decide (x.pwr < (x.active.filter fun p => decide (x.cycle ≤ p.2)).length)

/-- The bundle at issue is read from bundle memory: a single-bit error in it is corrected and counted (R418, log entry 108). -/
def Fold.fetched (x : Fold) : Fold :=
  let b := x.ex.nextBundle
  if peek 0 x.ex.berr b = 1 then
    { x with ex := { x.ex with berr := put 0 x.ex.berr b 0 }, sp := { x.sp with eccCount := ctrAdd x.sp.eccCount 1 } }
  else x

/-- The count of `Fold.fetched` may stick, which is logged (R430). -/
def bundleStick (x : Fold) (s : State) : State :=
  if peek 0 x.ex.berr x.ex.nextBundle = 1 then logStick x.sp.eccCount 1 s else s

/-- The bundle at issue issues: its other slots may follow in this cycle (R65). -/
def Fold.issue (x : Fold) (stall : Bool) (tap : Bool) : Fold :=
  let b := x.ex.nextBundle
  { x with
    ex := { x.ex.govern with issued := true, slots := 0, bad := none, brkPass := false, wait := none,
                             sinceStall := if stall then 0 else x.ex.sinceStall + 1 }
    db := { x.db with steps := x.db.steps - 1 }
    dr := { x.dr with arrivals := if tap then put 0 x.dr.arrivals b (peek 0 x.dr.arrivals b + 1) else x.dr.arrivals } }

/-- The fold stops issuing at a bundle that raised a fault (log entry 19). -/
def Fold.failAt (x : Fold) (key : Nat) : Fold := { x with ex := { x.ex with run := .stopped, bad := some key } }

/-- A bundle raises a fault at issue instead of issuing. -/
def failIssue (s : State) (f : Nat) (x : Fold) (code slot engine detail addr : Nat) (tag : BitVec 12) : State :=
  (s.setFold f (x.failAt (8 * code + slot))).raiseFold f code engine 1 addr tag detail

/-- A bundle raises a fault at issue that a lower code of another of its slots replaces (R532): those slots are still
examined. -/
def failOpen (s : State) (f : Nat) (x : Fold) (code slot engine detail : Nat) : State :=
  let y := x.issue false false
  failIssue s f y code slot engine detail y.ex.lastBundle y.ex.lastTag

/-- The reports of fold `f` that the bundle at issue has raised. -/
def dropIssueReport (f cycle addr : Nat) (s : State) : State :=
  s.onJob fun j => { j with reports := j.reports.filter fun r =>
    !(decide (r.lfold = f) && r.lv && decide (r.akind = 1) && decide (r.cycle = cycle) && decide (r.addr = addr)) }

/-- A slot of the bundle at issue raises a fault: of several the lowest code remains, then the lowest slot (R532). -/
def slotFault (s : State) (f slot code engine detail : Nat) : State :=
  let x := s.fold f
  let key := 8 * code + slot
  match x.ex.bad with
  | none => failIssue s f x code slot engine detail x.ex.lastBundle x.ex.lastTag
  | some k =>
    if key < k then
      failIssue (dropIssueReport f x.ex.cycle x.ex.lastBundle s) f x code slot engine detail x.ex.lastBundle x.ex.lastTag
    else s

/-- Runs the power check of R62 for the bundle that governs fold `f`. -/
def powerCheck (f : Nat) (s : State) : State :=
  if (s.fold f).ex.overPower then slotFault s f 5 0x15 engExec 0 else s

/-- The bundle at issue holds the instruction (log entry 5). -/
def Exec.issues (x : Exec) (i : Instr) : Bool := inBundle i (peek 0 x.bundles x.lastBundle)

/-- A bundle whose ctl slot holds instruction `i`, which is no stall point, issues, or its ctl slot follows its qp stall
point; `g` gives the fold after the instruction and the next bundle, from the fold at issue. -/
def ctlIssue (s : State) (f : Nat) (i : Instr) (g : Fold → Fold × Nat) : State :=
  let x := s.fold f
  if x.ex.ctlDue then
    if x.ex.issues i then
      let (y, n) := g x
      s.setFold f { y with ex := { y.ex with ctlDue := false, nextBundle := n } }
    else s
  else
    match reach s f none (inBundle i) with
    | .no => s
    | .stop x => s.setFold f { x with ex := { x.ex with run := .stopped } }
    | .bad x code detail addr tag =>
      if code = 0x14 then failOpen s f x code 0 engExec detail else failIssue s f x code 0 engExec detail addr tag
    | .go x =>
      let s := bundleStick x s
      let x := x.fetched.issue false false
      let (y, n) := g x
      powerCheck f (s.setFold f { y with ex := { y.ex with nextBundle := n } })

/-- The wait report's WKIND and OBJ of a wait (R307). -/
def WaitOn.kind : WaitOn → Nat × Nat
  | .token t => (0, t.toNat)
  | .recv q => (1, q.toNat)
  | .sel m => (2, m.toNat)
  | .send c => (3, c.toNat)
  | .pn p _ => (4, p.toNat)
  | .gpn g _ => (5, g.toNat)
  | .step => (6, 0)
  | .arm p => (7, p.toNat)
  | .end_ => (8, 0)
  | .shPwait p _ => (9, p.toNat)
  | .shDvapp l => (10, l - 2)
  | .shTpush => (11, 0)

/-- A wait that begins in cycle `c`. -/
def Wait.start (on : WaitOn) (c : Nat) (noted : Bool) : Wait := { on := on, cycles := 0, seen := false, began := c, noted := noted }

/-- The bundle at issue begins to wait; its declaration covers the wait (R61, R527). -/
def beginWait (s : State) (f : Nat) (x : Fold) (on : WaitOn) : State :=
  if x.ex.wait.isSome then s
  else
    let k := on.kind
    let t := s.setFold f { x with ex := { x.ex.govern with wait := some (.start on x.ex.cycle true) } }
    powerCheck f (t.tr f 1 engExec (bundleTag (peek 0 x.ex.bundles x.ex.nextBundle)) (at_ 60 4 k.1 + at_ 44 16 k.2))

/-- The wait of the bundle at issue, if any, ends (R527): the record holds the cycles of the fold's clock since it began. -/
def endWait (s : State) (f : Nat) (w : Option Wait) : State :=
  match w with
  | some w => if w.noted then s.tr f 2 engExec (s.fold f).ex.lastTag ((s.fold f).ex.cycle - w.began) else s
  | none => s

/-- A fold that waits has its condition fulfilled and has not yet observed it: it issues in the next cycle (R23). -/
def Exec.unseen (x : Exec) : Bool := x.wait.any fun w => !w.seen

/-- A stall-point bundle reaches issue through its instruction `i`, which waits for `on` (R22, R23): a fault, a wait,
or issue by `take`, which answers the state after the instruction and the next bundle. `ctl` says which slot holds
the stall point. -/
def stallIssue (s : State) (f : Nat) (ctl : Bool) (on : WaitOn) (i : Instr) (bad : State → Fold → Option (Nat × Nat × Nat))
    (holds : State → Fold → Bool) (take : State → Fold → State × Nat) : State :=
  let slot := if ctl then 0 else 4
  match reach s f (some on) (inBundle i) with
  | .no => s
  | .stop x => s.setFold f { x with ex := { x.ex with run := .stopped, wait := none } }
  | .bad x code detail addr tag => failIssue s f x code 0 engExec detail addr tag
  | .go x =>
    if holds s x && x.ex.unseen then s
    else
      match bad s x with
      | some (code, eng, detail) => powerCheck f (failOpen s f x code slot eng detail)
      | none =>
        if holds s x then
          let y := x.fetched.issue true (tapped s x x.ex.nextBundle)
          let t := endWait ((bundleStick x s).setFold f { y with ex := { y.ex with ctlDue := !ctl } }) f x.ex.wait
          let (t, n) := take t (t.fold f)
          powerCheck f (t.onFold f fun z => { z with ex := { z.ex with nextBundle := if ctl then n else z.ex.nextBundle } })
        else beginWait s f x on

/-- A slot without a stall point may issue: its bundle has issued in this cycle and the slot has not. -/
def slotOpen (s : State) (f slot : Nat) : Bool :=
  let x := s.fold f
  x.ex.issued && !x.ex.slots.getLsbD (slot - 1) && s.job.isSome && !x.ex.overdue && decide (1 ≤ slot) &&
    (decide (x.ex.run = .running) || decide (x.ex.run = .ended) || x.ex.bad.isSome)

/-- A slot of the bundle at issue, which holds instruction `i`, issues: the lowest of its faults, or `act` on the state with
the slot marked. `slot` is the slot code of the encoding detail word. -/
def slotIssue (s : State) (f slot : Nat) (i : Instr) (bad : State → Fold → Option (Nat × Nat × Nat))
    (act : State → Fold → State) : State :=
  if slotOpen s f slot && (s.fold f).ex.issues i then
    let s := s.onFold f fun x => { x with ex := { x.ex with slots := x.ex.slots ||| BitVec.ofNat 4 (2 ^ (slot - 1)) } }
    let x := s.fold f
    match bad s x with
    | some (code, engine, detail) => slotFault s f slot code engine detail
    | none => if x.ex.bad.isSome then s else act s x
  else s

end Sys2Proof.Machine
end

