-- ==== Sys2Proof/Machine/Store.lean ====
section
/-! DEFINITION. The stores of a fold: scratchpad bytes with their SECDED (R95-R107), regions (R108-R110), tile rows with
their parity (R78-R93), and the requests of an instruction to scratchpad banks (R99). -/
namespace Sys2Proof.Machine

/-! ### Scratchpad -/

/-- 64-bit words that `n` bytes from `a` touch. -/
def wordsOf (a n : Nat) : List Nat := (List.range ((a + n - 1) / 8 + 1 - a / 8)).map fun i => a / 8 + i

/-- One word is accessed: a single-bit error is corrected, counted and queued for write-back, a double-bit error raises a
scratchpad ECC fault (R107). -/
def touchWord (f akind addr : Nat) (tag : BitVec 12) (s : State) (w : Nat) : State :=
  let x := s.fold f
  match peek 0 x.sp.err w with
  | 0 => s
  | 1 => logStick x.sp.eccCount 1 (s.setFold f { x with sp := { x.sp with
      eccCount := ctrAdd x.sp.eccCount 1
      wback := if x.sp.wback.contains w then x.sp.wback else x.sp.wback ++ [w] } })
  | _ => s.raiseFold f 0x52 engScratch akind addr tag (at_ 59 5 (w / 8 % 32) + at_ 42 17 (w / 8) + at_ 0 3 w)

/-- An access reads `n` bytes from byte address `a` of fold `f`'s scratchpad: what R107 does with the errors it finds. -/
def spTouch (f akind addr : Nat) (tag : BitVec 12) (a n : Nat) (s : State) : State :=
  if (s.fold f).sp.err.isEmpty || n = 0 then s else (wordsOf a n).foldl (touchWord f akind addr tag) s

/-- Words that a write of `n` bytes from `a` covers only in part. -/
def partWords (a n : Nat) : List Nat :=
  (wordsOf a n).filter fun w => !(decide (a ≤ 8 * w) && decide (8 * w + 8 ≤ a + n))

/-- A write of bytes at byte address `a` of fold `f`'s scratchpad; partial words merge (R106, R107). -/
def spStore (f akind addr : Nat) (tag : BitVec 12) (a : Nat) (l : List Byte) (s : State) : State :=
  let s := if (s.fold f).sp.err.isEmpty || l.isEmpty then s
    else (partWords a l.length).foldl (touchWord f akind addr tag) s
  s.onFold f fun x => { x with sp := x.sp.write a l }

/-! ### Regions (R108-R110) -/

/-- The queue whose region holds line `l`. -/
def QueueUnit.regionOf (u : QueueUnit) (l : Nat) : Option Nat :=
  (u.qtab.find? fun e => decide (e.2.base ≤ l) && decide (l < e.2.base + e.2.lines)).map (·.1)

/-- The space window that holds line `l`. -/
def QueueUnit.windowOf (u : QueueUnit) (l : Nat) : Option Nat :=
  (u.wtab.find? fun e => decide (e.2.base ≤ l) && decide (l < e.2.base + e.2.lines)).map (·.1)

/-- A line of the fold's own queue regions. -/
def QueueUnit.inQueue (u : QueueUnit) (l : Nat) : Bool := (u.regionOf l).isSome

/-! ### Tiles (R78-R88) -/

def cfgRows (w : BitVec 32) : Nat := fld w.toNat 0 7 + 1
def cfgRbc (w : BitVec 32) : Nat := fld w.toNat 8 3
def cfgRB (w : BitVec 32) : Nat := 16 * (cfgRbc w + 1)
def cfgFmt (w : BitVec 32) : Nat := fld w.toNat 11 4
def cfgExpoff (w : BitVec 32) : Int := sext 17 (fld w.toNat 15 17)

/-- Row bytes that a format allows (R80). -/
def rbAllowed (fmt rb : Nat) : Bool :=
  match fmt with
  | 3 => [32, 64, 96, 128].contains rb
  | 0xA | 0xB => rb = 48 || rb = 96
  | 0xC | 0xD | 0xE | 0xF => false
  | _ => true

def Tiles.word (x : Tiles) (t : Nat) : BitVec 32 := peek 0 x.cfg t
def Tiles.used (x : Tiles) (t : Nat) : Bool := x.inUse.getLsbD t
def Tiles.incomplete (x : Tiles) (t : Nat) : Bool := x.incomp.getLsbD t

/-- Sets bit `t` of a 16-bit mask. -/
def maskSet (m : BitVec 16) (t : Nat) (v : Bool) : BitVec 16 := BitVec.ofNat 16 (setBit m.toNat t v)

/-- Key of tile row `r` of tile `t`. -/
def rowKey (t r : Nat) : Nat := 128 * t + r

/-- Bytes `lo` onward of a row that holds no defined content: free values (R87, R91, log entry 24). -/
def Tiles.junkBytes (x : Tiles) (k lo n : Nat) : List Byte :=
  (List.range n).map fun i => Config.freeBits 8 (2 ^ 64 * (peek 0 x.junk (k / 128) + 1) + 256 * k + lo + i)

/-- The data bytes of a tile row, `rb` of them. -/
def Tiles.row (x : Tiles) (t r rb : Nat) : List Byte :=
  if peek false x.known (rowKey t r) then peekRun 0 x.dat (128 * rowKey t r) rb else x.junkBytes (rowKey t r) 0 rb

/-- The exponent field of a tile row: eight bytes (R81). -/
def Tiles.rowExps (x : Tiles) (t r : Nat) : List Byte :=
  if peek false x.known (rowKey t r) then peekRun 0 x.exps (8 * rowKey t r) 8 else x.junkBytes (rowKey t r) 128 8

/-- Key of the parity bit of a row's 32-bit word `w` (R93): 0 to 31 are data, 32 and 33 the exponent field. -/
def parKey (t r w : Nat) : Nat := 34 * rowKey t r + w

/-- Parity is made anew for `n` words of a row from word `w` (R93). -/
def Tiles.fresh (x : Tiles) (t r w n : Nat) : Tiles :=
  if x.bad.isEmpty then x
  else { x with bad := x.bad.filter fun e => !(decide (parKey t r w ≤ e.1) && decide (e.1 < parKey t r w + n)) }

/-- A write to a row takes effect: no read port returns it from its latch any more (R94). -/
def Tiles.unlatch (x : Tiles) (t r : Nat) : Tiles :=
  if x.latch.isEmpty then x else { x with latch := x.latch.filter fun e => !e.2.contains (rowKey t r) }

/-- Read port `p` reads row `r` of the `n` tiles from `t` (R94). -/
def Tiles.latchRow (x : Tiles) (p t n r : Nat) : Tiles :=
  { x with latch := put [] x.latch p ((List.range n).map fun i => rowKey (t + i) r) }

/-- Writes a tile row and its exponent bytes, with fresh parity for what it writes (R93); in a tile not in use they leave the row
undefined (R87, R91). -/
def Tiles.putRow (x : Tiles) (t r : Nat) (bytes exps : List Byte) : Tiles :=
  let y := ((x.fresh t r 0 (bytes.length / 4)).fresh t r 32 (exps.length / 4)).unlatch t r
  { y with dat := putRun 0 x.dat (128 * rowKey t r) bytes
           exps := putRun 0 x.exps (8 * rowKey t r) exps
           known := if x.used t then put false x.known (rowKey t r) true else x.known }

/-- Reading row `r` finds a word whose parity does not match (R93): one of its data, or of its exponents if its format has any. -/
def Tiles.rowBad (x : Tiles) (t r : Nat) : Bool :=
  x.bad.any fun e => e.2 && decide (e.1 / 34 = rowKey t r) &&
    (decide (e.1 % 34 < cfgRB (x.word t) / 4) || (decide (32 ≤ e.1 % 34) && fmtExps (cfgFmt (x.word t))))

/-- The content of a tile becomes undefined (R87). -/
def Tiles.forget (x : Tiles) (ctr t : Nat) : Tiles :=
  { x with known := x.known.filter fun e => decide (e.1 / 128 ≠ t), junk := put 0 x.junk t (ctr + 1) }

/-- Reading a tile row checks its parity (R93): a mismatch is a tile parity fault of the bundle that reads. -/
def touchRow (f baddr : Nat) (tag : BitVec 12) (t r : Nat) (s : State) : State :=
  if (s.fold f).ti.rowBad t r then
    s.raiseFold f 0x50 engSp 1 baddr tag (at_ 44 4 t + at_ 0 7 r)
  else s

/-- Read port `p` of fold `f` keeps the row that it reads in its latch (R94). -/
def readPort (f p t n r : Nat) (s : State) : State := s.onFold f fun x => { x with ti := x.ti.latchRow p t n r }

/-- A span of `n` tiles from `t`: aligned, in use and equally configured (R85, R88); the shape rule it breaks with the
tile named. -/
def spanBad (x : Tiles) (t n : Nat) : Option (Nat × Nat) :=
  if t % n ≠ 0 then some (85, t)
  else
    match (List.range n).find? fun i => !x.used (t + i) with
    | some i => some (88, t + i)
    | none =>
      if (List.range n).all fun i =>
          decide ((x.word (t + i)).toNat % 2 ^ 15 = (x.word t).toNat % 2 ^ 15) then none
      else some (85, t)

/-- Row `r` of a span of `n` tiles: bytes concatenated, and exponent fields concatenated (R85). -/
def Tiles.spanRow (x : Tiles) (t n r : Nat) : List Byte × List (List Byte) :=
  ((List.range n).flatMap fun i => x.row (t + i) r (cfgRB (x.word t)), (List.range n).map fun i => x.rowExps (t + i) r)

/-! ### Requests to banks at issue (R99) -/

/-- The requests of an instruction clash in the cycle of issue: a slot fault of the issuing bundle. Later clashes are raised in
their own cycle. -/
def claimBad (x : Fold) (reqs : List (Nat × Nat)) : Option (Nat × Nat × Nat) :=
  match (bankClaims x.ex.lastBundle x.ex.bankUse reqs).2 with
  | some h => if h.cycle ≤ x.ex.cycle && h.baddr = x.ex.lastBundle
      then some (0x13, engScratch, detailBusy 13 h.other h.bank) else none
  | none => none

/-- Makes the requests of an instruction that issues. -/
def claim (slot : Nat) (reqs : List (Nat × Nat)) (x : Exec) : Exec :=
  let r := bankClaims x.lastBundle x.bankUse reqs
  let x := { x with bankUse := r.1 }
  match r.2 with
  | some h => x.addDue { cycle := h.cycle, read := true, issue := x.cycle, slot := slot, tag := x.lastTag,
                         baddr := x.lastBundle, op := .bankFault h.baddr h.other h.bank }
  | none => x

end Sys2Proof.Machine
end

