-- ==== Sys2Proof/Machine/Desc.lean ====
section
/-! DEFINITION. Descriptors: their fields (R234-R252), the lists that hold them and their start conditions (R227-R233). -/
namespace Sys2Proof.Machine

/-! ### The common part (R234) -/

def Desc.wpn (d : Desc) : Nat := fld d.n 246 6
def Desc.wn (d : Desc) : Nat := fld d.n 238 8
def Desc.tok (d : Desc) : Bool := bitOf d.n 237
def Desc.ttag (d : Desc) : BitVec 12 := BitVec.ofNat 12 (fld d.n 225 12)
def Desc.ntf (d : Desc) : Bool := bitOf d.n 224
def Desc.nfold (d : Desc) : Nat := fld d.n 219 5
def Desc.npn (d : Desc) : Nat := fld d.n 213 6
def Desc.xcrc (d : Desc) : Bool := bitOf d.n 212
def Desc.expcrc (d : Desc) : Nat := fld d.n 160 32

/-! ### LINK (R236), READ and WRITE (R237) -/

def Desc.next (d : Desc) : Nat := fld d.n 96 64
def Desc.fork (d : Desc) : Bool := bitOf d.n 95
/-- ADDR of a READ or WRITE. -/
def Desc.mem (d : Desc) : Nat := fld d.n 96 64
def Desc.nodeWord (d : Desc) : Nat := fld d.n 80 16
def Desc.peer (d : Desc) : Bool := bitOf d.nodeWord 15
def Desc.node (d : Desc) : Nat := d.nodeWord % 4096
def Desc.len (d : Desc) : Nat := fld d.n 63 17 + 1
def Desc.dk (d : Desc) : Nat := fld d.n 61 2
def Desc.line (d : Desc) : Nat := fld d.n 44 17
def Desc.tile (d : Desc) : Nat := fld d.n 40 4
def Desc.row0 (d : Desc) : Nat := fld d.n 33 7
def Desc.spanC (d : Desc) : Nat := fld d.n 31 2
def Desc.fmt (d : Desc) : Nat := fld d.n 27 4
def Desc.rbc (d : Desc) : Nat := fld d.n 24 3
def Desc.rows (d : Desc) : Nat := fld d.n 17 7 + 1
def Desc.wt (d : Desc) : Bool := bitOf d.n 16
def Desc.spl (d : Desc) : Nat := fld d.n 14 2
def Desc.ck (d : Desc) : Bool := bitOf d.n 13
def Desc.cks (d : Desc) : Nat := fld d.n 11 2
def Desc.dcf (d : Desc) : Nat := fld d.n 9 2
def Desc.gstr (d : Desc) : Nat := if fld d.n 1 8 = 0 then 1 else fld d.n 1 8

/-! ### FOLD and CHAN (R243) -/

def Desc.fLine (d : Desc) : Nat := fld d.n 143 17
def Desc.fLen (d : Desc) : Nat := fld d.n 126 17 + 1
def Desc.cpn (d : Desc) : Nat := fld d.n 95 6
def Desc.ch (d : Desc) : Nat := fld d.n 91 4

/-! ### MSRC (R251) and MTAP (R252) -/

def Desc.msid (d : Desc) : Nat := fld d.n 88 8
def Desc.subs (d : Desc) : Nat := fld d.n 56 32
def Desc.mLen (d : Desc) : Nat := fld d.n 46 10 + 1
def Desc.mGstr (d : Desc) : Nat := if fld d.n 38 8 = 0 then 1 else fld d.n 38 8
def Desc.mFmt (d : Desc) : Nat := fld d.n 34 4
def Desc.mRbc (d : Desc) : Nat := fld d.n 31 3
def Desc.mRows (d : Desc) : Nat := fld d.n 24 7 + 1
def Desc.mWt (d : Desc) : Bool := bitOf d.n 23
def Desc.mSpl (d : Desc) : Nat := fld d.n 21 2
def Desc.mCk (d : Desc) : Bool := bitOf d.n 20
def Desc.mDcf (d : Desc) : Nat := fld d.n 18 2
def Desc.mSpanC (d : Desc) : Nat := fld d.n 16 2
def Desc.tMsid (d : Desc) : Nat := fld d.n 152 8
def Desc.tDk (d : Desc) : Nat := fld d.n 150 2
def Desc.tLine (d : Desc) : Nat := fld d.n 133 17
def Desc.tTile (d : Desc) : Nat := fld d.n 129 4
def Desc.tRow0 (d : Desc) : Nat := fld d.n 122 7
def Desc.tCks (d : Desc) : Nat := fld d.n 120 2

/-! ### Lists (R227, R229, R230) -/

def Drover.list (x : Drover) (dl : Nat) : DList :=
  match dl with
  | 0 => x.dl0
  | 1 => x.dl1
  | 2 => x.dl2
  | _ => x.dl3

def Drover.setList (x : Drover) (dl : Nat) (l : DList) : Drover :=
  match dl with
  | 0 => { x with dl0 := l }
  | 1 => { x with dl1 := l }
  | 2 => { x with dl2 := l }
  | _ => { x with dl3 := l }

/-- The first unstarted descriptor of list `dl`. -/
def Drover.head (x : Drover) (dl : Nat) : Option Desc := (x.list dl).buf.head?

/-- The head of list `dl` has been taken. -/
def Drover.pop (x : Drover) (dl : Nat) : Drover :=
  x.setList dl { x.list dl with buf := (x.list dl).buf.tail }

/-- Transfers that count against R32: started and not complete, or complete with a token not yet consumed (R246). -/
def Drover.outstanding (x : Drover) : Nat := x.xfers.length + x.tokens.length

/-- What the drover spends of pennants when a descriptor starts (R231): pennant and count. -/
def Desc.spends (d : Desc) : List (Nat × Nat) :=
  (if d.wn = 0 then [] else [(d.wpn, d.wn)]) ++ (if d.kind = kFold then [(d.cpn, 1)] else [])

/-- Every pennant that the descriptor spends holds what it spends, all taken together (R231). -/
def Desc.pennantsHold (d : Desc) (u : QueueUnit) : Bool :=
  d.spends.all fun p => decide (sumNat ((d.spends.filter fun q => q.1 = p.1).map (·.2)) ≤ u.pennant p.1)

/-- The start condition of R230 and R231 of the first unstarted descriptor of a list. A CHAN that will raise the fault of
R287 or R296 when it is evaluated meets it. -/
def Desc.canStart (d : Desc) (x : Fold) : Bool :=
  if d.kind = kEnd then false
  else if d.kind = kLink then !d.fork || !x.dr.dl1.live
  else
    decide (x.dr.outstanding < 64) && d.pennantsHold x.qu &&
      (decide (d.kind ≠ kChan) ||
        (let c := peek Chan.init x.qu.chans d.ch
         decide (1 ≤ c.credits) || c.closed || decide ((peek CEnt.none x.qu.ctab d.ch).ncred = 0))) &&
      (decide (d.kind ≠ kMtap) || x.dr.taps.all fun t => t.stream.isSome)

/-- A memory list fetches its next burst: at most 16 unstarted descriptors remain, and no LINK or END among them ends what
the list has fetched (R228). -/
def DList.burstDue (l : DList) : Bool :=
  l.live && decide (l.buf.length ≤ 16) &&
    match l.buf.getLast? with
    | some d => decide (d.kind ≠ kEnd) && decide (d.kind ≠ kLink)
    | none => true

/-- No list holds a descriptor that could start (R233); a memory list that is about to fetch its next one may hold it. -/
def Fold.nothingStarts (x : Fold) : Bool :=
  (List.range 4).all fun dl => match x.dr.head dl with
    | some d => !d.canStart x
    | none => !(decide (dl < 2) && (x.dr.list dl).burstDue)

/-- Lists in the order of rotation: beginning with the one after the list that started last (R230). -/
def Drover.order (x : Drover) : List Nat := (List.range 4).map fun i => (x.rot + 1 + i) % 4

/-- List `dl` is the first in rotation whose first descriptor can start. -/
def Fold.firstInTurn (x : Fold) (dl : Nat) : Bool :=
  match x.dr.order.find? fun l => match x.dr.head l with
      | some d => decide (d.kind ≠ kLink) && d.canStart x
      | none => false with
  | some l => decide (l = dl)
  | none => false

end Sys2Proof.Machine
end

