-- ==== Sys2Proof/Machine/RigOps.lean ====
section
/-! DEFINITION. Operations over the rigging: routes, links and flits that leave the device (R334-R343). -/
namespace Sys2Proof.Machine

/-- Flit classes (R334). -/
def clsMG : Nat := 0
def clsPN : Nat := 1
def clsRQ : Nat := 2
def clsRS : Nat := 3

/-- Links of a bundle by its width code (R341). -/
def bundleWidth (code : Nat) : Nat :=
  match code with
  | 0 => 1
  | 1 => 2
  | 2 => 4
  | _ => Config.reservedWidth

def State.link (s : State) (l : Nat) : Link := peek Link.init s.rig.links l
def State.setLink (s : State) (l : Nat) (k : Link) : State :=
  { s with rig := { s.rig with links := put Link.init s.rig.links l k } }

/-- Link `l` exists in the grade and is up (R333, R342). -/
def State.linkUp (s : State) (l : Nat) : Bool :=
  decide (l < s.chip.grade.links) && decide ((s.link l).st = 2)

/-- The first link of a bundle that is up, for originating program fold `k` (R342). -/
def State.bundleLink (s : State) (first width k : Nat) : Option Nat :=
  ((List.range width).map fun i => first + (k + i) % width).find? s.linkUp

/-- The link on which a flit for node `d` of program fold `k` leaves, and whether it moves to lane 1 (R342). -/
def State.route (s : State) (d k : Nat) : Option (Nat × Bool) :=
  let e := (peek 0 s.rig.route d).toNat
  if !s.chip.rigged || !bitOf e 31 then none
  else
    match s.bundleLink (fld e 26 5) (bundleWidth (fld e 24 2)) k with
    | some l => some (l, bitOf e 15)
    | none =>
      if bitOf e 16 then (s.bundleLink (fld e 19 5) (bundleWidth (fld e 17 2)) k).map fun l => (l, bitOf e 14)
      else none

/-- Flits of a packet that carries `n` payload bytes, at least one (R334, R345). -/
def packetFlits (n : Nat) : Nat := max 1 (ceilDiv n 232)

/-- The payload layout of a management request (R353): bits 255:0 of payload bytes 0-31, then the data. -/
def mgPayload (r : MgReq) : List Byte :=
  let hops := sumNat ((enumFrom 0 r.hops).map fun e => at_ (228 - 5 * e.1) 5 e.2.toNat)
  leBytes 32 (at_ 240 16 r.rid.toNat + at_ 238 2 r.opc.toNat + at_ 237 1 (b2n r.directed) + at_ 233 4 r.hops.length + hops +
    at_ 157 16 r.index.toNat + at_ 149 8 r.sub.toNat + at_ 117 32 r.offset.toNat + at_ 109 8 r.len.toNat) ++ r.data

/-- TYPE of the flits that carry a body (R334). A refused message comes back as a queue revocation (log entry 67). -/
def FlitBody.type : FlitBody → Nat
  | .msg _ => 0x01
  | .rwrite _ _ => 0x02
  | .rread _ _ _ _ => 0x03
  | .rdata _ _ => 0x04
  | .credit _ _ _ => 0x05
  | .revoke _ _ | .refuse _ _ _ _ => 0x06
  | .tree _ _ => 0x07
  | .gpn _ _ _ _ => 0x08
  | .abort _ _ _ _ => 0x09
  | .notice => 0x0A
  | .request _ => 0x0B
  | .reply _ => 0x0C
  | .transit t _ _ => t.toNat

/-- The payload of a management reply (R397). -/
def mgReplyBytes (r : MgReply) : List Byte :=
  leBytes 32 (at_ 240 16 r.rid + at_ 232 8 r.code + at_ 216 16 r.status.toNat + at_ 208 8 r.data.length) ++ r.data

/-- The payload bytes of a packet. -/
def FlitBody.payload : FlitBody → List Byte
  | .msg m | .tree _ m => m.data
  | .rwrite _ d | .rdata _ d => d
  | .request r => mgPayload r
  | .reply r => mgReplyBytes r
  | .transit _ _ p => p
  | .rread _ _ _ _ | .credit _ _ _ | .revoke _ _ | .refuse _ _ _ _ | .gpn _ _ _ _ | .abort _ _ _ _ | .notice => []

/-- What CTX carries of a body (R334). -/
def FlitBody.context : FlitBody → List Nat
  | .msg m => [m.ch.toNat, m.dfold.toNat, m.dq.toNat, m.slot.toNat, m.slotm1.toNat, m.ncred.toNat, m.crc.toNat]
  | .tree t m => [t, m.ch.toNat, m.dfold.toNat, m.dq.toNat, m.slot.toNat, m.slotm1.toNat, m.ncred.toNat, m.crc.toNat]
  | .rwrite a _ => [a]
  | .rread q a n g => [q, a, n, g]
  | .rdata q _ => [q]
  | .credit f c t => [f, c] ++ t.toList
  | .revoke f c => [f, c]
  | .refuse f c n b => [f, c, n, b2n b]
  | .gpn t g n d => [t, g, n, b2n d]
  | .abort t o c d => [t, o, c, b2n d]
  | .request r => [r.hop.toNat]
  | .notice | .reply _ | .transit _ _ _ => []

/-- Flits of the packet that carries a body; management frames are of one flit (R353). -/
def FlitBody.flits : FlitBody → Nat
  | .msg m => packetFlits m.data.length
  | .tree _ m => packetFlits m.data.length
  | .rwrite _ d => packetFlits d.length
  | .rdata _ d => packetFlits d.length
  | .transit _ _ p => packetFlits p.length
  | _ => 1

/-- CTX of the flits of a packet: that of another device's packet stays (R334). -/
def OutFlit.ctx (o : OutFlit) : BitVec 49 :=
  match o.body with
  | .transit _ c _ => c
  | b => Config.flitCtx (o.fold :: b.context)

/-- Bytes 0-247 of a flit: the header of R334 and up to 232 payload bytes. Each flit of a remote memory stream carries the next tally
count (R346). -/
def OutFlit.front (o : OutFlit) : List Byte :=
  let piece := (o.body.payload.drop (232 * o.part)).take 232
  let step := if o.body.type = 0x02 ∨ o.body.type = 0x04 then o.part else 0
  leBytes 16 (at_ 116 12 o.dst + at_ 104 12 o.src + at_ 102 2 o.cls + at_ 101 1 (b2n o.lane) + at_ 96 5 o.body.type +
    at_ 88 8 (o.tally.toNat + step) + at_ 80 8 o.epoch.toNat + at_ 70 10 o.lseq + at_ 60 10 o.lack + at_ 59 1 (b2n o.nak) +
    at_ 58 1 (b2n (o.part = 0)) + at_ 57 1 (b2n (o.part + 1 = o.body.flits)) + at_ 49 8 piece.length + o.ctx.toNat) ++
    padTo 232 piece

/-- The flit CRC of bytes 0-247, which each hop generates again (R335). -/
def flitCrc (front : List Byte) : List Byte := leBytes 8 (crc64 front)

/-- The 256 bytes of a flit as it crosses the link (R334, R335). -/
def OutFlit.bytes (o : OutFlit) : List Byte := o.front ++ flitCrc o.front

/-- The 256 bytes of an idle flit of node `src` (R334, R343); the fields that it does not use are zero (log entry 67). -/
def IdleOut.bytes (o : IdleOut) (src : Nat) (epoch : BitVec 8) : List Byte :=
  let front := leBytes 16 (at_ 104 12 src + at_ 80 8 epoch.toNat + at_ 60 10 o.lack + at_ 59 1 (b2n o.nak)) ++ padTo 232 []
  front ++ flitCrc front

/-- The CRC of a flit that arrived holds (R335). -/
def flitGood (l : List Byte) : Bool := decide (l.length = 256) && decide (l.drop 248 = flitCrc (l.take 248))

/-- A class and lane as a key of buffers and credits (R338). -/
def bufKey (cls : Nat) (lane : Bool) : Nat := 2 * cls + b2n lane

def OutFlit.key (o : OutFlit) : Nat := bufKey o.cls o.lane

/-- Flits that a replay buffer keeps (R336). -/
def replayRoom : Nat := 512

/-- The last sequence number received correctly (R334). -/
def Link.lack (k : Link) : Nat := (k.expSeq + 1023) % 1024

/-- A flit may go on the link: the far end has room in a buffer of its class and lane, and the replay buffer keeps fewer than 512 (R336,
R338). -/
def Link.fits (k : Link) (o : OutFlit) : Bool := decide (1 ≤ peek 0 k.room o.key) && decide (k.buf.length < replayRoom)

/-- A flit goes on the link: it takes the next LSEQ number and a buffer at the far end, and it stays in the replay buffer until it is
acknowledged (R336, R338). -/
def Link.put (k : Link) (o : OutFlit) : Link :=
  { k with buf := k.buf ++ [{ o with lseq := k.sendSeq, lack := k.lack, nak := k.discarding, tries := 0, via := none }]
           sendSeq := (k.sendSeq + 1) % 1024
           room := Machine.put 0 k.room o.key (peek 0 k.room o.key - 1) }

/-- Waiting flits go on the link in their order; one that finds no room holds back those of its class and lane, and of no other
(R338). With the link come the buffers that flits of other devices have left. -/
def Link.moveOn : List OutFlit → List Nat → Link → List (Nat × Nat) → Link × List (Nat × Nat)
  | [], _, k, left => (k, left)
  | o :: t, held, k, left =>
    if held.contains o.key || !k.fits o then Link.moveOn t (o.key :: held) { k with wait := k.wait ++ [o] } left
    else Link.moveOn t held (k.put o) (left ++ o.via.toList)

/-- `n` buffers of key `key` at this end of link `l` are free again, which an idle flit tells the far end (R338, log entry 84). -/
def State.freeSpace (s : State) (l key n : Nat) : State :=
  let k := s.link l
  if k.st ≠ 2 then s
  else s.setLink l { k with space := Machine.put 0 k.space key (peek 0 k.space key + n)
                            idle := some { lack := k.lack, nak := k.discarding, room := [(key, n)] } }

/-- The flits that wait at the output of link `l` go on as far as they find room (R338). -/
def State.pump (s : State) (l : Nat) : State :=
  let k := s.link l
  let r := Link.moveOn k.wait [] { k with wait := [] } []
  r.2.foldl (fun t e => t.freeSpace e.1 e.2 1) (s.setLink l r.1)

/-- The flits of a packet. -/
def OutFlit.split (o : OutFlit) : List OutFlit := (List.range o.body.flits).map fun i => { o with part := i }

/-- Puts the flits of a packet at the output of link `l`, behind those that wait there; a link that is not up takes none. -/
def State.sendOn (s : State) (l : Nat) (fl : OutFlit) : State :=
  let k := s.link l
  if k.st ≠ 2 then s
  else (s.setLink l { k with wait := k.wait ++ fl.split }).pump l

/-- A flit of this device, before a link takes it (R334, R343). -/
def State.flit (s : State) (dst cls : Nat) (tally : BitVec 8) (fold : Nat) (body : FlitBody) : OutFlit :=
  { dst := dst, src := s.rig.nodeId.toNat, cls := cls, lane := false, tally := tally, epoch := s.rig.epoch, lseq := 0,
    lack := 0, nak := false, fold := fold, body := body, part := 0, tries := 0, via := none }

/-- A flit that this device passes on keeps its source, count and epoch. -/
def relay (h : FlitIn) (cls : Nat) (body : FlitBody) : OutFlit :=
  { dst := h.dst.toNat, src := h.src.toNat, cls := cls, lane := h.lane, tally := h.tally, epoch := h.epoch, lseq := 0,
    lack := 0, nak := false, fold := h.fold.toNat, body := body, part := 0, tries := 0, via := none }

/-- A flit dropped for want of a route (R342). -/
def State.dropFlit (s : State) : State :=
  setStatus bitLink (logStick s.rig.dropped 1 { s with rig := { s.rig with dropped := ctrAdd s.rig.dropped 1 } })

/-- The buffers of flits that go no further are free (R338). -/
def State.freeDropped (s : State) (fl : OutFlit) : State :=
  match fl.via with
  | some v => s.freeSpace v.1 v.2 fl.body.flits
  | none => s

/-- Sends a packet on link `l` where it is up; else it is dropped and counted (R342). -/
def State.sendLink (s : State) (l : Nat) (fl : OutFlit) : State :=
  if s.linkUp l then s.sendOn l fl else (s.freeDropped fl).dropFlit

/-- Sends a packet to node `fl.dst` for originating fold `k` (R342); dropped and counted without a route. -/
def State.sendFlit (s : State) (fl : OutFlit) (k : Nat) : State :=
  match s.route fl.dst k with
  | some (l, dl) => s.sendOn l { fl with lane := fl.lane || dl }
  | none => (s.freeDropped fl).dropFlit

/-- The next tally count of this device's stream to a node (R184, R346), and the state that has used it. Direction 0 is
for data this device sends as a requester, 1 for data it serves. -/
def tallyKey (node fold dir : Nat) : Nat := 2 * (32 * node + fold) + dir

def State.sendTally (s : State) (node fold dir : Nat) : BitVec 8 := peek 0 s.rig.sendT (tallyKey node fold dir)

def State.bumpSendTally (s : State) (node fold dir n : Nat) : State :=
  { s with rig := { s.rig with
      sendT := put 0 s.rig.sendT (tallyKey node fold dir) (s.sendTally node fold dir + BitVec.ofNat 8 n) } }

/-- Nodes 0 to 4095 with an entry in the route table that are owed a reset notice and that a usable link reaches: each
gets its one notice of this boot epoch (R343). -/
def State.sendNotices (s : State) : State :=
  s.rig.route.foldl (fun t e =>
    if peek false t.rig.noticed e.1 || decide (e.1 = t.rig.nodeId.toNat) then t
    else
      match t.route e.1 0 with
      | some (l, dl) =>
        let t := t.sendOn l { t.flit e.1 clsPN 0 0 .notice with lane := dl }
        { t with rig := { t.rig with noticed := put false t.rig.noticed e.1 true } }
      | none => t) s

/-- Links named by a mask, ascending. -/
def maskLinks (m : BitVec 32) : List Nat := setBits m.toNat 32

/-- Forwards a flit body on every CHILDREN link of a tree; a link the grade does not have is an absent-unit fault in this
device's job (R347, R442). -/
def State.sendDown (s : State) (t : Nat) (fl : OutFlit) : State :=
  (maskLinks (peek Tree.init s.rig.trees t).children).foldl (fun u l =>
    if l < u.chip.grade.links then u.sendOn l fl
    else raise (u.repNone 0x1A 5 engLink (at_ 62 2 1 + at_ 0 8 l)) u) s

/-- Sends a group abort towards the root of the abort group, or down from it when this device is the root (R352). -/
def State.sendGroupAbort (s : State) (code : Nat) : State :=
  if s.chip.rigged && s.rig.abEn then
    let root := s.rig.abRoot.toNat % 4096
    if root = s.rig.nodeId.toNat then
      s.sendDown s.rig.abTree.toNat (s.flit root clsPN 0 0 (.abort s.rig.abTree.toNat root code true))
    else s.sendFlit (s.flit root clsPN 0 0 (.abort s.rig.abTree.toNat s.rig.nodeId.toNat code false)) 0
  else s

/-! ### Queues that close (R295, R297) -/

def Fold.queue (x : Fold) (q : Nat) : Queue := peek Queue.init x.qu.queues q

def Fold.setQueue (x : Fold) (q : Nat) (u : Queue) : Fold :=
  { x with qu := { x.qu with queues := put Queue.init x.qu.queues q u } }

/-- The cycle of fold `g` by which what a release or a closing of this moment sends it has been counted: R70 and R295 bound it by 48
cycles of the reader, which the model counts on the clock of the fold that receives it (log entry 79). -/
def State.by48 (s : State) (g : Nat) : Option Nat := some ((s.fold g).ex.cycle + 48)

/-- The other device whose channel a binding names; none for a channel of this device, that of a multicast tree whose root it is
among them (R348). -/
def State.abroad (s : State) (b : Binding) : Option Nat :=
  match b.node with
  | some n => if n = s.rig.nodeId.toNat then none else some n
  | none => none

/-- Fold `f` sends a revocation to the channel bound to a queue of its own: on this device into its fold's network, else as
an RS flit that `f` originates (R295, R342, R345). -/
def State.revoke (s : State) (f : Nat) (b : Binding) : State :=
  match s.abroad b with
  | some n => s.sendFlit (s.flit n clsRS 0 (s.fold f).ex.prog (.revoke b.fold b.ch)) (s.fold f).ex.prog
  | none =>
    match s.job with
    | some j =>
      match j.place b.fold with
      | some g => s.onFold g fun x => { x with qu := { x.qu with revIn := x.qu.revIn ++ [(b.ch, s.by48 g)] } }
      | none => s
    | none => s

/-- A queue closes: its messages are discarded and a revocation goes to its sender (R295). -/
def State.closeQueue (s : State) (f q : Nat) : State :=
  let u := (s.fold f).queue q
  if u.closed then s
  else
    let t := s.onFold f fun x => x.setQueue q { u with closed := true, msgs := [] }
    match u.bound with
    | some b => t.revoke f b
    | none => t

/-- Every queue of a fold's region table closes (R295). -/
def State.closeQueues (s : State) (f : Nat) : State := (s.fold f).qu.qtab.foldl (fun t e => t.closeQueue f e.1) s

/-- The tally counts that a fold keeps for streams to and from a node start again at 0: those of its channels to it, and of its queues
that a channel there feeds (R184, R343). -/
def Fold.clearTallies (node : Nat) (x : Fold) : Fold :=
  { x with qu := { x.qu with
      chans := x.qu.chans.map fun e =>
        let c := peek CEnt.none x.qu.ctab e.1
        if c.rem && decide (c.node = node) then (e.1, { e.2 with sendCnt := 0 }) else e
      queues := x.qu.queues.map fun e =>
        if e.2.bound.any (fun b => decide (b.node = some node)) then (e.1, { e.2 with expect := 0 }) else e } }

/-- A peer has been reset: every queue that a channel on it feeds closes, and the tally counts of streams to and from it
start again at 0 (R297, R343). -/
def State.peerReset (s : State) (node : Nat) : State :=
  let t := s.folds.foldl (fun t p => p.2.qu.qtab.foldl (fun t e =>
    match ((t.fold p.1).queue e.1).bound with
    | some b => if b.node = some node then t.closeQueue p.1 e.1 else t
    | none => t) t) s
  { t with
    folds := t.folds.map fun p => (p.1, p.2.clearTallies node)
    rig := { t.rig with
      sendT := t.rig.sendT.filter fun e => decide (e.1 / 64 ≠ node)
      expT := t.rig.expT.filter fun e => decide (e.1 / 64 ≠ node) } }

/-! ### Flits that arrive (R336, R343) -/

/-- Flits of a replay buffer that LACK does not acknowledge; at most 512 numbers are outstanding (R336). -/
def ackDrop (lack : Nat) (buf : List OutFlit) : List OutFlit :=
  buf.filter fun o => decide (512 ≤ (lack + 1024 - o.lseq) % 1024)

/-- Codewords reach a link with every flit: how many of them were corrected, or could not be, is a free value (OD 0x6400+l.02,
.03, log entry 76). A flit that is accepted had none that could not be corrected (R336). -/
def lineNoise (l : Nat) (bad : Bool) (s : State) : State :=
  let k := s.link l
  let n := Config.free s.freeCtr
  let m := if bad then Config.free (s.freeCtr + 1) else 0
  let u := { k with corrCw := ctrAdd k.corrCw n, badCw := ctrAdd k.badCw m }
  logStick k.badCw m (logStick k.corrCw n
    { s with freeCtr := s.freeCtr + 2, rig := { s.rig with links := put Link.init s.rig.links l u } })

/-- The flit no longer waits in a buffer of link `l`. -/
def OutFlit.unvia (l : Nat) (o : OutFlit) : OutFlit :=
  if o.via.any fun v => decide (v.1 = l) then { o with via := none } else o

/-- A link fails (R337, R343, R352): what its buffers hold is discarded, LINK is set and the event is logged; a running job ends,
and a member of an abort group sends a group abort. -/
def failLink (l : Nat) (s : State) : State :=
  let k := s.link l
  let t := s.setLink l { k with st := 3, buf := [], wait := [], idle := none, part := 0, discarding := false }
  let t := k.wait.foldl (fun t o => match o.via with | some v => t.freeSpace v.1 v.2 1 | none => t) t
  let t := { t with rig := { t.rig with links := t.rig.links.map fun e => (e.1, { e.2 with wait := e.2.wait.map (OutFlit.unvia l) }) } }
  let t := logFree 4 (setStatus bitLink t)
  (raise (t.repNone 0x63 5 engLink (at_ 0 5 l)) t).sendGroupAbort 0

/-- Replays of one flit without acknowledgement after which a link fails (R337). -/
def maxReplays : Nat := 16

/-- The replay buffer of link `l`, from the first flit that is not acknowledged, is sent again, and its flits are counted (R336); a flit
that has been replayed 16 times without acknowledgement fails the link (R337). -/
def State.replay (s : State) (l : Nat) : State :=
  let k := s.link l
  if k.buf.any fun o => decide (maxReplays ≤ o.tries) then failLink l s
  else
    logStick k.replays k.buf.length (s.setLink l { k with
      buf := k.buf.map fun o => { o with tries := o.tries + 1 }, replays := ctrAdd k.replays k.buf.length })

/-- Buffers that have become free at the far end (R338). -/
def Link.free (k : Link) (l : List (BitVec 3 × BitVec 10)) : Link :=
  { k with room := l.foldl (fun m e => Machine.put 0 m e.1.toNat (peek 0 m e.1.toNat + e.2.toNat)) k.room }

/-- What every flit that arrives whole says of its link: the acknowledgement, the room at the far end, and the replay request (R336,
R338). -/
def State.ack (s : State) (h : FlitIn) : State :=
  let s := lineNoise h.link.toNat false s
  let k := s.link h.link.toNat
  let buf := ackDrop h.lack.toNat k.buf
  let t := s.setLink h.link.toNat ({ k with buf := buf }.free h.room)
  (if h.nak && !buf.isEmpty then t.replay h.link.toNat else t).pump h.link.toNat

/-- The boot epoch of a flit's source: a new one counts as a reset of the source (R343). -/
def State.seeEpoch (s : State) (node : Nat) (e : BitVec 8) : State :=
  let t := { s with rig := { s.rig with seen := put none s.rig.seen node (some e) } }
  match peek none s.rig.seen node with
  | some o => if o = e then t else t.peerReset node
  | none => t

/-- A packet of `n` numbered flits of class `cls`, the first with header `h`, arrives on a link that is up: the rest of its flits, after those
already accepted, have the LSEQ numbers expected next and find buffers of their class and lane free, which they take (R336, R338, R343). -/
def State.takeIn (s : State) (h : FlitIn) (cls n : Nat) : Option State :=
  let l := h.link.toNat
  let k := s.link l
  let key := bufKey cls h.lane
  if s.linkUp l && decide (k.expSeq = (h.lseq.toNat + k.part) % 1024) && decide (k.part < n) &&
      decide (n - k.part ≤ peek 0 k.space key) then
    let t := s.ack h
    let k := t.link l
    let e := (k.expSeq + (n - k.part)) % 1024
    let k := { k with expSeq := e, part := 0, space := put 0 k.space key (peek 0 k.space key - (n - k.part))
                      idle := some { lack := (e + 1023) % 1024, nak := false, room := [] }, discarding := false }
    some ((t.setLink l k).seeEpoch h.src.toNat h.epoch)
  else none

/-- Such a packet goes no further than this device: its buffers are free again at once (R338). -/
def State.acceptFlit (s : State) (h : FlitIn) (cls n : Nat) : Option State :=
  (s.takeIn h cls n).map fun t => t.freeSpace h.link.toNat (bufKey cls h.lane) n

/-- A flit is discarded, and so is every one after it until the replay that this end asks for with NAK (R336). -/
def State.discard (s : State) (l : Nat) : State :=
  let k := s.link l
  if k.st ≠ 2 then s
  else s.setLink l { k with idle := some { lack := k.lack, nak := true, room := [] }, discarding := true }

/-- A packet arrives and is acted on, or is discarded because its LSEQ is not the one expected (R336). -/
def State.takeFlit (s : State) (h : FlitIn) (cls n : Nat) (act : State → State) : State :=
  match s.acceptFlit h cls n with
  | some t => act t
  | none => s.discard h.link.toNat

/-- The next tally count expected of a peer's stream (R184, R346); direction as in `tallyKey`. -/
def State.expTally (s : State) (node fold dir : Nat) : BitVec 8 := peek 0 s.rig.expT (tallyKey node fold dir)

def State.bumpExpTally (s : State) (node fold dir n : Nat) : State :=
  { s with rig := { s.rig with
      expT := put 0 s.rig.expT (tallyKey node fold dir) (s.expTally node fold dir + BitVec.ofNat 8 n) } }

end Sys2Proof.Machine
end

