-- ==== Sys2Proof/Machine/Ctl.lean ====
section
/-! DEFINITION. The ctl slot (R22, R34, R50-R52, R63, R64) and the step barrier. -/
namespace Sys2Proof.Machine

/-- The following address (R63). -/
def Fold.following (x : Fold) : Nat := x.ex.lastBundle + 1

/-- ctl.nop (R50). -/
def execCtlNop (f : FoldId) (s : State) : Res := whileClocked s (ctlIssue s f.toNat (.ctlNop f) fun x => (x, x.following))

/-- ctl.br (R50, R63). -/
def execCtlBr (f : FoldId) (target : BitVec 12) (s : State) : Res :=
  whileClocked s (ctlIssue s f.toNat (.ctlBr f target) fun x => (x, target.toNat))

def Exec.loop (x : Exec) (lc : Nat) : Nat := peek 0 x.loops lc
def Exec.setLoop (x : Exec) (lc v : Nat) : Exec := { x with loops := put 0 x.loops lc v }

/-- ctl.lset (R51). -/
def execCtlLset (f : FoldId) (lc : BitVec 2) (count : BitVec 16) (s : State) : Res :=
  whileClocked s (ctlIssue s f.toNat (.ctlLset f lc count) fun x =>
    ({ x with ex := x.ex.setLoop lc.toNat (count.toNat + 1) }, x.following))

/-- ctl.loop (R51): the counter and the next bundle. -/
def loopStep (lc target : Nat) (x : Fold) : Fold × Nat :=
  if 1 < x.ex.loop lc then ({ x with ex := x.ex.setLoop lc (x.ex.loop lc - 1) }, target)
  else ({ x with ex := x.ex.setLoop lc 0 }, x.following)

def execCtlLoop (f : FoldId) (lc : BitVec 2) (target : BitVec 12) (s : State) : Res :=
  whileClocked s (ctlIssue s f.toNat (.ctlLoop f lc target) (loopStep lc.toNat target.toNat))

/-- Takes a token with the tag from those held, in the order of emission (R33). -/
def Drover.takeToken (x : Drover) (t : BitVec 12) : Drover := { x with tokens := x.tokens.erase t }

/-- ctl.wait (R22, R31-R33). -/
def execCtlWait (f : FoldId) (tag : BitVec 12) (s : State) : Res :=
  whileClocked s (stallIssue s f.toNat true (.token tag) (.ctlWait f tag) (fun _ _ => none) (fun _ x => x.dr.tokens.contains tag)
    fun s x => ((s.setFold f.toNat { x with dr := x.dr.takeToken tag }).tr f.toNat 5 engExec x.ex.lastTag tag.toNat,
      x.following))

/-- The fold waits at ctl.step. -/
def Fold.atBarrier (x : Fold) : Bool := decide (x.ex.wait.map (·.on) = some .step)

/-- Every fold of the job waits at ctl.step, where nothing keeps its bundle from issue (R25), or has stopped at ctl.end (R34). -/
def allArrived (s : State) (j : Job) : Bool :=
  decide (j.phase = .running) && j.places.all fun g =>
    let x := s.fold g
    decide (x.ex.run = .ended) || (x.atBarrier && x.executes && !x.db.req && !x.db.stepped)

/-- ctl.step (R34): the fold arrives at the barrier; STEP_BARRIER releases it. A fold that the barrier does not keep waiting
records no wait (R23, R527). -/
def execCtlStep (f : FoldId) (s : State) : Res :=
  let n := f.toNat
  whileClocked s (match reach s n (some .step) (inBundle (.ctlStep f)) with
    | .go x =>
      if x.ex.wait.isSome then s
      else
        let t := s.setFold n { x with ex := { x.ex.govern with wait := some (.start .step x.ex.cycle false) } }
        let t := if t.job.any (allArrived t) then powerCheck n t else beginWait s n x .step
        t.onJob fun j => { j with lastArrive := n }
    | _ => stallIssue s n true .step (.ctlStep f) (fun _ _ => none) (fun _ _ => false) fun t _ => (t, 0))

/-- The arm register holds a valid address inside the window (R52). -/
def armHolds (x : Exec) (base : BitVec 12) (span : BitVec 8) : Bool :=
  x.armValid && decide (base.toNat ≤ x.armAddr.toNat) && decide (x.armAddr.toNat < base.toNat + 16 * span.toNat)

/-- Subtracts from a pennant of the fold. -/
def Fold.pnSub (x : Fold) (p n : Nat) : Fold :=
  { x with qu := { x.qu with pn := put 0 x.qu.pn p (peek 0 x.qu.pn p - BitVec.ofNat 16 n) } }

/-- ctl.arm (R22, R52): an arm fault instead of issuing when the register holds no address of the window. -/
def execCtlArm (f : FoldId) (pn : BitVec 6) (base : BitVec 12) (span : BitVec 8) (s : State) : Res :=
  whileClocked s (stallIssue s f.toNat true (.arm pn) (.ctlArm f pn base span)
    (fun _ x => if 1 ≤ x.qu.pennant pn.toNat && !armHolds x.ex base span
      then some (0x1C, engExec, at_ 12 1 (b2n x.ex.armValid) + x.ex.armAddr.toNat) else none)
    (fun _ x => decide (1 ≤ x.qu.pennant pn.toNat))
    fun s x =>
      let y := x.pnSub pn.toNat 1
      (s.setFold f.toNat { y with ex := { y.ex with armValid := false } }, x.ex.armAddr.toNat))

/-- The fold stops at ctl.end (R22, R43, R233, R295): tokens and unstarted descriptors are discarded, its queues close,
it counts as arrived at every later barrier (R34), and no stall point is left at which a debugger could halt it. The other slots
of a bundle that holds ctl.end still find the queues as they were (R65). -/
def endFold (f : Nat) (s : State) : State :=
  let t := s.onFold f fun x => { x with
    ex := { x.ex with run := .ended, wait := none }
    dr := { x.dr with tokens := [], dl0 := .init, dl1 := .init, dl2 := .init, dl3 := .init }
    qu := { x.qu with ending := x.qu.queues }
    db := x.db.release }
  (t.closeQueues f).onJob fun j => { j with lastArrive := f }

/-- The condition of ctl.end (R22, R233). -/
def endHolds (x : Fold) : Bool := x.dr.xfers.isEmpty && x.nothingStarts

def execCtlEnd (f : FoldId) (s : State) : Res :=
  whileClocked s (stallIssue s f.toNat true .end_ (.ctlEnd f) (fun _ _ => none) (fun _ x => endHolds x)
    fun s x => (endFold f.toNat s, x.following))

/-- ctl.yield (R22): the condition always holds. -/
def execCtlYield (f : FoldId) (s : State) : Res :=
  whileClocked s (stallIssue s f.toNat true .end_ (.ctlYield f) (fun _ _ => none) (fun _ _ => true) fun s x => (s, x.following))

/-! ### The step barrier (R34, R426, R432) -/

/-- The barrier is met: some fold waits at ctl.step, every other fold of the job waits there or has ended, and each that waits has ended
the cycle before the one in which it issues. -/
def barrierMet (s : State) (j : Job) : Bool :=
  allArrived s j && (j.places.any fun g => (s.fold g).atBarrier) &&
    (j.places.all fun g =>
      let x := s.fold g
      decide (x.ex.run = .ended) ||
        (!x.late x.ex.cycle && (decide (x.ex.wait.map (·.began) = some x.ex.cycle) || !x.unsettled s)))

/-- Folds that wait at the barrier. -/
def waitsAtStep (s : State) (j : Job) : List Nat := j.places.filter fun g => (s.fold g).atBarrier

/-- A fold that waited at ctl.step issues its bundle (R34), in the cycle of its arrival when the barrier was met then, else in the
next one (R23). -/
def releaseStep (s : State) (f : Nat) : State :=
  let x := s.fold f
  if !x.atBarrier then s else
  let w := x.ex.wait
  let x := if decide (w.map (·.began) = some x.ex.cycle) then x else x.advance s.paused
  let y := x.issue true (tapped s x x.ex.nextBundle)
  let y := { y with ex := { y.ex with nextBundle := y.following } }
  let t := endWait (s.setFold f y) f w
  powerCheck f (t.tr f 7 engExec y.ex.lastTag 0)

/-- A fold starts a step: no tapped address has been reached in it. -/
def clearArrivals (f : Nat) (s : State) : State :=
  s.onFold f fun x => { x with dr := { x.dr with arrivals := [], fired := [] } }

/-- The window of R426 ends at this step. -/
def Job.windowEnds (j : Job) : Bool :=
  match j.taps with
  | some l => decide (l.wend = j.step) && decide (l.wend ≠ 2 ^ 64 - 1)
  | none => false

/-- STEP_BARRIER: the counter advances by 1 and the waiting folds are released (R34); at the last step of a replay window
every fold stops as at ctl.end instead, once the condition of ctl.end holds in it (R22, R426); at the counter's largest value the last fold to arrive raises a step
overflow fault (R432). -/
def execStepBarrier (s : State) : Res :=
  whileClocked s (match s.job with
    | none => s
    | some j =>
      if !barrierMet s j then s
      else if j.windowEnds then
        ((waitsAtStep s j).filter fun f => endHolds (s.fold f)).foldl (fun t f => endFold f t)
          (s.onJob fun j => { j with wendStop := true })
      else if j.step = 2 ^ 64 - 1 then
        let x := s.fold j.lastArrive
        (s.setFold j.lastArrive (x.failAt 0)).raiseFold j.lastArrive 0x25 engExec 1 x.ex.lastBundle x.ex.lastTag 0
      else
        let ws := waitsAtStep s j
        let t := s.onJob fun j => { j with step := j.step + 1 }
        let t := ws.foldl releaseStep t
        j.places.foldl (fun t f => clearArrivals f t) t)

end Sys2Proof.Machine
end

