-- ==== Sys2Proof/Machine/Tile.lean ====
section
/-! DEFINITION. The sp slot: tile configuration and moves between scratchpad and tiles (R56, R79-R105). -/
namespace Sys2Proof.Machine

/-! ### Line patterns (R102, R105) -/

/-- First byte of row `j` (R102); MODE 10 is laid out by its own operation. -/
def moveAddr (o : SpMove) (stride : Int) (rb j : Nat) : Int :=
  match o.mode.toNat with
  | 0 => 64 * o.line.toNat + j * rb
  | 1 => 64 * ((o.line.toNat : Int) + j * stride)
  | _ => 64 * o.line.toNat

/-- Lines that `rb` bytes from byte `a` touch. -/
def linesAt (a : Int) (rb : Nat) : List Int :=
  let l0 := a / 64
  (List.range ((a + rb - 1) / 64 - l0 + 1).toNat).map fun (i : Nat) => l0 + (i : Int)

/-- Lines of row `j`. -/
def rowLines (o : SpMove) (stride : Int) (rb j : Nat) : List Int := linesAt (moveAddr o stride rb j) rb

/-- Lines that row `j` of an sp.ldt requests: not the line its latch holds (R100); MODE 11 requests its lines once. -/
def ldtReq (o : SpMove) (stride : Int) (rb j : Nat) : List Int :=
  match j with
  | 0 => rowLines o stride rb 0
  | i + 1 =>
    if o.mode = 3 then []
    else (rowLines o stride rb (i + 1)).filter fun l => decide (some l ≠ (rowLines o stride rb i).getLast?)

/-- Lines that row `j` is the last row of an sp.stt to write (R100). -/
def sttReq (o : SpMove) (stride : Int) (rb n j : Nat) : List Int :=
  if n ≤ j + 1 then rowLines o stride rb j
  else (rowLines o stride rb j).filter fun l => !(rowLines o stride rb (j + 1)).contains l

/-- The exponent line of row `j` (R105). -/
def expLine (o : SpMove) (cfg : BitVec 32) (j : Nat) : Int :=
  (o.line.toNat : Int) + cfgExpoff cfg + (if o.mode = 3 then 0 else j / 8 : Nat)

/-- Row `j` of an sp.ldt requests an exponent line (R105). -/
def ldtExp (o : SpMove) (cfg : BitVec 32) (j : Nat) : Bool :=
  fmtExps (cfgFmt cfg) && decide (if o.mode = 3 then j = 0 else j % 8 = 0)

/-- Row `j` is the last of its group of eight that an sp.stt of `n` rows moves (R105). -/
def sttExp (cfg : BitVec 32) (n j : Nat) : Bool := fmtExps (cfgFmt cfg) && decide (j % 8 = 7 ∨ j + 1 = n)

/-- Lines of every row and the exponent lines of a move. -/
def moveLines (o : SpMove) (stride : Int) (cfg : BitVec 32) (n : Nat) : List Int :=
  if o.mode = 2 then (List.range 64).map fun (i : Nat) => (o.line.toNat : Int) + (i : Int)
  else
    (List.range n).flatMap (rowLines o stride (cfgRB cfg)) ++
      ((List.range n).filter fun j => fmtExps (cfgFmt cfg) && decide (j % 8 = 0)).map (expLine o cfg)

/-- Bank requests of an sp.ldt of `n` rows from cycle `c` (R101-R105). -/
def ldtClaims (o : SpMove) (stride : Int) (cfg : BitVec 32) (n c : Nat) : List (Nat × Nat) :=
  if o.mode = 2 then (List.range (ceilDiv n 8)).map fun m => (c + 8 * m, allBanks)
  else (List.range n).flatMap fun j =>
    (ldtReq o stride (cfgRB cfg) j ++ (if ldtExp o cfg j then [expLine o cfg j] else [])).map
      fun l => (c + j, (l % 32).toNat)

/-- Bank requests of an sp.stt of `n` rows from cycle `c` (R101, R105). -/
def sttClaims (o : SpMove) (stride : Int) (cfg : BitVec 32) (n c : Nat) : List (Nat × Nat) :=
  (List.range n).flatMap fun j =>
    (sttReq o stride (cfgRB cfg) n j ++ (if sttExp cfg n j then [expLine o cfg j] else [])).map
      fun l => (c + 1 + j, (l % 32).toNat)

/-- The restriction of MODE 01: no two rows request one bank in one cycle or in consecutive cycles (R102). -/
def strideOk (req : Nat → List Int) (n : Nat) : Bool :=
  (List.range n).all fun j =>
    let now := (req j).map (· % 32)
    now.Nodup && (j + 1 = n || ((req (j + 1)).map (· % 32)).all fun b => !now.contains b)

/-! ### Faults at issue -/

/-- A line as the detail word of an address fault gives it. -/
def lineDetail (l : Int) : Nat := wrap 64 l

/-- Faults of sp.ldt and sp.stt at issue, lowest code and lowest rule first (R532). -/
def moveBad (store : Bool) (o : SpMove) (_ : State) (x : Fold) : Option (Nat × Nat × Nat) :=
  let t := o.tile.toNat
  let cfg := x.ti.word t
  let n := o.rows.toNat + 1
  let rb := cfgRB cfg
  let stride := sext 24 (peek 0 x.ti.stride o.ss.toNat).toNat
  if cfgRows cfg < o.row0.toNat + n then some (0x11, engSp, detailShapeTile 56 t)
  else if !x.ti.used t then some (0x11, engSp, detailShapeTile 88 t)
  else if o.mode = 2 && !(rb = 64 && [0, 1, 5, 6].contains (cfgFmt cfg) && decide (n ≤ 64)) then
    some (0x11, engSp, detailShapeTile 102 t)
  else if o.mode = 1 && !strideOk (if store then sttReq o stride rb n else ldtReq o stride rb) n then
    some (0x11, engSp, detailShapeTile 102 t)
  else if spLines ≤ o.line.toNat then some (0x12, engSp, o.line.toNat)
  else
    match (moveLines o stride cfg n).find? fun l =>
        decide (l < 0) || decide ((spLines : Int) ≤ l) || (store && x.qu.inQueue l.toNat) with
    | some l => some (0x12, engSp, lineDetail l)
    | none =>
      if x.ex.isBusy 10 then some (0x13, engSp, detailBusy 10 (x.ex.busyAt 10).2 0)
      else claimBad x (if store then sttClaims o stride cfg n x.ex.cycle else ldtClaims o stride cfg n x.ex.cycle)

/-- The sp unit's occupancy by a one-cycle instruction. -/
def spBusy (x : Fold) : Option (Nat × Nat × Nat) :=
  if x.ex.isBusy 10 then some (0x13, engSp, detailBusy 10 (x.ex.busyAt 10).2 0) else none

/-- Faults of sp.cfg at issue (R82). -/
def cfgBad (tile : Nat) (cfg : BitVec 32) (x : Fold) : Option (Nat × Nat × Nat) :=
  if x.ti.used tile || !rbAllowed (cfgFmt cfg) (cfgRB cfg) then some (0x11, engSp, detailShapeTile 82 tile)
  else spBusy x

/-- The sp slot's rank among writes of one cycle (R59). -/
def rankSp : Nat := 2

/-- Issues an sp instruction that occupies the unit for `n` cycles and has a part due `after` cycles from issue. -/
def spIssue (f n : Nat) (read : Bool) (after : Nat) (op : Fold → DueOp) (s : State) (x : Fold) : State :=
  s.setFold f { x with ex := (x.ex.occupy 10 n).addDue (x.ex.dueAt read rankSp after (op x)) }

/-! ### Meanings -/

def execSpNop (f : FoldId) (s : State) : Res :=
  whileClocked s (slotIssue s f.toNat 3 (.spNop f) (fun _ _ => none) fun s _ => s)

/-- sp.cfg (R79, R82, R87): the configuration holds from the next cycle, with IN_USE set. -/
def execSpCfg (f : FoldId) (tile : BitVec 4) (cfg : BitVec 32) (s : State) : Res :=
  whileClocked s (slotIssue s f.toNat 3 (.spCfg f tile cfg) (fun _ x => cfgBad tile.toNat cfg x)
    (spIssue f.toNat 1 false 1 fun _ => .cfg tile.toNat (cfg &&& 0xFFFFFF7F)))

/-- sp.rel (R87). -/
def execSpRel (f : FoldId) (mask : BitVec 16) (s : State) : Res :=
  whileClocked s (slotIssue s f.toNat 3 (.spRel f mask) (fun _ x => spBusy x) (spIssue f.toNat 1 false 1 fun _ => .rel mask))

/-- sp.sset (R56). -/
def execSpSset (f : FoldId) (ss : BitVec 2) (stride : BitVec 24) (s : State) : Res :=
  whileClocked s (slotIssue s f.toNat 3 (.spSset f ss stride) (fun _ x => spBusy x)
    (spIssue f.toNat 1 false 1 fun _ => .sset ss.toNat stride))

/-- The stride a move reads at issue (R65). -/
def Fold.stride (x : Fold) (o : SpMove) : Int := sext 24 (peek 0 x.ti.stride o.ss.toNat).toNat

/-- sp.ldt (R56, R100-R105): row `j` is read at issue + j and written for readers from issue + 7 + j. -/
def execSpLdt (f : FoldId) (o : SpMove) (s : State) : Res :=
  whileClocked s (slotIssue s f.toNat 3 (.spLdt f o) (moveBad false o) fun s x =>
    let n := o.rows.toNat + 1
    let cfg := x.ti.word o.tile.toNat
    let x := { x with ex := claim rankSp (ldtClaims o (x.stride o) cfg n x.ex.cycle) x.ex }
    spIssue f.toNat n true 0 (fun x => .ldt o (x.stride o) cfg 0 [] []) s x)

/-- sp.stt (R56, R100-R105): row `j` is read at issue + j. -/
def execSpStt (f : FoldId) (o : SpMove) (s : State) : Res :=
  whileClocked s (slotIssue s f.toNat 3 (.spStt f o) (moveBad true o) fun s x =>
    let n := o.rows.toNat + 1
    let cfg := x.ti.word o.tile.toNat
    let x := { x with ex := claim rankSp (sttClaims o (x.stride o) cfg n x.ex.cycle) x.ex }
    spIssue f.toNat n true 0 (fun x => .stt o (x.stride o) cfg 0 [] []) s x)

/-! ### Parts that become due -/

/-- Adds later parts of the operation of a due part. -/
def later (f : Nat) (ds : List Due) (s : State) : State :=
  s.onFold f fun x => { x with ex := { x.ex with due := addDues ds x.ex.due } }

/-- A later part of the same operation, `n` cycles on. -/
def Due.after (d : Due) (n : Nat) (read : Bool) (op : DueOp) : Due :=
  { d with cycle := d.cycle + n, read := read, op := op }

/-- The bank writes that an operation requests in the cycle after `d`: each is performed in that cycle, or in the one after where the drover
owns its bank in it (R97, R98). -/
def Due.bankWrites (d : Due) (chunks : List (Nat × List Byte)) : List Due :=
  let slips := fun (p : Nat × List Byte) => decide ((d.cycle + 1) % 4 = p.1 / 64 % 4)
  let part := fun (n : Nat) (l : List (Nat × List Byte)) => if l.isEmpty then [] else [d.after n false (.spWrite l)]
  part 1 (chunks.filter fun p => !slips p) ++ part 2 (chunks.filter slips)

/-- Bytes of a line of this access stream: from its latch, or read now (R100, R107). -/
def latched (f : Nat) (d : Due) (latch : List (Nat × List Byte)) (l : Nat) (s : State) : State × List Byte :=
  match latch.find? fun e => decide (e.1 = l) with
  | some e => (s, e.2)
  | none => (spTouch f 1 d.baddr d.tag (64 * l) 64 s, (s.fold f).sp.line l)

/-- Reads several lines of an access stream. -/
def latchedAll (f : Nat) (d : Due) (latch : List (Nat × List Byte)) (ls : List Nat) (s : State) :
    State × List (Nat × List Byte) :=
  ls.foldl (fun a l => let r := latched f d latch l a.1; (r.1, a.2 ++ [(l, r.2)])) (s, [])

/-- Row `j` of a transposing sp.ldt and the rows up to seven after it: byte `k` of source line `i` is byte `i` of tile
row ROW0 + k (R102, R103). -/
def landTranspose (f : Nat) (d : Due) (o : SpMove) (stride : Int) (cfg : BitVec 32) (j : Nat) (s : State) : State :=
  let src := (List.range 64).map fun i => (s.fold f).sp.bytes (64 * (o.line.toNat + i) + j) 8
  let s := (List.range 64).foldl (fun t i => spTouch f 1 d.baddr d.tag (64 * (o.line.toNat + i) + j) 8 t) s
  let n := o.rows.toNat + 1
  let rows := ((List.range 8).filter fun k => decide (j + k < n)).map fun k =>
    d.after (7 + k) false (.tileRow o.tile.toNat (o.row0.toNat + j + k) (src.map fun w => nth 0 w k) [])
  later f (rows ++ (if j + 8 < n then [d.after 8 true (.ldt o stride cfg (j + 8) [] [])] else [])) s

/-- Row `j` of an sp.ldt is read (R101). -/
def landLdt (f : Nat) (d : Due) (o : SpMove) (stride : Int) (cfg : BitVec 32) (j : Nat) (latch : List (Nat × List Byte))
    (exps : List Byte) (s : State) : State :=
  if o.mode = 2 then landTranspose f d o stride cfg j s
  else
    let rb := cfgRB cfg
    let a := (moveAddr o stride rb j).toNat
    let lines := (rowLines o stride rb j).map Int.toNat
    let (s, got) := latchedAll f d latch lines s
    let bytes := ((got.flatMap (·.2)).drop (a % 64)).take rb
    let el := (expLine o cfg j).toNat
    let s := if ldtExp o cfg j then spTouch f 1 d.baddr d.tag (64 * el) 64 s else s
    let exps := if ldtExp o cfg j then (s.fold f).sp.line el else exps
    let field := if fmtExps (cfgFmt cfg) then (exps.drop (if o.mode = 3 then 0 else 8 * (j % 8))).take 8 else []
    let row := d.after 7 false (.tileRow o.tile.toNat (o.row0.toNat + j) bytes field)
    let latch := if o.mode = 3 then got else got.drop (got.length - 1)
    later f (row :: (if j < o.rows.toNat then [d.after 1 true (.ldt o stride cfg (j + 1) latch exps)] else [])) s

/-- Row `j` of an sp.stt is read; the writes of the lines it completes are requested in the next cycle (R98, R100, R101, R105). -/
def landStt (f : Nat) (d : Due) (o : SpMove) (stride : Int) (cfg : BitVec 32) (j : Nat)
    (gathered exps : List (Nat × List Byte)) (s : State) : State :=
  let t := o.tile.toNat
  let r := o.row0.toNat + j
  let n := o.rows.toNat + 1
  let rb := cfgRB cfg
  let s := readPort f 5 t 1 r (touchRow f d.baddr d.tag t r s)
  let x := s.fold f
  let a := (moveAddr o stride rb j).toNat
  let bytes := x.ti.row t r rb
  let pieces := (rowLines o stride rb j).map fun l =>
    let lo := max a (64 * l.toNat)
    (lo, (bytes.drop (lo - a)).take (64 * l.toNat + 64 - lo))
  let gathered := gathered ++ pieces
  let full := (sttReq o stride rb n j).map Int.toNat
  let out := gathered.filter fun p => full.contains (p.1 / 64)
  let keep := gathered.filter fun p => !full.contains (p.1 / 64)
  let exps := if fmtExps (cfgFmt cfg) then exps ++ [(64 * (expLine o cfg j).toNat + 8 * (j % 8), x.ti.rowExps t r)]
    else exps
  let now := sttExp cfg n j
  let chunks := out ++ (if now then exps else [])
  later f (d.bankWrites chunks ++
    (if j < o.rows.toNat then [d.after 1 true (.stt o stride cfg (j + 1) keep (if now then [] else exps))] else [])) s

/-- Scratchpad bytes take effect. -/
def landSpWrite (f : Nat) (d : Due) (chunks : List (Nat × List Byte)) (s : State) : State :=
  chunks.foldl (fun t p => spStore f 1 d.baddr d.tag p.1 p.2 t) s

/-- A tile row takes effect. -/
def landTileRow (f t r : Nat) (bytes exps : List Byte) (s : State) : State :=
  s.onFold f fun x =>
    let y := x.ti.putRow t r bytes exps
    { x with ti := { y with wrote := rowKey t r :: y.wrote } }

/-- A configuration word takes effect, with IN_USE (R87). -/
def landCfg (f t : Nat) (w : BitVec 32) (s : State) : State :=
  s.onFold f fun x => { x with ti := { x.ti with cfg := put 0 x.ti.cfg t w, inUse := maskSet x.ti.inUse t true } }

/-- IN_USE is cleared for the tiles of a mask, whose content is then undefined (R87). -/
def Tiles.release (x : Tiles) (ctr : Nat) (m : BitVec 16) : Tiles :=
  (setBits m.toNat 16).foldl (fun (y : Tiles) t => y.forget ctr t) { x with inUse := x.inUse &&& ~~~m }

def landRel (f : Nat) (m : BitVec 16) (s : State) : State :=
  (s.onFold f fun x => { x with ti := x.ti.release s.freeCtr m }).used

/-- A stride register takes its value (R56). -/
def landSset (f ss : Nat) (v : BitVec 24) (s : State) : State :=
  s.onFold f fun x => { x with ti := { x.ti with stride := put 0 x.ti.stride ss v } }

/-- Two requests to one bank meet in this cycle (R99). -/
def landBankFault (f : Nat) (baddr other bank : Nat) (s : State) : State :=
  s.raiseFold f 0x13 engScratch 1 baddr (bundleTag (peek 0 (s.fold f).ex.bundles baddr)) (detailBusy 13 other bank)

end Sys2Proof.Machine
end

