-- ==== Sys2Proof/Machine/Queue.lean ====
section
/-! DEFINITION. The qp slot: messages, selects and releases (R53, R54, R282-R298), and pennants (R299-R304). -/
namespace Sys2Proof.Machine

/-! ### Channels and messages on their way -/

def Fold.chan (x : Fold) (c : Nat) : Chan := peek Chan.init x.qu.chans c
def Fold.setChan (x : Fold) (c : Nat) (u : Chan) : Fold :=
  { x with qu := { x.qu with chans := put Chan.init x.qu.chans c u } }
def Fold.cent (x : Fold) (c : Nat) : CEnt := peek CEnt.none x.qu.ctab c
def Fold.qent (x : Fold) (q : Nat) : QEnt := peek QEnt.none x.qu.qtab q

/-- The multicast tree whose root names this program fold and channel as its source (R348). -/
def State.treeSource (s : State) (p c : Nat) : Option Nat :=
  match s.job with
  | some j =>
    if s.chip.rigged && bitOf j.prog.features 8 then
      (s.rig.trees.find? fun e => decide (e.2.parent = 0xFF) && bitOf e.2.source.toNat 15 &&
        decide (fld e.2.source.toNat 5 5 = p) && decide (fld e.2.source.toNat 0 4 = c)).map (·.1)
    else none
  | none => none

/-- Faults of a q.send or CHAN on channel `c` that its evaluation shows, waiting or not: an absent channel (R287), a
remote channel without a route (R342, R355), a closed channel (R296). -/
def chanBad (s : State) (x : Fold) (c : Nat) : Option (Nat × Nat) :=
  let e := x.cent c
  if e.ncred = 0 then some (0x12, Config.absentDetail c)
  else if e.rem && !s.chip.rigged then some (0x12, Config.absentDetail e.node)
  else if e.rem && (s.treeSource x.ex.prog c).isNone && (s.route e.node x.ex.prog).isNone then
    some (0x12, Config.absentDetail e.node)
  else if (x.chan c).closed then some (0x18, at_ 60 4 c + at_ 55 5 e.dfold + at_ 43 12 e.node)
  else none

/-- A message takes its slot: one credit is spent, the landing pointer and the send count advance (R286, R184). -/
def Fold.startMsg (x : Fold) (c lines : Nat) (xfer : Option Nat) (addr akind : Nat) (tag : BitVec 12) : Fold :=
  let e := x.cent c
  let u := x.chan c
  let m : OutMsg := { seq := x.qu.msgSeq, ch := c, lines := lines, slot := u.ptr, tally := u.sendCnt, data := [], crc := 0,
                      issue := x.ex.cycle, ready := false, reached := false, xfer := xfer, hold := if e.rem then x.mx.vStarted else 0,
                      baddr := addr, akind := akind, tag := tag }
  let x := x.setChan c { u with credits := u.credits - 1, ptr := (u.ptr + 1) % e.ncred, sendCnt := u.sendCnt + 1 }
  { x with qu := { x.qu with outMsg := x.qu.outMsg ++ [m], msgSeq := x.qu.msgSeq + 1 } }

/-- Changes the message of sequence `seq`. -/
def Fold.onMsg (x : Fold) (seq : Nat) (g : OutMsg → OutMsg) : Fold :=
  { x with qu := { x.qu with outMsg := x.qu.outMsg.map fun m => if m.seq = seq then g m else m } }

/-- Sets the transfer `t` of a fold done: only its completion is due. -/
def Fold.xferDone (x : Fold) (t : Nat) : Fold :=
  { x with dr := { x.dr with xfers := x.dr.xfers.map fun y => if y.slot = t then { y with done := true } else y } }

/-- What becomes of a message that reaches the queue in unit. -/
inductive Arrive where
  /-- Refused (R285, R296): by the binding check, or because the queue is closed. -/
  | refused (binding : Bool)
  | taken (s : State)

/-- The binding check of a remote channel at its first message (R285). -/
def bindRemote (x : Fold) (q : Nat) (b : Binding) : Option Fold :=
  let e := x.qent q
  match (x.queue q).bound with
  | some o => if o = b then some x else none
  | none =>
    if e.lines = 0 || e.lines < b.ncred * (b.slotm1 + 1) then none
    else some (x.setQueue q { x.queue q with bound := some b })

/-- The lines of a message have reached fold `x` and wait to land in its slot of queue `q` (R286, R288). -/
def Fold.takeMsg (x : Fold) (q : Nat) (b : Binding) (r : MsgRec) (data : List Byte) (tally : BitVec 8) (want seq : Nat)
    (tag : BitVec 12) : Fold :=
  let m : InMsg := { q := q, from_ := b, rec_ := r, line := (x.qent q).base + r.slot * (b.slotm1 + 1), left := pieces 64 data,
                     crc := 0xFFFFFFFF, want := want, tally := tally, seq := seq, tag := tag }
  { x with qu := { x.qu with inMsgs := x.qu.inMsgs ++ [m] } }

/-- A message of another device or of a tree reaches queue `q` of fold `f` from the channel `b` (R285, R296). -/
def arrive (f q : Nat) (b : Binding) (r : MsgRec) (data : List Byte) (tally : BitVec 8) (crc : Nat) (s : State) : Arrive :=
  match bindRemote (s.fold f) q b with
  | none => .refused true
  | some x =>
    if (x.queue q).closed then .refused false
    else .taken (s.setFold f (x.takeMsg q b r data tally crc 0 0))

/-- The job receives messages: its folds are loaded (R296, R410). -/
def State.receives (s : State) : Bool :=
  match s.job with
  | some j => decide (j.phase ≠ .loading) && decide (j.phase ≠ .restoring)
  | none => true

/-- A message of a multicast tree reaches this device, which takes it when it is a LOCAL member (R285, R296, R348); a member whose job
is being loaded or restored runs none, and refuses it. -/
def landTree (s : State) (t src p : Nat) (m : NetMsg) (tally : BitVec 8) : Arrive :=
  let tr := peek Tree.init s.rig.trees t
  if !tr.loc then .taken s
  else if !s.receives then .refused false
  else
    match s.job with
    | none => .refused false
    | some j =>
      match j.place m.dfold.toNat with
      | none => .refused true
      | some f =>
        let b : Binding := { node := some src, fold := p, ch := m.ch.toNat, slotm1 := m.slotm1.toNat,
                             ncred := m.ncred.toNat, tree := some t }
        arrive f m.dq.toNat b { slot := m.slot.toNat, lines := m.data.length / 64, node := some src, fold := p }
          m.data tally m.crc.toNat s

/-- The tree message at place `i` has been released here and credited from every child: a credit goes to the parent, or
to the sending channel at the root (R349). -/
def treeCredit (i : Nat) (s : State) : State :=
  match s.rig.treeMsgs[i]? with
  | none => s
  | some m =>
    let tr := peek Tree.init s.rig.trees m.tree
    if m.released && decide (tr.children.toNat &&& m.back = tr.children.toNat) then
      let s := { s with rig := { s.rig with treeMsgs := s.rig.treeMsgs.eraseIdx i } }
      if tr.parent = 0xFF then
        match s.treeSource m.fold m.ch, s.job.bind fun j => j.place m.fold with
        | some t, some g =>
          if t = m.tree then s.onFold g fun x => { x with qu := { x.qu with credIn := x.qu.credIn ++ [(m.ch, none)] } } else s
        | _, _ => s
      else if tr.parent.toNat < s.chip.grade.links then
        s.sendOn tr.parent.toNat (s.flit 0 clsRS 0 m.fold (.credit m.fold m.ch (some m.tree)))
      else raise (s.repNone 0x1A 5 engLink (at_ 62 2 1 + at_ 0 8 tr.parent.toNat)) s
    else s

/-- A tree message that this device has not refused is held until it is released here, by a LOCAL member, and credited from every child
(R349). -/
def State.holdTree (s : State) (t p : Nat) (m : NetMsg) : State :=
  let tr := peek Tree.init s.rig.trees t
  treeCredit s.rig.treeMsgs.length { s with rig := { s.rig with treeMsgs := s.rig.treeMsgs ++
      [{ tree := t, fold := p, ch := m.ch.toNat, dfold := m.dfold.toNat, dq := m.dq.toNat, released := !tr.loc,
         back := 0 }] } }

/-- The sender's record of a message that was refused: a fault of the fold that sent it, located by the q.send or the
descriptor (R285, R296). -/
def refusedFault (f ch slot : Nat) (binding : Bool) (s : State) : State :=
  let x := s.fold f
  let e := x.cent ch
  match (x.chan ch).sent.find? fun r => decide (r.slot = slot) with
  | none => s
  | some r =>
    let eng := if r.akind = 1 then engQueue else engDrover
    if binding then s.raiseFold f 0x12 eng r.akind r.addr r.tag (Config.absentDetail ch)
    else s.raiseFold f 0x18 eng r.akind r.addr r.tag (at_ 60 4 ch + at_ 55 5 e.dfold + at_ 43 12 e.node)

/-- A message of channel `ch` of program fold `p` of a node is refused (R285, R296): by a flit that program fold `k` originates,
or at once where the sender is a fold of this device. -/
def State.refuseMsg (s : State) (node p ch slot k : Nat) (binding : Bool) : State :=
  if node = s.rig.nodeId.toNat then
    match s.job.bind fun j => j.place p with
    | some g => refusedFault g ch slot binding s
    | none => s
  else s.sendFlit (s.flit node clsRS 0 k (.refuse p ch slot binding)) k

/-- The packet of a message. -/
def netMsg (e : CEnt) (m : OutMsg) : NetMsg :=
  { ch := BitVec.ofNat 4 m.ch, dfold := BitVec.ofNat 5 e.dfold, dq := BitVec.ofNat 4 e.dq, slot := BitVec.ofNat 6 m.slot,
    slotm1 := BitVec.ofNat 4 e.slotm1, ncred := BitVec.ofNat 7 e.ncred, data := m.data,
    crc := BitVec.ofNat 32 m.crc }

/-- A message of fold `f` leaves the device: down its tree, or to its node (R345, R348). Without a route it is refused before it
leaves (R342). -/
def leaveMsg (f : Nat) (m : OutMsg) (s : State) : State :=
  let x := s.fold f
  let e := x.cent m.ch
  let n := netMsg e m
  let p := x.ex.prog
  let u := x.chan m.ch
  let y := x.setChan m.ch { u with sent := u.sent ++ [{ slot := m.slot, akind := m.akind, addr := m.baddr, tag := m.tag }] }
  let y := { y with qu := { y.qu with outMsg := y.qu.outMsg.filter fun o => decide (o.seq ≠ m.seq) } }
  let y := match m.xfer with | some t => y.xferDone t | none => y
  let s := s.setFold f y
  match s.treeSource p m.ch with
  | some t =>
    let own := s.rig.nodeId.toNat
    let s := s.sendDown t (s.flit own clsRQ m.tally p (.tree t n))
    match landTree s t own p n m.tally with
    | .refused binding => s.refuseMsg own p m.ch m.slot p binding
    | .taken s => s.holdTree t p n
  | none =>
    if (s.route e.node p).isNone then
      s.raiseFold f 0x12 (if m.akind = 1 then engQueue else engDrover) m.akind m.baddr m.tag (Config.absentDetail e.node)
    else s.sendFlit (s.flit e.node clsRQ m.tally p (.msg n)) p

/-- A verdict of fold `f` was a fault: data held for it never leaves (R178). -/
def verdictFaulted (f : Nat) (s : State) : Bool :=
  match s.job with
  | some j => j.reports.any fun r => r.lv && decide (r.lfold = f) && (decide (r.code = 0x40) || decide (r.code = 0x41))
  | none => false

/-- Messages of remote channels that have all their lines and whose verdicts are delivered leave, in the order of each
channel (R178, R286, R345). -/
def flushMsgs (f : Nat) (s : State) : State :=
  ((s.fold f).qu.outMsg.foldl (fun (a : State × List Nat) m =>
    if !((s.fold f).cent m.ch).rem || a.2.contains m.ch || verdictFaulted f s then a
    else if m.ready && (s.fold f).mx.vOpen.all fun i => decide (m.hold ≤ i) then (leaveMsg f m a.1, a.2)
    else (a.1, m.ch :: a.2)) (s, [])).1

/-! ### Releases (R293) -/

/-- One credit of fold `f` goes back to the channel bound to its queue (R293, R345, R349); none leaves a fold that an abort has reached
(R410). -/
def returnCredit (f : Nat) (b : Binding) (s : State) : State :=
  let k := (s.fold f).ex.prog
  if s.aborting then s else
  match b.tree with
  | some t =>
    match s.rig.treeMsgs.findIdx? fun m => decide (m.tree = t) && decide (m.fold = b.fold) && decide (m.ch = b.ch) &&
        !m.released with
    | some i =>
      treeCredit i { s with rig := { s.rig with
        treeMsgs := s.rig.treeMsgs.modify i fun m => { m with released := true } } }
    | none => s
  | none =>
    match b.node with
    | some n => s.sendFlit (s.flit n clsRS 0 k (.credit b.fold b.ch none)) k
    | none =>
      match s.job.bind fun j => j.place b.fold with
      | some g => s.onFold g fun x => { x with qu := { x.qu with credIn := x.qu.credIn ++ [(b.ch, s.by48 g)] } }
      | none => s

/-- The message at the head of queue `q` is released: the head moves on and one credit returns (R293). -/
def releaseHead (f q : Nat) (s : State) : State :=
  let u := (s.fold f).queue q
  match u.bound, u.msgs with
  | some b, m :: t =>
    let s := s.onFold f fun x =>
      let y := x.setQueue q { u with msgs := t, head := (u.head + 1) % b.ncred }
      { y with qu := { y.qu with popNow := some (q, m) } }
    returnCredit f b s
  | _, _ => s

/-! ### q.nop, q.send, q.recv -/

def execQNop (f : FoldId) (s : State) : Res :=
  whileClocked s (slotIssue s f.toNat 4 (.qNop f) (fun _ _ => none) fun s _ => s)

/-- The qp slot's rank among writes of one cycle (R59). -/
def rankQp : Nat := 3

/-- Bank requests of a q.send of `k` lines (R101). -/
def sendClaims (src k c : Nat) : List (Nat × Nat) := (List.range k).map fun j => (c + j, (src + j) % 32)

/-- Faults of a q.send, the lowest code first (R287, R296, R532): those of the channel show at every evaluation, the others when it
would issue or when the channel faults. -/
def sendBad (ch k src : Nat) (s : State) (x : Fold) : Option (Nat × Nat × Nat) :=
  let c := chanBad s x ch
  if c.isNone && decide ((x.chan ch).credits = 0) then none
  else if (x.cent ch).ncred ≠ 0 && decide ((x.cent ch).slotm1 + 1 < k) then some (0x11, engQueue, detailShape 287)
  else
    match c with
    | some (0x12, detail) => some (0x12, engQueue, detail)
    | _ =>
      if spLines < src + k then some (0x12, engQueue, max src spLines)
      else
        let busy := if x.ex.isBusy (32 + ch) then some (0x13, engQueue, detailBusy 12 (x.ex.busyAt (32 + ch)).2 ch)
          else claimBad { x with ex := x.ex.govern } (sendClaims src k x.ex.cycle)
        match busy, c with
        | some b, _ => some b
        | none, some (code, detail) => some (code, engQueue, detail)
        | none, none => none

/-- q.send (R22, R53, R70, R286): source line `j` is read at issue + j. -/
def execQSend (f : FoldId) (ch : BitVec 4) (lines : BitVec 4) (src : BitVec 17) (s : State) : Res :=
  let k := lines.toNat + 1
  whileClocked s (stallIssue s f.toNat false (.send ch) (.qSend f ch lines src) (sendBad ch.toNat k src.toNat)
    (fun _ x => decide (1 ≤ (x.chan ch.toNat).credits))
    fun s x =>
      let seq := x.qu.msgSeq
      let y := x.startMsg ch.toNat k none x.ex.lastBundle 1 x.ex.lastTag
      let e := claim rankQp (sendClaims src.toNat k x.ex.cycle) (y.ex.occupy (32 + ch.toNat) k)
      (s.setFold f.toNat { y with ex := e.addDue (e.dueAt true rankQp 0 (.sendLine seq src.toNat 0)) }, 0))

/-- Source line `j` of a q.send is read; the last enters the message six cycles later (R70). -/
def landSendLine (f : Nat) (d : Due) (seq src j : Nat) (s : State) : State :=
  let s := spTouch f 1 d.baddr d.tag (64 * (src + j)) 64 s
  let line := (s.fold f).sp.line (src + j)
  let k := ((s.fold f).qu.outMsg.find? fun m => decide (m.seq = seq)).elim 0 (·.lines)
  let s := s.onFold f fun x => x.onMsg seq fun m => { m with data := m.data ++ line }
  later f (if j + 1 < k then [d.after 1 true (.sendLine seq src (j + 1))] else [d.after 6 false (.sendOut seq)]) s

/-- The message has all its lines. -/
def landSendOut (f seq : Nat) (s : State) : State :=
  flushMsgs f (s.onFold f fun x => x.onMsg seq fun m => { m with ready := true, crc := crc32c m.data })

/-- A queue that the region table does not hold (R291). -/
def queueBad (q : Nat) (x : Fold) : Option (Nat × Nat × Nat) :=
  if (x.qent q).lines = 0 then some (0x12, engQueue, Config.absentDetail q) else none

/-- Queue `q` as the slots of the bundle at issue find it: with ctl.end in that bundle, as it stood before (R65, R295). -/
def Fold.queueNow (x : Fold) (q : Nat) : Queue :=
  if x.ex.run = .ended then peek Queue.init x.qu.ending q else x.queue q

def Fold.holds (x : Fold) (q : Nat) : Bool := !(x.queueNow q).msgs.isEmpty

/-- The select result register takes a queue number one cycle after issue (R70, R289). -/
def Fold.selLater (x : Fold) (q : Nat) : Fold :=
  { x with ex := x.ex.addDue (x.ex.dueAt false rankQp 1 (.selres (BitVec.ofNat 4 q))) }

/-- q.recv (R22, R289). -/
def execQRecv (f : FoldId) (q : BitVec 4) (s : State) : Res :=
  whileClocked s (stallIssue s f.toNat false (.recv q) (.qRecv f q) (fun _ x => queueBad q.toNat x)
    (fun _ x => x.holds q.toNat) fun s x => (s.setFold f.toNat (x.selLater q.toNat), 0))

/-! ### q.sel (R54, R290-R292) -/

/-- The queues of a set in the order a select looks at them: by number, or from RP + 1 on (R290). -/
def selOrder (x : Exec) (rot : Bool) (set : BitVec 16) : List Nat :=
  let all := if rot then (List.range 16).map fun i => (x.rp + 1 + i) % 16 else List.range 16
  all.filter fun q => set.getLsbD q

/-- The set a select works on: the select mask register or the immediate mask. -/
def selSet (x : Exec) (ms : Bool) (mask : BitVec 16) : BitVec 16 := if ms then x.selMask else mask

/-- The queue that a select serves; none while it waits (R54, R290). -/
def selChoice (reefed ord rot : Bool) (set : BitVec 16) (x : Fold) : Option Nat :=
  let o := selOrder x.ex rot set
  if reefed then
    let want := if ord then (selOrder x.ex false set).head? else o.head?
    want.filter x.holds
  else o.find? x.holds

/-- Faults of a q.sel at issue (R291). -/
def selBad (set : BitVec 16) (x : Fold) : Option (Nat × Nat × Nat) :=
  if set = 0 then some (0x11, engQueue, detailShape 291)
  else (setBits set.toNat 16).findSome? fun q => queueBad q x

/-- The rotation pointer, and the state of an ordered reduction, after a select has served queue `q` (R54, R290). -/
def selTake (ord rot : Bool) (q : Nat) (x : Exec) : Exec :=
  let low := (setBits x.selMask.toNat 16).head?
  let x := if rot then { x with rp := q } else x
  if ord then
    let mask := maskSet x.selMask q false
    let ooo := x.ooo || decide (low ≠ some q)
    { x with selMask := mask, ooo := if mask = 0 then false else ooo }
  else x

/-- An ordered select that clears the last bit of a reduction marked out of order counts in the glean counter
(R36, R54). -/
def selGleans (reefed ord : Bool) (q : Nat) (x : Exec) : Bool :=
  !reefed && ord && decide (maskSet x.selMask q false = 0) &&
    (x.ooo || decide ((setBits x.selMask.toNat 16).head? ≠ some q))

/-- The glean counter counts one event (R36). -/
def State.glean (s : State) : State := s.onJob fun j => { j with glean := satAdd 32 j.glean 1 }

def execQSel (f : FoldId) (ms ord rot : Bool) (mask : BitVec 16) (s : State) : Res :=
  let set := selSet (s.fold f.toNat).ex ms mask
  whileClocked s (stallIssue s f.toNat false (.sel set) (.qSel f ms ord rot mask) (fun _ x => selBad set x)
    (fun s x => (selChoice s.reefed ord rot set x).isSome)
    fun s x =>
      match selChoice s.reefed ord rot set x with
      | none => (s, 0)
      | some q =>
        let y := { x with ex := selTake ord rot q x.ex }
        let t := s.setFold f.toNat (y.selLater q)
        (if selGleans s.reefed ord q x.ex then t.glean else t, 0))

/-! ### q.pop, q.smr -/

/-- Faults of a release (R291, R293). -/
def popBad (q : Nat) (x : Fold) : Option (Nat × Nat × Nat) :=
  match queueBad q x with
  | some b => some b
  | none => if x.holds q then none else some (0x17, engQueue, q)

/-- q.pop (R293). -/
def execQPop (f : FoldId) (q : BitVec 4) (s : State) : Res :=
  whileClocked s (slotIssue s f.toNat 4 (.qPop f q) (fun _ x => popBad q.toNat x) fun s _ => releaseHead f.toNat q.toNat s)

/-- q.smr (R53). -/
def execQSmr (f : FoldId) (mask : BitVec 16) (s : State) : Res :=
  whileClocked s (slotIssue s f.toNat 4 (.qSmr f mask) (fun _ _ => none) fun s x =>
    s.setFold f.toNat { x with ex := { x.ex with selMask := mask } })

/-! ### Pennants (R299-R304) -/

/-- The space windows of fold `x` whose credits pennant `pn` of program fold `p` carries receive a grant (R112). -/
def Fold.grant (x : Fold) (p pn inc : Nat) : Fold :=
  { x with qu := { x.qu with wcred := x.qu.wtab.foldl (fun m e =>
      if e.2.src = p && e.2.gpn = pn then put 0 m e.1 ((peek 0 m e.1 + inc) % 2 ^ 17) else m) x.qu.wcred } }

/-- A pennant increment of fold `f` sets out for pennant `pn` of logical fold `g`: two cycles on it takes effect in the fold itself,
and within 32 cycles in another (R70, R301). -/
def Fold.sendPn (x : Fold) (f g pn inc engine akind addr : Nat) (tag : BitVec 12) : Fold :=
  { x with qu := { x.qu with outPn := x.qu.outPn ++
      [{ own := decide (f = g), dst := g, pn := pn, inc := inc, due := x.ex.cycle + (if f = g then 2 else 32), engine := engine, akind := akind,
         addr := addr, tag := tag }] } }

/-- A fold number that names an absent program fold (R18). -/
def absentFold (s : State) (p : Nat) : Option Nat :=
  match s.job with
  | some j => if (j.place p).isSome then none else some (at_ 0 8 p)
  | none => some (at_ 0 8 p)

/-- pn.inc (R53, R112, R301); once an abort has reached the fold, no increment leaves it for another (R410). -/
def execPnInc (f : FoldId) (fold : BitVec 5) (pn : BitVec 6) (inc : BitVec 8) (s : State) : Res :=
  whileClocked s (slotIssue s f.toNat 4 (.pnInc f fold pn inc)
    (fun s _ => (absentFold s fold.toNat).map fun d => (0x1A, engQueue, d))
    fun s x =>
      match s.job.bind fun j => j.place fold.toNat with
      | some g =>
        let y := x.grant fold.toNat pn.toNat inc.toNat
        if s.aborting && decide (g ≠ f.toNat) then s.setFold f.toNat y
        else s.setFold f.toNat (y.sendPn f.toNat g pn.toNat inc.toNat engQueue 1 x.ex.lastBundle x.ex.lastTag)
      | none => s)

/-- pn.wait (R22, R299). -/
def execPnWait (f : FoldId) (pn : BitVec 6) (n : BitVec 8) (s : State) : Res :=
  whileClocked s (stallIssue s f.toNat false (.pn pn n) (.pnWait f pn n) (fun _ _ => none)
    (fun _ x => decide (n.toNat ≤ x.qu.pennant pn.toNat))
    fun s x => (s.setFold f.toNat (x.pnSub pn.toNat n.toNat), 0))

def Job.gcopy (j : Job) (g : Nat) : Nat := (peek 0 j.gpn g).toNat

/-- This device's copy of a global pennant receives an increment; one that would exceed 0xFFFF is a pennant overflow fault,
located by `r` (R300, R303). `last` is the program fold of this device that began it. -/
def addGlobal (g inc : Nat) (last : Option Nat) (r : Nat → FaultRep) (s : State) : State :=
  match s.job with
  | none => s
  | some j =>
    let v := j.gcopy g
    if 0xFFFF < v + inc then
      raise (r (at_ 58 6 g + at_ 52 1 1 + at_ 32 16 v + at_ 16 16 inc)) s
    else
      { s with job := some { j with
          gpn := put 0 j.gpn g (BitVec.ofNat 16 (v + inc))
          gLast := match last with | some p => put none j.gLast g (some p) | none => j.gLast } }

/-- The pennant group of a global pennant: tree and root (R350, R355). -/
def State.group (s : State) (g : Nat) : Option (Nat × Nat) :=
  let w := (peek 0 s.rig.groups g).toNat
  if s.chip.rigged && bitOf w 31 then some (fld w 25 6, fld w 13 12) else none

/-- The increment flit of a pn.ginc: to the root, or down the tree when this device is the root (R351). -/
def sendGroup (g inc p : Nat) (s : State) : State :=
  match s.group g with
  | none => s
  | some (t, root) =>
    if root = s.rig.nodeId.toNat then s.sendDown t (s.flit root clsPN 0 p (.gpn t g inc true))
    else s.sendFlit (s.flit root clsPN 0 p (.gpn t g inc false)) p

/-- A pn.ginc whose increment flit has no route is refused before it leaves (R342). -/
def gincBad (g : Nat) (s : State) (x : Fold) : Option (Nat × Nat × Nat) :=
  match s.group g with
  | none => none
  | some (_, root) =>
    if root ≠ s.rig.nodeId.toNat && (s.route root x.ex.prog).isNone then
      some (0x12, engQueue, Config.absentDetail root) else none

/-- pn.ginc (R303, R351): this device's copy receives the increment at once (log entry 23). After an abort has reached the fold none leaves
it (R410). -/
def execPnGinc (f : FoldId) (gpn : BitVec 6) (inc : BitVec 8) (s : State) : Res :=
  whileClocked s (slotIssue s f.toNat 4 (.pnGinc f gpn inc) (gincBad gpn.toNat)
    fun s x => if s.aborting then s else sendGroup gpn.toNat inc.toNat x.ex.prog
      (addGlobal gpn.toNat inc.toNat (some x.ex.prog)
        (s.rep f.toNat 0x19 engQueue 1 x.ex.lastBundle x.ex.lastTag) s))

/-- The first pn.gwait to reach issue binds a global pennant to its program fold (R304). -/
def bindGlobal (f g : Nat) (s : State) : State :=
  s.onJob fun j => match peek none j.gOwn g with
    | some _ => j
    | none => { j with gOwn := put none j.gOwn g (some (s.fold f).ex.prog) }

/-- The fold bound to a global pennant is another one (R304). -/
def ownerBad (g : Nat) (s : State) (x : Fold) : Option (Nat × Nat × Nat) :=
  match s.job.bind fun j => peek none j.gOwn g with
  | some p => if p = x.ex.prog then none else some (0x1F, engQueue, at_ 0 6 g + at_ 8 5 p)
  | none => none

def globalHolds (g n : Nat) (s : State) : Bool :=
  match s.job with
  | some j => decide (n ≤ j.gcopy g)
  | none => false

def subGlobal (g n : Nat) (s : State) : State :=
  s.onJob fun j => { j with gpn := put 0 j.gpn g (BitVec.ofNat 16 (j.gcopy g - n)) }

/-- pn.gwait (R22, R304). -/
def execPnGwait (f : FoldId) (gpn : BitVec 6) (n : BitVec 8) (s : State) : Res :=
  let on := WaitOn.gpn gpn n
  let t := match reach s f.toNat (some on) (inBundle (.pnGwait f gpn n)) with
    | .go _ => bindGlobal f.toNat gpn.toNat s
    | _ => s
  whileClocked s (stallIssue t f.toNat false on (.pnGwait f gpn n) (ownerBad gpn.toNat)
    (fun s _ => globalHolds gpn.toNat n.toNat s) fun s _ => (subGlobal gpn.toNat n.toNat s, 0))

/-- The first increment of fold `src` on its way to fold `f`, when it is for pennant `pn` and may take effect now: one of
the fold's own pennants two cycles after it was issued (R301). -/
def nextPn (src f pn : Nat) (s : State) : Option PnMsg :=
  match (s.fold src).qu.outPn.find? fun m => decide (m.dst = f) with
  | some m =>
    if m.pn = pn && (!m.own || decide (m.due ≤ (s.fold f).ex.cycle)) then some m else none
  | none => none

/-- Takes the first increment on its way from `src` to `f`. -/
def dropPn (src f : Nat) (s : State) : State :=
  s.onFold src fun x => { x with qu := { x.qu with outPn := x.qu.outPn.eraseP fun m => decide (m.dst = f) } }

/-- The increments that a list of sources delivers together: each with its program fold; none if one of them has none. -/
def takePns (f pn : Nat) : List FoldId → State → Option (State × List (Nat × Nat × PnMsg))
  | [], s => some (s, [])
  | g :: t, s =>
    match nextPn g.toNat f pn s with
    | none => none
    | some m =>
      match takePns f pn t (dropPn g.toNat f s) with
      | none => none
      | some (u, l) => some (u, ((s.fold g.toNat).ex.prog, g.toNat, m) :: l)

/-- The source of lowest program fold. -/
def lowestPn : List (Nat × Nat × PnMsg) → Option (Nat × Nat × PnMsg)
  | [] => none
  | e :: t => match lowestPn t with
    | none => some e
    | some o => if e.1 ≤ o.1 then some e else some o

/-- Fold `f` in the cycle in which the first of its own increments takes effect, where that is the next one and the present one can end
(R301). -/
def State.pnReaching (s : State) (f : Nat) (srcs : List FoldId) : State :=
  let x := s.fold f
  match x.qu.outPn.find? fun m => decide (m.dst = f) with
  | some m => if srcs.any fun g => decide (g.toNat = f) then s.setFold f (x.reaching s m.due) else s
  | none => s

/-- PENNANT_INCREMENT: the next increments of the folds `srcs` to pennant `pn` of fold `f` take effect in one cycle
(R300, R301). The record of an overflow names the increment of the lowest program fold, and the last of the list is the last to
increment (log entry 20). -/
def execPennantIncrement (f : FoldId) (pn : BitVec 6) (srcs : List FoldId) (s : State) : Res :=
  whileClocked s (match takePns f.toNat pn.toNat srcs (s.pnReaching f.toNat srcs), s.job with
    | some (t, l), some _ =>
      match lowestPn l with
      | none => s
      | some (_, g, m) =>
        let x := t.fold f.toNat
        let v := x.qu.pennant pn.toNat
        let sum := sumNat (l.map fun e => e.2.2.inc)
        if 0xFFFF < v + sum then
          t.raiseAt g (if m.own then m.due else (t.fold g).ex.cycle) 0x19 m.engine m.akind m.addr m.tag
            (at_ 58 6 pn.toNat + at_ 53 5 x.ex.prog + at_ 32 16 v + at_ 16 16 sum)
        else
          t.setFold f.toNat { x with qu := { x.qu with
            pn := put 0 x.qu.pn pn.toNat (BitVec.ofNat 16 (v + sum))
            pnLast := put none x.qu.pnLast pn.toNat (l.getLast?.map (·.1)) } }
    | _, _ => s)

/-! ### Arrivals -/

/-- A message sent on this device is refused: a closed-queue fault of the sending fold (R296). -/
def refuseLocal (g : Nat) (m : OutMsg) (e : CEnt) (s : State) : State :=
  s.raiseFold g 0x18 (if m.akind = 1 then engQueue else engDrover) m.akind m.baddr m.tag
    (at_ 60 4 m.ch + at_ 55 5 e.dfold)

/-- The first message of channel `c` of fold `g` whose lines have not reached their receiver, when all of them are in. -/
def headMsg (x : Fold) (c : Nat) : Option OutMsg :=
  (x.qu.outMsg.find? fun m => decide (m.ch = c) && !m.reached).filter (·.ready)

/-- Message `seq` of fold `x` is on its way no longer. -/
def Fold.dropMsg (x : Fold) (seq : Nat) : Fold :=
  { x with qu := { x.qu with outMsg := x.qu.outMsg.filter fun o => decide (o.seq ≠ seq) } }

/-- The lines of a message sent on this device reach its receiver (R286, R288). -/
def reachHere (f g c : Nat) (s : State) : State :=
  let x := s.fold g
  let e := x.cent c
  match headMsg x c, s.job.bind fun j => j.place e.dfold with
  | some m, some d =>
    if e.rem || d ≠ f || !s.receives then s
    else if ((s.fold f).queue e.dq).closed then refuseLocal g m e (s.setFold g (x.dropMsg m.seq))
    else
      let b : Binding := { node := none, fold := x.ex.prog, ch := c, slotm1 := e.slotm1, ncred := e.ncred, tree := none }
      let r : MsgRec := { slot := m.slot, lines := m.lines, node := none, fold := x.ex.prog }
      (s.setFold g (x.onMsg m.seq fun m => { m with reached := true })).onFold f fun y =>
        y.takeMsg e.dq b r m.data m.tally m.crc m.seq m.tag
  | _, _ => s

/-- The first packet of a message of a remote channel reaches its receiver over the rigging (R285, R345). -/
def reachRig (f : Nat) (h : FlitIn) (m : NetMsg) (s : State) : State :=
  if h.dst ≠ s.rig.nodeId || !s.receives then s
  else
    match s.acceptFlit h clsRQ (packetFlits m.data.length) with
    | none => s.discard h.link.toNat
    | some t =>
      let refuse := fun (k : Nat) (binding : Bool) => t.refuseMsg h.src.toNat h.fold.toNat m.ch.toNat m.slot.toNat k binding
      match t.job with
      | none => refuse 0 false
      | some j =>
        match j.place m.dfold.toNat with
        | none => refuse 0 true
        | some d =>
          if d ≠ f then s
          else
            let b : Binding := { node := some h.src.toNat, fold := h.fold.toNat, ch := m.ch.toNat,
                                 slotm1 := m.slotm1.toNat, ncred := m.ncred.toNat, tree := none }
            let r : MsgRec := { slot := m.slot.toNat, lines := m.data.length / 64, node := some h.src.toNat,
                                fold := h.fold.toNat }
            match arrive f m.dq.toNat b r m.data h.tally m.crc.toNat t with
            | .refused binding => refuse m.dfold.toNat binding
            | .taken u => u

/-- The logical fold of this device that sent a message, and what it holds of it. -/
def localSender (s : State) (m : InMsg) : Option (Nat × OutMsg) :=
  match m.from_.node, s.job.bind fun j => j.place m.from_.fold with
  | none, some g => ((s.fold g).qu.outMsg.find? fun o => decide (o.seq = m.seq)).map fun o => (g, o)
  | _, _ => none

/-- The message, arrived, is on its way no longer; a CHAN that sent it is complete but for its event (R244). -/
def settleSender (m : InMsg) (s : State) : State :=
  match localSender s m with
  | none => s
  | some (g, o) => s.onFold g fun x =>
      match o.xfer with
      | some k => (x.dropMsg o.seq).xferDone k
      | none => x.dropMsg o.seq

/-- A message that finds its queue closed once its last line has landed is refused (R296). -/
def refuseLanded (f : Nat) (m : InMsg) (s : State) : State :=
  match m.from_.node with
  | some n => s.refuseMsg n m.from_.fold m.from_.ch m.rec_.slot (s.fold f).ex.prog false
  | none =>
    match localSender s m with
    | some (g, o) => refuseLocal g o ((s.fold g).cent o.ch) (s.onFold g fun x => x.dropMsg o.seq)
    | none => s

/-- Where the fault of a tally unit that watches messages stands (R182): the q.send or descriptor that sent the message on this
device; of a message from another device the record has no kind for a channel, and ADDR holds the sender's (log entry 80). -/
def msgPlace (s : State) (m : InMsg) : Nat × Nat :=
  match localSender s m with
  | some (_, o) => (o.akind, o.baddr)
  | none => (0, m.from_.ch)

/-- The two compares of R288 on the message that has landed at queue `q` of fold `f` (R181, R184): it arrives when both pass. -/
def compareMsg (f : Nat) (m : InMsg) (crcOk : Bool) (s : State) : State :=
  let u := (s.fold f).queue m.q
  let p := msgPlace s m
  let crc := m.crc ^^^ 0xFFFFFFFF
  let good := crcOk && decide (crc = m.want)
  let found := if crc = m.want then Config.free s.freeCtr % 2 ^ 32 else crc
  let s1 := if good then s
    else tallyFault f 2 (some ((s.abroad m.from_).isSome, m.from_.fold))
      (s.rep f 0x42 engTally p.1 p.2 m.tag (at_ 32 32 m.want + found)) s.used
  if m.tally ≠ u.expect then
    (checkCount 6 1 s1).raiseFold f 0x43 engTally p.1 p.2 m.tag (at_ 16 8 m.q + at_ 8 8 u.expect.toNat + at_ 0 8 m.tally.toNat)
  else if good then
    settleSender m (s1.onFold f fun x =>
      x.setQueue m.q { x.queue m.q with msgs := (x.queue m.q).msgs ++ [m.rec_], expect := u.expect + 1 })
  else s1.onFold f fun x => x.setQueue m.q { x.queue m.q with expect := u.expect + 1 }

/-- The first message that is landing at queue `q`, once its last line has landed, is refused or compared. -/
def arriveLanded (f q : Nat) (crcOk : Bool) (s : State) : State :=
  match (s.fold f).qu.inMsgs.find? fun m => decide (m.q = q) with
  | none => s
  | some m =>
    if !m.left.isEmpty || !s.receives then s
    else
      let t := s.onFold f fun x => { x with qu := { x.qu with inMsgs := x.qu.inMsgs.eraseP fun n => decide (n.q = q) } }
      if ((t.fold f).queue q).closed then refuseLanded f m t else compareMsg f m crcOk t

/-- MESSAGE_ARRIVAL (R288): the lines of a message reach fold `f`, where they land in drover-owned cycles (R47), and once the last has
landed the message arrives; `crcOk` is what the compare of R181 finds beyond the values the model holds. -/
def execMessageArrival (f : FoldId) (src : NetFrom) (crcOk : Bool) (s : State) : Res :=
  whileClocked s (match src with
    | .here g ch => reachHere f.toNat g.toNat ch.toNat s
    | .landed q => arriveLanded f.toNat q.toNat crcOk s
    | .rig h m => reachRig f.toNat h m s
    | .tree _ _ _ | .refused _ _ _ => s)

/-- A credit reaches channel `c` of fold `f` (R293); a closed channel stays at 0. It is for the earliest message sent, which can be refused no
longer (R296). -/
def creditTo (f c : Nat) (s : State) : State :=
  s.onFold f fun x =>
    let u := x.chan c
    x.setChan c { u with sent := u.sent.tail, credits := if u.closed then u.credits else u.credits + 1 }

/-- The first entry of a list of arrivals that names channel `c` is taken. -/
def takeArrival (c : Nat) (l : List (Nat × Option Nat)) : List (Nat × Option Nat) := l.eraseP fun e => decide (e.1 = c)

/-- The logical fold of this device whose channel a flit names (R345). -/
def State.ownerOf (s : State) (m : NetMsg) : Option Nat := s.job.bind fun j => j.place m.dfold.toNat

/-- CREDIT_RETURN (R293, R345, R349). -/
def execCreditReturn (f : FoldId) (src : NetFrom) (s : State) : Res :=
  whileClocked s (match src with
    | .here _ ch =>
      let x := s.fold f.toNat
      if x.qu.credIn.any fun e => decide (e.1 = ch.toNat) then
        creditTo f.toNat ch.toNat
          (s.setFold f.toNat { x with qu := { x.qu with credIn := takeArrival ch.toNat x.qu.credIn } })
      else s
    | .rig h m =>
      if h.dst ≠ s.rig.nodeId || decide (s.ownerOf m ≠ some f.toNat) then s
      else
        match s.acceptFlit h clsRS 1 with
        | none => s.discard h.link.toNat
        | some t => creditTo f.toNat m.ch.toNat t
    | .tree h tree m =>
      let l := h.link.toNat
      match s.acceptFlit h clsRS 1 with
      | none => s.discard h.link.toNat
      | some t =>
        match t.rig.treeMsgs.findIdx? fun e => decide (e.tree = tree.toNat) && decide (e.fold = m.dfold.toNat) &&
            decide (e.ch = m.ch.toNat) && (peek Tree.init t.rig.trees e.tree).children.getLsbD l && !bitOf e.back l with
        | some i =>
          treeCredit i { t with rig := { t.rig with
            treeMsgs := t.rig.treeMsgs.modify i fun e => { e with back := setBit e.back l true } } }
        | none => t
    | .landed _ | .refused _ _ _ => s)

/-- A revocation reaches channel `c` of fold `f` (R295). -/
def revokeTo (f c : Nat) (s : State) : State :=
  s.onFold f fun x => x.setChan c { x.chan c with credits := 0, closed := true }

/-- QUEUE_REVOCATION (R295, R296). -/
def execQueueRevocation (f : FoldId) (src : NetFrom) (s : State) : Res :=
  whileClocked s (match src with
    | .here _ ch =>
      let x := s.fold f.toNat
      if x.qu.revIn.any fun e => decide (e.1 = ch.toNat) then
        revokeTo f.toNat ch.toNat
          (s.setFold f.toNat { x with qu := { x.qu with revIn := takeArrival ch.toNat x.qu.revIn } })
      else s
    | .rig h m =>
      if h.dst ≠ s.rig.nodeId || decide (s.ownerOf m ≠ some f.toNat) then s
      else match s.acceptFlit h clsRS 1 with
        | some t => revokeTo f.toNat m.ch.toNat t
        | none => s.discard h.link.toNat
    | .refused h m binding =>
      if h.dst ≠ s.rig.nodeId || decide (s.ownerOf m ≠ some f.toNat) then s
      else match s.acceptFlit h clsRS 1 with
        | some t => refusedFault f.toNat m.ch.toNat m.slot.toNat binding t
        | none => s.discard h.link.toNat
    | .landed _ | .tree _ _ _ => s)

/-! ### Binding (R285) -/

/-- The channels of this device that name fold `p`, in the order of sending program fold and channel: logical fold, program
fold, channel and entry. -/
def notices (s : State) (j : Job) (p : Nat) : List (Nat × Nat × Nat × CEnt) :=
  (enumFrom 0 j.places).flatMap fun g =>
    ((s.fold g.2).qu.ctab.filter fun e => decide (e.2.ncred ≠ 0) && !e.2.rem && decide (e.2.dfold = p)).map
      fun e => (g.2, g.1, e.1, e.2)

/-- The first notice in order that binds no queue (R285): what bound before it decides. -/
def bindAll (x : Fold) : List (Nat × Nat × Nat × CEnt) → Fold × Option (Nat × Nat × Nat)
  | [] => (x, none)
  | (g, p, c, e) :: t =>
    let q := x.qent e.dq
    if q.lines = 0 || q.lines < e.ncred * (e.slotm1 + 1) || (x.queue e.dq).bound.isSome then (x, some (g, c, q.base))
    else
      let b : Binding := { node := none, fold := p, ch := c, slotm1 := e.slotm1, ncred := e.ncred, tree := none }
      bindAll (x.setQueue e.dq { x.queue e.dq with bound := some b }) t

/-- BINDING_NOTICE: fold `f` checks the notices of every sender together, once every fold has loaded (R285). The fault
names the sending fold and channel. -/
def execBindingNotice (f : FoldId) (s : State) : Res :=
  whileClocked s (match s.job with
    | none => s
    | some j =>
      let x := s.fold f.toNat
      if x.qu.bound || !j.places.contains f.toNat || !(j.places.all fun g => decide ((s.fold g).ex.run = .loaded)) then s
      else
        let (y, bad) := bindAll x (notices s j x.ex.prog)
        let t := s.setFold f.toNat { y with qu := { y.qu with bound := true } }
        match bad with
        | some (g, c, line) => t.raiseFold g 0x1D engQueue 0 0 0 (at_ 47 17 line + at_ 0 4 c)
        | none => t)

/-! ### Waits that do not end (R27, R305-R307) -/

/-- The peer of a wait on queue `q`: on another device or not, and its program fold. -/
def boundPeer (s : State) (x : Fold) (q : Nat) : Option (Bool × Nat) :=
  (x.queue q).bound.map fun b => ((s.abroad b).isSome, b.fold)

/-- Program folds of the job that have not arrived at the step barrier. -/
def notArrived (s : State) (j : Job) : List Nat :=
  ((enumFrom 0 j.places).filter fun g => !(decide ((s.fold g.2).ex.run = .ended) ||
    decide ((s.fold g.2).ex.wait.map (·.on) = some .step))).map (·.1)

/-- HAVE, NEED and the peer of a wait (R307). -/
def waitFields (s : State) (x : Fold) : WaitOn → Nat × Nat × Option (Bool × Nat)
  | .token _ => (0, 1, none)
  | .recv q => (0, 1, boundPeer s x q.toNat)
  | .sel m => (0, 1, match (setBits m.toNat 16).head? with | some q => boundPeer s x q | none => none)
  | .send c => ((x.chan c.toNat).credits, 1, some ((x.cent c.toNat).rem, (x.cent c.toNat).dfold))
  | .pn p n => (x.qu.pennant p.toNat, n.toNat, (peek none x.qu.pnLast p.toNat).map fun g => (false, g))
  | .gpn g n => match s.job with
    | some j => (j.gcopy g.toNat, n.toNat, (peek none j.gLast g.toNat).map fun p => (false, p))
    | none => (0, n.toNat, none)
  | .step => match s.job with
    | some j =>
      let late := notArrived s j
      (j.places.length - late.length, j.places.length, late.head?.map fun p => (false, p))
    | none => (0, 0, none)
  | .arm p => (x.qu.pennant p.toNat, 1, (peek none x.qu.pnLast p.toNat).map fun g => (false, g))
  | .end_ => (x.dr.xfers.length, 0, none)
  | .shPwait p n => (x.qu.pennant p.toNat, n.toNat, (peek none x.qu.pnLast p.toNat).map fun g => (false, g))
  | .shDvapp _ => (32, 31, none)
  | .shTpush => (256, 255, none)

/-- PKIND (R306): the kind of the peer's own wait, 0xF when it does not wait: its tally hold, its stall point's wait, then its
shepherd's (log entry 80). -/
def peerKind (s : State) (p : Nat) : Nat :=
  match s.job.bind fun j => j.place p with
  | some g =>
    let e := (s.fold g).ex
    if e.tally.isSome then 0xC
    else match e.wait, (s.fold g).sh.wait with
      | some w, _ => w.on.kind.1
      | none, some w => w.on.kind.1
      | none, none => 0xF
  | none => 0xF

/-- The wait report (R306). -/
def reportWord (s : State) (kind obj have_ need : Nat) (peer : Option (Bool × Nat)) : Nat :=
  let who := match peer with
    | some (rem, p) => at_ 19 1 1 + at_ 18 1 (b2n rem) + at_ 13 5 p + at_ 9 4 (if rem then 0xF else peerKind s p)
    | none => at_ 9 4 0xF
  at_ 60 4 kind + at_ 44 16 obj + at_ 28 16 have_ + at_ 20 8 need + who

def waitReport (s : State) (x : Fold) (on : WaitOn) : Nat :=
  let k := on.kind
  let v := waitFields s x on
  reportWord s k.1 k.2 v.1 v.2.1 v.2.2

/-- The limit of the no-progress timer; NP_EXP 0 gives 24 (R11, R27, R305). -/
def Job.npLimit (j : Job) : Nat := 2 ^ (if j.hdr.npExp = 0 then 24 else j.hdr.npExp)

/-- The tally hold's timer expires (R182, R305): the held fault and the no-progress fault are raised together, and the lower code
reaches the abort controller as the first (R414). -/
def tallyExpires (f : Nat) (h : TallyHold) (s : State) : State :=
  let t := s.onFold f fun x => { x with ex := { x.ex with tally := none, run := .stopped } }
  raise h.rep <| t.raiseFold f 0x30 engTally h.rep.akind h.rep.addr h.rep.tag (reportWord s 0xC h.unit 0 0 h.peer)

/-- NO_PROGRESS: the timer of a fold's stall point or tally hold, or of its shepherd's wait, reaches its limit
(R27, R75, R305). A tally hold has a timer of its own, and while it lasts the fold's stall point does not expire (log entry 80). -/
def execNoProgress (f : FoldId) (shepherd : Bool) (s : State) : Res :=
  let x := s.fold f.toNat
  whileClocked s (match s.job with
    | none => s
    | some j =>
      if shepherd then
        match x.sh.wait with
        | some w =>
          if w.cycles < j.npLimit then s
          else
            let y := { x with sh := { x.sh with wait := none, run := .halted } }
            (s.setFold f.toNat y).raiseFold f.toNat 0x30 engShepherd 4 x.sh.pc 0 (waitReport s x w.on)
        | none => s
      else
        match x.ex.tally with
        | some h => if h.cycles < j.npLimit then s else tallyExpires f.toNat h s
        | none =>
          match x.ex.wait with
          | some w =>
            if w.cycles < j.npLimit then s
            else
              let y := { x with ex := { x.ex with run := .stopped, wait := none } }
              (s.setFold f.toNat y).raiseFold f.toNat 0x30 engExec 1 x.ex.lastBundle x.ex.lastTag (waitReport s x w.on)
          | none => s)

end Sys2Proof.Machine
end

