-- ==== Sys2Proof/Machine/Shepherd.lean ====
section
/-! DEFINITION. The shepherd (R71-R77) with its drover list (R229) and task list (R276-R280). -/
namespace Sys2Proof.Machine

/-! ### Registers, flow and faults -/

/-- A register; s0 reads as zero (R71). -/
def Shepherd.get (x : Shepherd) (r : BitVec 5) : Word := if r = 0 then 0 else peek 0 x.reg r.toNat

/-- Writes a register; a write of s0 is ignored (R71). -/
def Shepherd.set (x : Shepherd) (r : BitVec 5) (v : Word) : Shepherd :=
  if r = 0 then x else { x with reg := put 0 x.reg r.toNat v }

/-- Words of instruction memory (R71). -/
def imemWords : Nat := 16384

/-- Bytes of data memory (R71). -/
def dmemBytes : Nat := 65536

/-- The next instruction in sequence. -/
def Shepherd.onward (x : Shepherd) : Shepherd := { x with pc := (x.pc + 1) % imemWords, run := .running, wait := none }

/-- Shepherd `f` reaches its next instruction, which waits for `on` if it already waits (R72, R75, R77, R377, R518). -/
def shOpen (s : State) (f : Nat) (on : Option WaitOn) : Bool :=
  let x := s.fold f
  let phase := match s.job with | some j => decide (j.phase = .running) | none => false
  let load := match x.sh.acc with | some a => !a.store | none => false
  phase && !load && !(x.db.all && x.db.busy) &&
    (match x.sh.run with
     | .halted => false
     | .running => true
     | .waiting => decide (x.sh.wait.map (·.on) = on))

/-- A fault of the shepherd's present instruction; it goes no further (log entry 19). -/
def shStop (f code detail : Nat) (s : State) : State :=
  let t := s.onFold f fun x => { x with sh := { x.sh with run := .halted, wait := none } }
  t.raiseFold f code engShepherd 4 (s.fold f).sh.pc 0 detail

/-- A shepherd fault (R76): of an instruction that breaks several of its rules, the one that the meaning tests first (log entry
82). -/
def shFault (f cause : Nat) (s : State) : State := shStop f 0x1E cause s

/-- The word at word address `w` of a memory of the shepherd holds a double-bit error (R190, R418). -/
def shMemFault (f w : Nat) (s : State) : State := shStop f 0x54 (at_ 63 1 1 + at_ 0 16 w) s

/-- Words with a single-bit error among `ws` of one memory's marks are corrected and counted (R418, log entry 108). -/
def shCorrect (f : Nat) (err : Shepherd → List (Nat × Nat)) (fix : Shepherd → List (Nat × Nat) → Shepherd) (ws : List Nat) (s : State) :
    State :=
  let x := s.fold f
  let hit := ws.filter fun w => decide (peek 0 (err x.sh) w = 1)
  if hit.isEmpty then s
  else logStick x.sp.eccCount hit.length (s.setFold f { x with
    sp := { x.sp with eccCount := ctrAdd x.sp.eccCount hit.length }
    sh := fix x.sh (hit.foldl (fun m w => put 0 m w 0) (err x.sh)) })

/-- The shepherd reads its instruction word. -/
def shFetch (f : Nat) (s : State) : State :=
  shCorrect f Shepherd.ierr (fun x m => { x with ierr := m }) [(s.fold f).sh.pc] s

/-- The word of instruction memory at the shepherd's code address. -/
def Shepherd.word (x : Shepherd) : Word := peek 0 x.imem x.pc

/-- The shepherd executes instruction `i` by `act`, if its instruction word holds it (log entry 5). -/
def shExec (s : State) (f : FoldId) (i : Instr) (on : Option WaitOn) (act : State → State) : State :=
  if shOpen s f.toNat on then
    let x := (s.fold f.toNat).sh
    if peek 0 x.ierr x.pc = 2 then shMemFault f.toNat x.pc s
    else if inWord i x.word then act (shFetch f.toNat s) else s
  else s

/-- An instruction changes registers and memories of its shepherd only, and the next one follows. -/
def shDo (f : FoldId) (g : Shepherd → Shepherd) (s : State) : State :=
  s.onFold f.toNat fun x => { x with sh := (g x.sh).onward }

/-- Runs an instruction that writes DS. -/
def shAlu (s : State) (f : FoldId) (i : Instr) (ds : BitVec 5) (v : Shepherd → Word) : State :=
  shExec s f i none (shDo f fun x => x.set ds (v x))

/-- A signed 15-bit immediate as a word (R73). -/
def immWord (imm : BitVec 15) : Word := imm.signExtend 32

/-- A shift amount: the low 5 bits (R73). -/
def shiftBy (v : Word) : Nat := v.toNat % 32

/-- A truth value in a register. -/
def flagWord (b : Bool) : Word := if b then 1 else 0

/-- Goes to a code address in words, or faults beyond SH_CODE_WORDS (R76). -/
def shGoto (f : Nat) (target : Int) (g : Shepherd → Shepherd) (s : State) : State :=
  if target < 0 ∨ ((s.fold f).sh.codeWords : Int) ≤ target then shFault f 4 s
  else s.onFold f fun x => { x with sh := { (g x.sh).onward with pc := target.toNat } }

/-- A conditional branch: OFF counts words from the branch's own address (R73, log entry 14). -/
def shBranch (s : State) (f : FoldId) (i : Instr) (off : BitVec 15) (taken : Shepherd → Bool) : State :=
  shExec s f i none fun s =>
    let x := (s.fold f.toNat).sh
    if taken x then shGoto f.toNat ((x.pc : Int) + off.toInt) id s else shDo f id s

/-! ### Arithmetic, logic, multiply, compare -/

def execShAdd (f : FoldId) (ds sa sb : BitVec 5) (s : State) : Res := whileClocked s (shAlu s f (.shAdd f ds sa sb) ds fun x => x.get sa + x.get sb)
def execShSub (f : FoldId) (ds sa sb : BitVec 5) (s : State) : Res := whileClocked s (shAlu s f (.shSub f ds sa sb) ds fun x => x.get sa - x.get sb)
def execShAnd (f : FoldId) (ds sa sb : BitVec 5) (s : State) : Res := whileClocked s (shAlu s f (.shAnd f ds sa sb) ds fun x => x.get sa &&& x.get sb)
def execShOr (f : FoldId) (ds sa sb : BitVec 5) (s : State) : Res := whileClocked s (shAlu s f (.shOr f ds sa sb) ds fun x => x.get sa ||| x.get sb)
def execShXor (f : FoldId) (ds sa sb : BitVec 5) (s : State) : Res := whileClocked s (shAlu s f (.shXor f ds sa sb) ds fun x => x.get sa ^^^ x.get sb)
def execShSll (f : FoldId) (ds sa sb : BitVec 5) (s : State) : Res :=
  whileClocked s (shAlu s f (.shSll f ds sa sb) ds fun x => x.get sa <<< shiftBy (x.get sb))
def execShSrl (f : FoldId) (ds sa sb : BitVec 5) (s : State) : Res :=
  whileClocked s (shAlu s f (.shSrl f ds sa sb) ds fun x => x.get sa >>> shiftBy (x.get sb))
def execShSra (f : FoldId) (ds sa sb : BitVec 5) (s : State) : Res :=
  whileClocked s (shAlu s f (.shSra f ds sa sb) ds fun x => (x.get sa).sshiftRight (shiftBy (x.get sb)))
def execShAddi (f : FoldId) (ds sa : BitVec 5) (imm : BitVec 15) (s : State) : Res :=
  whileClocked s (shAlu s f (.shAddi f ds sa imm) ds fun x => x.get sa + immWord imm)
def execShAndi (f : FoldId) (ds sa : BitVec 5) (imm : BitVec 15) (s : State) : Res :=
  whileClocked s (shAlu s f (.shAndi f ds sa imm) ds fun x => x.get sa &&& immWord imm)
def execShOri (f : FoldId) (ds sa : BitVec 5) (imm : BitVec 15) (s : State) : Res :=
  whileClocked s (shAlu s f (.shOri f ds sa imm) ds fun x => x.get sa ||| immWord imm)

/-- sh.lui: IMM in the upper 20 bits (log entry 13). -/
def execShLui (f : FoldId) (ds : BitVec 5) (imm : BitVec 20) (s : State) : Res :=
  whileClocked s (shAlu s f (.shLui f ds imm) ds fun _ => imm ++ (0 : BitVec 12))

/-- sh.mul: the low 32 bits of the product (R73). -/
def execShMul (f : FoldId) (ds sa sb : BitVec 5) (s : State) : Res := whileClocked s (shAlu s f (.shMul f ds sa sb) ds fun x => x.get sa * x.get sb)

/-- High 32 bits of the signed and of the unsigned product. -/
def highSigned (a b : Word) : Word := BitVec.ofInt 32 (a.toInt * b.toInt / (2 ^ 32 : Nat))
def highUnsigned (a b : Word) : Word := BitVec.ofNat 32 (a.toNat * b.toNat / 2 ^ 32)

/-- sh.mulh: the high 32 bits of the product; R73 does not say whether the operands are signed, so where the two readings
differ the result is a free value, the same for the same operands (R37, log entry 15). -/
def execShMulh (f : FoldId) (ds sa sb : BitVec 5) (s : State) : Res :=
  whileClocked s (shAlu s f (.shMulh f ds sa sb) ds fun x =>
    let a := x.get sa
    let b := x.get sb
    if highSigned a b = highUnsigned a b then highSigned a b else Config.shMulh a b)

def execShSlt (f : FoldId) (ds sa sb : BitVec 5) (s : State) : Res :=
  whileClocked s (shAlu s f (.shSlt f ds sa sb) ds fun x => flagWord ((x.get sa).slt (x.get sb)))
def execShSltu (f : FoldId) (ds sa sb : BitVec 5) (s : State) : Res :=
  whileClocked s (shAlu s f (.shSltu f ds sa sb) ds fun x => flagWord ((x.get sa).ult (x.get sb)))
def execShSlti (f : FoldId) (ds sa : BitVec 5) (imm : BitVec 15) (s : State) : Res :=
  whileClocked s (shAlu s f (.shSlti f ds sa imm) ds fun x => flagWord ((x.get sa).slt (immWord imm)))

/-! ### Branches and jumps -/

def execShBeq (f : FoldId) (sa sb : BitVec 5) (off : BitVec 15) (s : State) : Res :=
  whileClocked s (shBranch s f (.shBeq f sa sb off) off fun x => decide (x.get sa = x.get sb))
def execShBne (f : FoldId) (sa sb : BitVec 5) (off : BitVec 15) (s : State) : Res :=
  whileClocked s (shBranch s f (.shBne f sa sb off) off fun x => decide (x.get sa ≠ x.get sb))
def execShBlt (f : FoldId) (sa sb : BitVec 5) (off : BitVec 15) (s : State) : Res :=
  whileClocked s (shBranch s f (.shBlt f sa sb off) off fun x => (x.get sa).slt (x.get sb))
def execShBge (f : FoldId) (sa sb : BitVec 5) (off : BitVec 15) (s : State) : Res :=
  whileClocked s (shBranch s f (.shBge f sa sb off) off fun x => !(x.get sa).slt (x.get sb))
def execShBltu (f : FoldId) (sa sb : BitVec 5) (off : BitVec 15) (s : State) : Res :=
  whileClocked s (shBranch s f (.shBltu f sa sb off) off fun x => (x.get sa).ult (x.get sb))
def execShBgeu (f : FoldId) (sa sb : BitVec 5) (off : BitVec 15) (s : State) : Res :=
  whileClocked s (shBranch s f (.shBgeu f sa sb off) off fun x => !(x.get sa).ult (x.get sb))

/-- sh.jal: DS receives the address of the following instruction, and IMM is the target (log entry 14). -/
def execShJal (f : FoldId) (ds : BitVec 5) (imm : BitVec 20) (s : State) : Res :=
  whileClocked s (shExec s f (.shJal f ds imm) none
    (shGoto f.toNat imm.toNat fun x => x.set ds (BitVec.ofNat 32 ((x.pc + 1) % imemWords))))

/-- sh.jr: SA holds the target. -/
def execShJr (f : FoldId) (sa : BitVec 5) (s : State) : Res :=
  whileClocked s (shExec s f (.shJr f sa) none fun s => shGoto f.toNat ((s.fold f.toNat).sh.get sa).toNat id s)

/-! ### Data memory -/

/-- The byte address SA + IMM. -/
def Shepherd.addrOf (x : Shepherd) (sa : BitVec 5) (imm : BitVec 15) : Nat := (x.get sa + immWord imm).toNat

/-- The cause of R76 of an access of `n` bytes at `a` to a memory of `size` bytes. -/
def accessBad (a n size : Nat) : Option Nat := if a % n ≠ 0 then some 2 else if size < a + n then some 3 else none

/-- Words of data memory that `n` bytes from `a` touch. -/
def dmemWordsOf (a n : Nat) : List Nat := (List.range ((a + n - 1) / 4 + 1 - a / 4)).map fun i => a / 4 + i

/-- The first word with a double-bit error among those that an access reads (R190, R418). -/
def Shepherd.dataBad (x : Shepherd) (a n : Nat) : Option Nat := (dmemWordsOf a n).find? fun w => decide (peek 0 x.derr w = 2)

/-- The shepherd reads `n` bytes of data memory from `a`. -/
def shData (f a n : Nat) (s : State) : State :=
  shCorrect f Shepherd.derr (fun x m => { x with derr := m }) (dmemWordsOf a n) s

/-- Writes bytes to data memory; the check bits of words written follow. -/
def Shepherd.write (x : Shepherd) (a : Nat) (l : List Byte) : Shepherd :=
  { x with dmem := putRun 0 x.dmem a l
           derr := if x.derr.isEmpty then [] else x.derr.filter fun e => !(dmemWordsOf a l.length).contains e.1 }

/-- A load of `n` bytes from data memory. -/
def shLoad (s : State) (f : FoldId) (i : Instr) (n : Nat) (ds sa : BitVec 5) (imm : BitVec 15) (ext : Nat → Word) : State :=
  shExec s f i none fun s =>
    let x := (s.fold f.toNat).sh
    let a := x.addrOf sa imm
    match accessBad a n dmemBytes, x.dataBad a n with
    | some c, _ => shFault f.toNat c s
    | none, some w => shMemFault f.toNat w s
    | none, none => shDo f (fun x => x.set ds (ext (leNat (peekRun 0 x.dmem a n)))) (shData f.toNat a n s)

/-- A store of the low `n` bytes of SB to data memory at SA + OFF; one of part of a word merges with it. -/
def shStore (s : State) (f : FoldId) (i : Instr) (n : Nat) (sa sb : BitVec 5) (off : BitVec 15) : State :=
  shExec s f i none fun s =>
    let x := (s.fold f.toNat).sh
    let a := x.addrOf sa off
    match accessBad a n dmemBytes, if n < 4 then x.dataBad a n else none with
    | some c, _ => shFault f.toNat c s
    | none, some w => shMemFault f.toNat w s
    | none, none =>
      shDo f (fun x => x.write a (leBytes n (x.get sb).toNat)) (if n < 4 then shData f.toNat a n s else s)

def execShLw (f : FoldId) (ds sa : BitVec 5) (imm : BitVec 15) (s : State) : Res :=
  whileClocked s (shLoad s f (.shLw f ds sa imm) 4 ds sa imm fun v => BitVec.ofNat 32 v)
def execShLh (f : FoldId) (ds sa : BitVec 5) (imm : BitVec 15) (s : State) : Res :=
  whileClocked s (shLoad s f (.shLh f ds sa imm) 2 ds sa imm fun v => BitVec.ofInt 32 (sext 16 v))
def execShLhu (f : FoldId) (ds sa : BitVec 5) (imm : BitVec 15) (s : State) : Res :=
  whileClocked s (shLoad s f (.shLhu f ds sa imm) 2 ds sa imm (BitVec.ofNat 32))
def execShLb (f : FoldId) (ds sa : BitVec 5) (imm : BitVec 15) (s : State) : Res :=
  whileClocked s (shLoad s f (.shLb f ds sa imm) 1 ds sa imm fun v => BitVec.ofInt 32 (sext 8 v))
def execShLbu (f : FoldId) (ds sa : BitVec 5) (imm : BitVec 15) (s : State) : Res :=
  whileClocked s (shLoad s f (.shLbu f ds sa imm) 1 ds sa imm fun v => BitVec.ofNat 32 (v % 2 ^ 8))
def execShSw (f : FoldId) (sa sb : BitVec 5) (off : BitVec 15) (s : State) : Res := whileClocked s (shStore s f (.shSw f sa sb off) 4 sa sb off)
def execShSh (f : FoldId) (sa sb : BitVec 5) (off : BitVec 15) (s : State) : Res := whileClocked s (shStore s f (.shSh f sa sb off) 2 sa sb off)
def execShSb (f : FoldId) (sa sb : BitVec 5) (off : BitVec 15) (s : State) : Res := whileClocked s (shStore s f (.shSb f sa sb off) 1 sa sb off)

/-! ### Scratchpad accesses (R20, R47, R73, R247) -/

/-- Requests a scratchpad access of one word: it is served in a drover-owned cycle of its bank. Only one is pending. -/
def shRequest (s : State) (f : FoldId) (i : Instr) (store : Bool) (ds sa : BitVec 5) (imm : BitVec 15)
    (data : Shepherd → Word) : State :=
  shExec s f i none fun s =>
    let x := (s.fold f.toNat).sh
    let a := x.addrOf sa imm
    if x.acc.isSome then s
    else
      match accessBad a 4 (64 * spLines) with
      | some c => shFault f.toNat c s
      | none => shDo f (fun x => { x with acc := some { store := store, addr := a, data := data x, ds := ds } }) s

def execShLsp (f : FoldId) (ds sa : BitVec 5) (imm : BitVec 15) (s : State) : Res :=
  whileClocked s (shRequest s f (.shLsp f ds sa imm) false ds sa imm fun _ => 0)
def execShSsp (f : FoldId) (sa sb : BitVec 5) (off : BitVec 15) (s : State) : Res :=
  whileClocked s (shRequest s f (.shSsp f sa sb off) true 0 sa off fun x => x.get sb)

/-! ### Arms, pennants, lists -/

/-- sh.arm (R52, R74): the bundle address SA + IMM. -/
def execShArm (f : FoldId) (sa : BitVec 5) (imm : BitVec 15) (s : State) : Res :=
  whileClocked s (shExec s f (.shArm f sa imm) none fun s =>
    (shDo f id s).onFold f.toNat fun x => { x with ex := { x.ex with
      armAddr := BitVec.ofNat 12 (x.sh.addrOf sa imm), armValid := true } })

/-- sh.pinc (R18, R20, R76, R112, R301): not before the shepherd's stores have been written. -/
def execShPinc (f : FoldId) (fold : BitVec 5) (pn : BitVec 6) (inc : BitVec 8) (s : State) : Res :=
  let n := f.toNat
  whileClocked s (shExec s f (.shPinc f fold pn inc) none fun s =>
    let x := s.fold n
    if x.sh.acc.isSome then s
    else if 48 ≤ pn.toNat then shFault n 7 s
    else
      match s.job.bind fun j => j.place fold.toNat with
      | none => shStop n 0x1A (at_ 0 8 fold.toNat) s
      | some g => (shDo f id s).onFold n fun y =>
          (y.grant fold.toNat pn.toNat inc.toNat).sendPn n g pn.toNat inc.toNat engShepherd 4 x.sh.pc 0)

/-- The shepherd begins to wait. -/
def shWait (f : Nat) (on : WaitOn) (s : State) : State :=
  s.onFold f fun x =>
    if x.sh.wait.isSome then x
    else { x with sh := { x.sh with run := .waiting, wait := some (.start on x.ex.cycle false) } }

/-- sh.pwait (R73, R75, R302). -/
def execShPwait (f : FoldId) (pn : BitVec 6) (n : BitVec 8) (s : State) : Res :=
  let on := WaitOn.shPwait pn n
  whileClocked s (shExec s f (.shPwait f pn n) (some on) fun s =>
    let x := s.fold f.toNat
    if 48 ≤ pn.toNat then shFault f.toNat 7 s
    else if n.toNat ≤ x.qu.pennant pn.toNat then
      if x.stallTakes s pn.toNat then s
      else s.onFold f.toNat fun x => let y := x.pnSub pn.toNat n.toNat; { y with sh := y.sh.onward }
    else shWait f.toNat on s)

/-- sh.dvapp (R75, R229): appends the descriptor at SA + IMM of data memory to DL2 or DL3, or waits while the list is full. -/
def execShDvapp (f : FoldId) (ds sa : BitVec 5) (imm : BitVec 15) (s : State) : Res :=
  let n := f.toNat
  let dl := ds.toNat + 2
  let on := WaitOn.shDvapp dl
  whileClocked s (shExec s f (.shDvapp f ds sa imm) (some on) fun s =>
    let x := s.fold n
    let a := x.sh.addrOf sa imm
    match accessBad a 32 dmemBytes, x.sh.dataBad a 32 with
    | some c, _ => shFault n c s
    | none, bad =>
      if 2 ≤ ds.toNat then shFault n 5 s
      else if 32 ≤ (x.dr.list dl).buf.length then shWait n on s
      else
        match bad with
        | some w => shMemFault n w s
        | none =>
          let l := x.dr.list dl
          let d : Desc := { addr := dl * 2 ^ 16 + a, akind := 3, w := BitVec.ofNat 256 (leNat (peekRun 0 x.sh.dmem a 32)) }
          let l := if l.live then { l with buf := l.buf ++ [d] } else l
          (shData n a 32 s).onFold n fun x => { x with dr := x.dr.setList dl l, sh := x.sh.onward })

/-- sh.rstep (R19, R35, R73): a word of the step counter or of step_seed, as IMM selects (log entry 13). -/
def execShRstep (f : FoldId) (ds : BitVec 5) (seed high : Bool) (s : State) : Res :=
  let v := if seed then (match s.job with | some j => stepSeed j.hdr.seed (s.stepOf f.toNat) | none => 0) else s.stepOf f.toNat
  whileClocked s (shAlu s f (.shRstep f ds seed high) ds fun _ => BitVec.ofNat 32 (if high then v / 2 ^ 32 else v))

/-! ### Tasks (R276-R280) -/

/-- sh.tpush (R276, R278): the fields SB and DS must be zero, a task word must be valid, and a full list makes it wait. -/
def execShTpush (f : FoldId) (ds sa sb : BitVec 5) (s : State) : Res :=
  let n := f.toNat
  whileClocked s (shExec s f (.shTpush f ds sa sb) (some .shTpush) fun s =>
    let x := s.fold n
    let w := x.sh.get sa
    if ds ≠ 0 ∨ sb ≠ 0 then shFault n 1 s
    else if !w.getLsbD 31 then shFault n 6 s
    else if 256 ≤ x.dr.tasks.length then shWait n .shTpush s
    else s.setFold n { x with dr := { x.dr with tasks := x.dr.tasks ++ [w] }, sh := x.sh.onward })

/-- The tail of program fold `p`'s task list, when its bit `b` lets another fold take it (R279): the program fold, its place and
the word. -/
def takeable (s : State) (j : Job) (b p : Nat) : Option (Nat × Nat × Word) :=
  match j.place p with
  | some g => match (s.fold g).dr.tasks.getLast? with
    | some w => if w.getLsbD b then some (p, g, w) else none
    | none => none
  | none => none

/-- Program folds that sh.tpop in program fold `f` searches, with the bit that each must have: those of its quad, then those
of the other quads (R279). -/
def searchOrder (f foldCount : Nat) : List (Nat × Nat) :=
  let q := f / 4
  let quads := ceilDiv foldCount 4
  ((List.range 3).map fun i => (30, 4 * q + (f + i + 1) % 4)) ++
    ((List.range (quads - 1)).flatMap fun i => (List.range 4).map fun k => (29, 4 * ((q + i + 1) % quads) + k))

/-- The task that a fold without one of its own takes: the fold that holds it, by program and logical number, and the word. -/
def glean (s : State) (j : Job) (p : Nat) : Option (Nat × Nat × Word) :=
  if j.reefed || !bitOf j.prog.features 6 then none
  else (searchOrder p j.prog.foldCount).findSome? fun e => takeable s j e.1 e.2

/-- sh.tpop (R36, R278, R279): from the list's own head, or gleaned from another fold's tail, or 0. -/
def execShTpop (f : FoldId) (ds sa sb : BitVec 5) (s : State) : Res :=
  let n := f.toNat
  whileClocked s (shExec s f (.shTpop f ds sa sb) none fun s =>
    let x := s.fold n
    let put := fun (w : Word) => shDo f fun y => y.set ds w
    if sb ≠ 0 then shFault n 1 s
    else
      match x.dr.tasks, s.job with
      | w :: t, _ => put w (s.setFold n { x with dr := { x.dr with tasks := t } })
      | [], some j =>
        match glean s j x.ex.prog with
        | some (p, g, w) =>
          let t := s.onFold g fun y => { y with dr := { y.dr with tasks := y.dr.tasks.dropLast } }
          ((put w t).glean).tr n 8 engShepherd 0 p
        | none => put 0 s
      | [], none => s)

/-- sh.halt (R77). -/
def execShHalt (f : FoldId) (s : State) : Res :=
  whileClocked s (shExec s f (.shHalt f) none fun s =>
    s.onFold f.toNat fun x => { x with sh := { x.sh with run := .halted } })

/-- ILLEGAL_INSTRUCTION_ENCODING (R76): the shepherd's instruction word holds no instruction: cause 1. -/
def execIllegalInstructionEncoding (f : FoldId) (s : State) : Res :=
  let x := (s.fold f.toNat).sh
  whileClocked s (if shOpen s f.toNat none then
    if peek 0 x.ierr x.pc = 2 then shMemFault f.toNat x.pc s
    else if shIllegal x.word then shFault f.toNat 1 (shFetch f.toNat s) else s
  else s)

end Sys2Proof.Machine
end

