-- ==== Sys2Proof/Machine/Formats.lean ====
section
/-! DEFINITION. Number formats: floating-point encodings and rounding (R150, R158, R161, R209, R210), the element values of
tile rows (R80-R83, R148-R153) and residues (R165). -/
namespace Sys2Proof.Machine

/-! ### Floating-point encodings -/

/-- A floating-point format: exponent bits, fraction bits, bias, and whether an exponent of all ones is non-finite. -/
structure FpSpec where
  eb   : Nat
  fb   : Nat
  bias : Nat
  ieee : Bool
  deriving DecidableEq, Repr

def fp32 : FpSpec := { eb := 8, fb := 23, bias := 127, ieee := true }
def fpBF16 : FpSpec := { eb := 8, fb := 7, bias := 127, ieee := true }
def fp16 : FpSpec := { eb := 5, fb := 10, bias := 15, ieee := true }
/-- FP8 with 4 exponent bits: only exponent and fraction all ones is NaN (R150). -/
def fp8e4 : FpSpec := { eb := 4, fb := 3, bias := 7, ieee := false }
def fp8e5 : FpSpec := { eb := 5, fb := 2, bias := 15, ieee := true }

/-- Exponent of the smallest normal value. -/
def FpSpec.emin (p : FpSpec) : Int := 1 - (p.bias : Int)

/-- A decoded value: `fin neg m x` stands for ±m × 2^x. -/
inductive FpV where
  | nan
  | inf (neg : Bool)
  | fin (neg : Bool) (m : Nat) (x : Int)
  deriving DecidableEq, Repr

/-- Decodes the bits of a format (R150). -/
def FpSpec.decode (p : FpSpec) (w : Nat) : FpV :=
  let neg := bitOf w (p.eb + p.fb)
  let e := fld w p.fb p.eb
  let f := fld w 0 p.fb
  if p.ieee && e = 2 ^ p.eb - 1 then (if f = 0 then .inf neg else .nan)
  else if !p.ieee && e = 2 ^ p.eb - 1 && f = 2 ^ p.fb - 1 then .nan
  else if e = 0 then .fin neg f (p.emin - p.fb)
  else .fin neg (f + 2 ^ p.fb) ((e : Int) - p.bias - p.fb)

/-- The canonical NaN (R210). -/
def FpSpec.nan (p : FpSpec) : Nat := (2 ^ p.eb - 1) * 2 ^ p.fb + 2 ^ (p.fb - 1)

def FpSpec.inf (p : FpSpec) (neg : Bool) : Nat := b2n neg * 2 ^ (p.eb + p.fb) + (2 ^ p.eb - 1) * 2 ^ p.fb

def FpSpec.zero (p : FpSpec) (neg : Bool) : Nat := b2n neg * 2 ^ (p.eb + p.fb)

/-- n × 2^k rounded to an integer, ties to even (R151). -/
def rneInt (n : Int) (k : Int) : Int :=
  if 0 ≤ k then n * (2 ^ k.toNat : Nat)
  else
    let d : Int := (2 ^ (-k).toNat : Nat)
    let q := n / d
    let r := n % d
    if d < 2 * r || (2 * r = d && q % 2 = 1) then q + 1 else q

/-- n × 2^k rounded to an integer stochastically, with rounding word `u` (R161). -/
def stochInt (n : Int) (k : Int) (u : Nat) : Int :=
  if 0 ≤ k then n * (2 ^ k.toNat : Nat)
  else
    let d : Int := (2 ^ (-k).toNat : Nat)
    let q := n / d
    if (u : Int) < n % d * 2 ^ 32 / d then q + 1 else q

/-- Rounding to nearest even, or stochastic with a rounding word (R139, R161). -/
def roundInt (u : Option Nat) (n k : Int) : Int :=
  match u with
  | none => rneInt n k
  | some u => stochInt n k u

/-- The value n × 2^k rounded to a format; `negZero` is the sign of an exact zero (R158, R161, R209). A result of zero
keeps the sign of the value, as IEEE 754 has it. -/
def FpSpec.round (p : FpSpec) (u : Option Nat) (negZero : Bool) (n k : Int) : Nat :=
  if n = 0 then p.zero negZero
  else
    let e := (Nat.log2 n.natAbs : Int) + k
    let g := max e p.emin - p.fb
    let m := (roundInt u n (k - g)).natAbs
    let neg := decide (n < 0)
    if m < 2 ^ p.fb then p.zero neg + m
    else
      let up := decide (m = 2 ^ (p.fb + 1))
      let m := if up then m / 2 else m
      let e := g + p.fb + (if up then 1 else 0)
      if (p.bias : Int) < e then p.inf neg
      else p.zero neg + (e + p.bias).toNat * 2 ^ p.fb + (m - 2 ^ p.fb)

/-! ### Residues modulo 2^61 - 1 (R165) -/

def resP : Nat := 2 ^ 61 - 1

/-- The residue of an integer. -/
def res (x : Int) : Nat := (x % (resP : Int)).toNat

/-- The residue of r × 2^k, for any integer k. -/
def rot (r : Nat) (k : Int) : Nat := r * 2 ^ (k % 61).toNat % resP

/-- The residue of a mantissa with its exponent. -/
def MX.res (v : MX) : Nat := rot (Machine.res v.m) v.x

def sumRes (l : List Nat) : Nat := sumNat l % resP

/-- What a check slot entry stands for (R166). -/
def slotRes (w : Nat) : Nat := w % 2 ^ 61 % resP

/-! ### Element values (R80-R83, R148-R153) -/

/-- Low nibble first (R80). -/
def nibbles (l : List Byte) : List Nat := l.flatMap fun b => [b.toNat % 16, b.toNat / 16]

/-- Exponent byte of block `k`, two's complement (R81, R149). -/
def expByte (exps : List Byte) (k : Nat) : Int := sext 8 (nth 0 exps k).toNat

/-- Little-endian 16-bit elements. -/
def halves (l : List Byte) : List Nat := (pieces 2 l).map leNat

/-- One block of at most 32 elements converted to mantissas with one exponent; a non-finite element enters as zero, marked
(R151, R152). `w` is the mantissa width W, `p` the significand bits. -/
def convBlock (w p : Nat) (l : List FpV) : List (MX × Bool) :=
  let es := l.filterMap fun v => match v with
    | .fin _ m x => if m = 0 then none else some (x + p - 1)
    | _ => none
  match es with
  | [] => l.map fun v => ({ m := 0, x := 0 }, match v with | .fin _ _ _ => false | _ => true)
  | e :: t =>
    let emax := t.foldl max e
    let x := emax - w + 1
    l.map fun v => match v with
      | .fin neg m ex =>
        let n : Int := if neg then -(m : Int) else m
        ({ m := rneInt n (ex + p - 1 - emax + w - p), x := x }, false)
      | _ => ({ m := 0, x := x }, true)

/-- Elements of a format that converts, in blocks of 32 (R150). -/
def convRow (p : FpSpec) (w : Nat) (ws : List Nat) : List (MX × Bool) :=
  (pieces 32 (ws.map p.decode)).flatMap (convBlock w (p.fb + 1))

/-- The elements of a row of a dense format: mantissa, exponent, and whether it is non-finite (R148-R152). The 16-bit
formats give v with its block exponent; formats outside the product classes give nothing. -/
def elements (fmt : Nat) (bytes exps : List Byte) : List (MX × Bool) :=
  match fmt with
  | 1 => bytes.map fun b => ({ m := sext 8 b.toNat, x := 0 }, false)
  | 2 => (nibbles bytes).map fun n => ({ m := sext 4 n, x := 0 }, false)
  | 3 => (enumFrom 0 bytes).map fun p => ({ m := sext 8 p.2.toNat, x := expByte exps (p.1 / 32) }, false)
  | 4 => (enumFrom 0 (nibbles bytes)).map fun p => ({ m := sext 4 p.2, x := expByte exps (p.1 / 32) }, false)
  | 5 => convRow fp8e4 7 (bytes.map (·.toNat))
  | 6 => convRow fp8e5 7 (bytes.map (·.toNat))
  | 7 => convRow fpBF16 14 (halves bytes)
  | 8 => convRow fp16 14 (halves bytes)
  | _ => []

/-- The 2:4 groups of a row: two values with their positions within the group (R83). -/
def sparseGroups (fmt : Nat) (bytes exps : List Byte) : List (MX × Nat × MX × Nat) :=
  let rb := bytes.length
  let vals := nibbles (bytes.take (2 * rb / 3))
  let pos := bytes.drop (2 * rb / 3)
  let posOf := fun j => (nth 0 pos (j / 4)).toNat / 2 ^ (2 * (j % 4)) % 4
  (enumFrom 0 (pieces 2 vals)).map fun g =>
    let x := if fmt = 0xA then expByte exps (g.1 / 8) else 0
    ({ m := sext 4 (nth 0 g.2 0), x := x }, posOf (2 * g.1), { m := sext 4 (nth 0 g.2 1), x := x }, posOf (2 * g.1 + 1))

/-- The high and the low part of a 16-bit element (R153). -/
def hiPart (v : MX) : MX := { m := v.m / 128, x := v.x + 7 }
def loPart (v : MX) : MX := { m := v.m % 128, x := v.x }

/-! ### Product classes (R119) -/

/-- The class of a streamed format. -/
def streamCls (fmt : Nat) : Option Cls :=
  match fmt with
  | 1 | 3 | 5 | 6 => some .c8
  | 2 | 4 => some .c4
  | 7 | 8 => some .c16
  | _ => none

/-- The class of a stationary format. -/
def statCls (fmt : Nat) : Option Cls := if fmt = 0xA || fmt = 0xB then some .sp else streamCls fmt

/-- Tiles of an operand span. -/
def Cls.span : Cls → Nat
  | .c8 | .c4 => 1
  | .sp | .c16 => 2

/-- Streamed elements that an array row receives in a step (R121, R146). -/
def Cls.width : Cls → Nat
  | .c8 | .c16 => 1
  | .c4 => 2
  | .sp => 4

/-- Check slots that an mm.ldw copies (R167). -/
def Cls.slots : Cls → Nat
  | .c8 | .c16 => 1
  | .c4 => 2
  | .sp => 4

/-- Parts of a split setting (R142). -/
def splParts (spl : Nat) : Nat := match spl with | 0 => 1 | 1 => 2 | _ => 4

/-! ### Rows of operands -/

def Tiles.fmt (x : Tiles) (t : Nat) : Nat := cfgFmt (x.word t)

/-- Row `r` of a span of `n` tiles as elements; the 16-bit formats convert over the span row (R150). -/
def Tiles.elems (x : Tiles) (t n r : Nat) : List (MX × Bool) :=
  let (bytes, exps) := x.spanRow t n r
  let fmt := x.fmt t
  if fmt = 7 || fmt = 8 then elements fmt bytes []
  else (List.zip (pieces (cfgRB (x.word t)) bytes) exps).flatMap fun p => elements fmt p.1 p.2

/-- Row `r` of a span of 2:4 tiles as groups. -/
def Tiles.groups (x : Tiles) (t n r : Nat) : List (MX × Nat × MX × Nat) :=
  let (bytes, exps) := x.spanRow t n r
  (List.zip (pieces (cfgRB (x.word t)) bytes) exps).flatMap fun p => sparseGroups (x.fmt t) p.1 p.2

/-- Pads a list to `n` entries. -/
def padList {α : Type} (d : α) (n : Nat) (l : List α) : List α := (l ++ List.replicate n d).take n

def MX.zero : MX := { m := 0, x := 0 }

/-- What each array row receives of a streamed row in `parts` parts: `width` elements, zero beyond its segment
(R121, R122, R143). -/
def actRows (width parts : Nat) (elems : List MX) : List (List MX) :=
  padList (List.replicate width MX.zero) 128
    ((pieces (elems.length / parts) elems).flatMap fun seg =>
      padList (List.replicate width MX.zero) (128 / parts) (pieces width seg))

/-- Parts whose segment of a streamed row holds a marked element (R152). -/
def markedParts (parts : Nat) (marks : List Bool) : List Bool :=
  padList false parts ((pieces (marks.length / parts) marks).map fun s => s.any id)

end Sys2Proof.Machine
end

