-- ==== Sys2Proof/Machine/Matrix.lean ====
section
/-! DEFINITION. The mm slot: loads, products, drains and zeroing of the matrix arrays (R115-R147, R150-R176), and the
delivery of verdicts. -/
namespace Sys2Proof.Machine

/-! ### Arrays, buffers and banks -/

/-- The mm slot's rank among writes of one cycle (R59). -/
def rankMm : Nat := 0

/-- Arrays named by an ARR field, ascending. -/
def arrays (arr : Nat) : List Nat := setBits arr 4

/-- Key of a weight buffer, a check column or a bank: 2 × array + number. -/
def abKey (a b : Nat) : Nat := 2 * a + b

def Matrix.bank (x : Matrix) (a b : Nat) : BankRec := peek BankRec.init x.banks (abKey a b)
def Matrix.setBank (x : Matrix) (a b : Nat) (r : BankRec) : Matrix :=
  { x with banks := put BankRec.init x.banks (abKey a b) r }
def Matrix.load (x : Matrix) (a b : Nat) : Option LoadRec := peek none x.loads (abKey a b)

/-- The active buffer of an array (R126). -/
def Matrix.activeBuf (x : Matrix) (a : Nat) : Nat := b2n (x.active.getLsbD a)

def Matrix.setActive (x : Matrix) (a b : Nat) : Matrix :=
  { x with active := BitVec.ofNat 4 (setBit x.active.toNat a (b = 1)) }

/-- Accumulator `i` (128 × row + column) of a bank. -/
def Matrix.accOf (x : Matrix) (a b i : Nat) : Int := (peek 0 x.acc (16384 * abKey a b + i)).toInt

/-- The entries of a sparse map with keys from `lo`, `n` of them, counted from `lo`. -/
def cut {α : Type} (lo n : Nat) (m : List (Nat × α)) : List (Nat × α) :=
  (m.filter fun e => decide (lo ≤ e.1) && decide (e.1 < lo + n)).map fun e => (e.1 - lo, e.2)

/-- A sparse map without the `n` keys from `lo`. -/
def clearFrom {α : Type} (lo n : Nat) (m : List (Nat × α)) : List (Nat × α) :=
  m.filter fun e => !(decide (lo ≤ e.1) && decide (e.1 < lo + n))

/-- The weights of a buffer: key 128 × row + column. -/
def Matrix.weights (x : Matrix) (a b : Nat) : List (Nat × List WCell) := cut (16384 * abKey a b) 16384 x.wbuf

/-- The check column that belongs to a buffer: key 128 × n + row. -/
def Matrix.column (x : Matrix) (a b : Nat) : List (Nat × Nat) := cut (512 * abKey a b) 512 x.ccol

/-! ### mm.ldw (R126, R130, R137, R167) -/

/-- The buffers that an mm.ldw of a class writes in an array (R126). -/
def ldwBufs (c : Cls) (x : Matrix) (a : Nat) : List Nat := if c = .c16 then [0, 1] else [1 - x.activeBuf a]

/-- Cycles an mm.ldw of `r` rows occupies the weight port (R128). -/
def ldwPort (c : Cls) (r : Nat) : Nat := if c = .c16 then 2 * r else r

/-- Shape faults of an mm.ldw, lowest rule first (R85, R88, R119, R120, R130, R141, R167, R168). -/
def ldwShape (o : MmLdw) (x : Fold) : Option (Nat × Nat × Nat) :=
  let t := o.wtile.toNat
  let r := o.rows.toNat + 1
  let p := splParts o.spl.toNat
  let cks := o.cks.toNat
  if !x.ti.used t then some (0x11, engMatrix, detailShapeTile 88 t)
  else
    match statCls (x.ti.fmt t) with
    | none => some (0x11, engMatrix, detailShapeTile 119 t)
    | some c =>
      match spanBad x.ti t c.span with
      | some (rule, i) => some (0x11, engMatrix, detailShapeTile rule i)
      | none =>
        if 1 < p && !(c = .c8 || c = .c4) then some (0x11, engMatrix, detailShapeTile 120 t)
        else if !x.mx.cvalid.getLsbD cks then some (0x11, engMatrix, detailShape 130)
        else if cfgRows (x.ti.word t) < o.wrow0.toNat + r || (!o.wt && decide (128 / p < r)) || (c = .sp && !o.wt) then
          some (0x11, engMatrix, detailShapeTile 141 t)
        else if (c = .c4 && cks % 2 ≠ 0) || (c = .sp && cks ≠ 0) then some (0x11, engMatrix, detailShape 167)
        else if (List.range c.slots).any fun n => !x.mx.cvalid.getLsbD (cks + n) then
          some (0x11, engMatrix, detailShape 168)
        else none

/-- Faults of an mm.ldw at issue: shape, then the weight port and the buffers (R127, R128). -/
def ldwBad (o : MmLdw) (x : Fold) : Option (Nat × Nat × Nat) :=
  match ldwShape o x with
  | some b => some b
  | none =>
    if x.ex.isBusy 11 then some (0x13, engMatrix, detailBusy 11 (x.ex.busyAt 11).2 0)
    else
      let c := (statCls (x.ti.fmt o.wtile.toNat)).getD .c8
      (arrays o.arr.toNat).findSome? fun a => (ldwBufs c x.mx a).findSome? fun b =>
        if x.ex.isBusy (16 + abKey a b) then
          some (0x13, engMatrix, detailBusy 14 (x.ex.busyAt (16 + abKey a b)).2 a) else none

/-- The check slots enter the check columns of the buffers that the load writes, and the load is recorded (R130, R141): it counts
as the one that last loaded the buffer from its issue (log entry 81). -/
def loadColumns (o : MmLdw) (c : Cls) (x : Matrix) : Matrix :=
  let rec_ : LoadRec := { cls := c, parts := splParts o.spl.toNat, marks := 0 }
  (arrays o.arr.toNat).foldl (fun x a => (ldwBufs c x a).foldl (fun (y : Matrix) b =>
    let base := 512 * abKey a b
    let old := peek none y.loads (abKey a b)
    let col := (List.range c.slots).foldl (fun m n => putRun 0 m (base + 128 * n)
        ((peekRun 0 y.cslot (128 * (o.cks.toNat + n)) 128).map slotRes)) (clearFrom base 512 y.ccol)
    { y with ccol := col
             loads := put none y.loads (abKey a b) (some { rec_ with marks := (old.map (·.marks)).getD 0 }) }) x) x

/-- mm.ldw: tile row q is read at issue + q, and the weights serve runs from issue + r + 3 (R123, R137). -/
def execMmLdw (f : FoldId) (o : MmLdw) (s : State) : Res :=
  whileClocked s (slotIssue s f.toNat 1 (.mmLdw f o) (fun _ x => ldwBad o x) fun s x =>
    let t := o.wtile.toNat
    let c := (statCls (x.ti.fmt t)).getD .c8
    let bufs := sumNat ((arrays o.arr.toNat).map fun a => (1 - x.mx.activeBuf a) * 2 ^ a)
    let l : LdwRec := { arr := o.arr.toNat, buf := bufs, cls := c, fmt := x.ti.fmt t, tile := t, row0 := o.wrow0.toNat,
                        rows := o.rows.toNat + 1, wt := o.wt, parts := splParts o.spl.toNat }
    let e := x.ex.occupy 11 (ldwPort c l.rows)
    s.setFold f.toNat { x with ex := e.addDue (e.dueAt true rankMm 0 (.ldw l 0 [])), mx := loadColumns o c x.mx })

/-- Parity of row `r` of a span of tiles (R93). -/
def touchSpan (f : Nat) (d : Due) (t n r : Nat) (s : State) : State :=
  (List.range n).foldl (fun u i => touchRow f d.baddr d.tag (t + i) r u) s

/-- Row `q` of an mm.ldw is read: mantissas, positions of a 2:4 row, and marks. -/
def ldwRow (x : Tiles) (l : LdwRec) (r : Nat) : List MX × List Nat × List Bool :=
  if l.cls = .sp then
    let g := x.groups l.tile l.cls.span r
    (g.flatMap fun e => [e.1, e.2.2.1], g.flatMap fun e => [e.2.1, e.2.2.2], [])
  else
    let e := x.elems l.tile l.cls.span r
    (e.map (·.1), [], e.map (·.2))

/-- The cells that stationary row `q` fills: key 128 × row + column (R121, R143, R146). `part` picks the part of a 16-bit
element (R153). -/
def ldwCells (l : LdwRec) (q : Nat) (row : List MX × List Nat × List Bool) (part : MX → MX) : List (Nat × List WCell) :=
  let c := 128 / l.parts
  if l.cls = .sp then
    (enumFrom 0 (pieces 2 (List.zip row.1 row.2.1))).map fun g =>
      (128 * g.1 + q, g.2.map fun w => { m := w.1.m, x := w.1.x, pos := w.2 })
  else
    let ms := row.1.map part
    let segs := pieces (ms.length / l.parts) ms
    let cells := fun (seg : List MX) => (enumFrom 0 (pieces l.cls.width seg)).map fun g =>
      (g.1, (enumFrom 0 g.2).map fun w => ({ m := w.2.m, x := w.2.x, pos := w.1 } : WCell))
    if l.wt then
      let p := q / c
      (cells (segs.headD [])).map fun g => (128 * (c * p + g.1) + q, g.2)
    else
      (enumFrom 0 segs).flatMap fun sg => (cells sg.2).map fun g => (128 * (c * sg.1 + q) + c * sg.1 + g.1, g.2)

/-- Parts whose cells receive a marked element of stationary row `q`, as a mask (R152). -/
def ldwMarks (l : LdwRec) (q : Nat) (marks : List Bool) : Nat :=
  let ps := markedParts l.parts marks
  if l.wt then (if nth false ps 0 then 2 ^ (q / (128 / l.parts)) else 0)
  else sumNat ((enumFrom 0 ps).map fun p => if p.2 then 2 ^ p.1 else 0)

/-- A cell that contributes nothing is stored as an empty one. -/
def trimCell (w : List WCell) : List WCell := if w.all fun c => decide (c.m = 0) then [] else w

/-- Fills a buffer with the cells of rows read; what they do not fill is zero (R122). -/
def fillBuf (l : LdwRec) (a b : Nat) (part : MX → MX) (rows : List (List MX × List Nat × List Bool)) (x : Matrix) : Matrix :=
  let base := 16384 * abKey a b
  let w := (enumFrom 0 rows).foldl (fun m q => (ldwCells l q.1 q.2 part).foldl (fun m e =>
    put [] m (base + e.1) (trimCell e.2)) m) (clearFrom base 16384 x.wbuf)
  let marks := (enumFrom 0 rows).foldl (fun m q => m ||| ldwMarks l q.1 q.2.2.2) 0
  { x with wbuf := w
           loads := put none x.loads (abKey a b)
             ((peek none x.loads (abKey a b)).map fun r => { r with marks := marks }) }

/-- Stationary row `q` of an mm.ldw is read; the 16-bit class reads its rows twice (R123). -/
def landLdw (f : Nat) (d : Due) (l : LdwRec) (q : Nat) (got : List (List MX × List Nat × List Bool)) (s : State) : State :=
  let n := ldwPort l.cls l.rows
  let r := l.row0 + q % l.rows
  let s := readPort f 4 l.tile l.cls.span r (touchSpan f d l.tile l.cls.span r s)
  let got := got ++ [ldwRow (s.fold f).ti l r]
  later f (if q + 1 < n then [d.after 1 true (.ldw l (q + 1) got)] else [d.after 4 false (.ldwDone l got)]) s

/-- The loaded weights serve runs from now on (R123, R124, R126). -/
def landLdwDone (f : Nat) (l : LdwRec) (got : List (List MX × List Nat × List Bool)) (s : State) : State :=
  s.onFold f fun x => { x with mx := (arrays l.arr).foldl (fun m a =>
    if l.cls = .c16 then
      fillBuf l a 1 loPart (got.drop l.rows) (fillBuf l a 0 hiPart (got.take l.rows) m)
    else fillBuf l a (b2n (bitOf l.buf a)) id got m) x.mx }

/-! ### mm.run (R117, R118, R120-R128, R131, R138) -/

/-- The buffers a weight- or input-stationary run uses in an array (R126). -/
def runBufs (c : Cls) (swap : Bool) (x : Matrix) (a : Nat) : List Nat :=
  if c = .c16 then [0, 1] else [if swap then 1 - x.activeBuf a else x.activeBuf a]

/-- Loads of the buffers that a run uses. -/
def runLoads (c : Cls) (o : MmRun) (x : Matrix) : List LoadRec :=
  (arrays o.arr.toNat).flatMap fun a => (runBufs c o.swap x a).filterMap fun b => x.load a b

/-- The class of a weight- or input-stationary run: 2:4 sparse when 4-bit rows meet a buffer loaded so (R119). -/
def runCls (c : Cls) (o : MmRun) (x : Matrix) : Cls :=
  if c = .c4 && (runLoads c o x).any fun l => decide (l.cls = .sp) then .sp else c

/-- First tile of the span of the `n`-th named array (R116). -/
def spanAt (t n size : Nat) : Nat := t + n * size

/-- The first shape rule that the spans of the named arrays break, with the tile: alignment and use (R85, R88), the format
(R119, R120). -/
def spansBad (x : Tiles) (t size count : Nat) : Option (Nat × Nat) :=
  (List.range count).findSome? fun n =>
    let a := spanAt t n size
    if 16 ≤ a then none else spanBad x a size

/-- Faults of shape that concern banks: recorded scale and split (R131), check type (R175). -/
def bankBad (os : Bool) (o : MmRun) (x : Matrix) : Option Nat :=
  let bs := ((arrays o.arr.toNat).map fun a => x.bank a (b2n o.bank)).filter fun b => !b.empty
  if bs.any fun b => decide (b.scale ≠ o.scale.toInt) || decide (b.parts ≠ splParts o.spl.toNat) then some 131
  else if bs.any fun b => b.os != os then some 175
  else none

/-- Candidates of broken shape rules: the lowest rule is reported (R532). -/
def lowestRule : List (Bool × Nat × Option Nat) → Option (Nat × Option Nat)
  | [] => none
  | (b, r, t) :: l =>
    match b, lowestRule l with
    | true, some (q, u) => if r ≤ q then some (r, t) else some (q, u)
    | true, none => some (r, t)
    | false, o => o

def ruleDetail (r : Nat) : Option Nat → Nat
  | some t => detailShapeTile r t
  | none => detailShape r

/-- Shape faults of mm.run.ws and mm.run.is (R84, R85, R88, R119, R120, R131, R141, R175). A format that no class reads breaks R119 in the
first array's tile and R120 in another array's (log entry 64). -/
def runShape (is : Bool) (o : MmRun) (x : Fold) : Option (Nat × Nat × Nat) :=
  let t := o.tile.toNat
  let n := (arrays o.arr.toNat).length
  if !x.ti.used t then some (0x11, engMatrix, detailShapeTile 88 t)
  else
    match streamCls (x.ti.fmt t) with
    | none => some (0x11, engMatrix, detailShapeTile 119 t)
    | some c0 =>
      let c := runCls c0 o x.mx
      let loads := runLoads c0 o x.mx
      let sp := spansBad x.ti t c.span n
      let tiles := ((List.range n).map fun i => spanAt t i c.span).filter fun a => decide (a < 16)
      let bank := bankBad false o x.mx
      (lowestRule [
        (sp.isSome, (sp.map (·.1)).getD 0, sp.map (·.2)),
        (tiles.any fun a => decide (streamCls (x.ti.fmt a) ≠ some c0), 120, some t),
        (loads.any fun l => decide (l.cls ≠ c), 120, none),
        (is && decide (c = .sp), 120, none),
        (decide (1 < splParts o.spl.toNat) && !(c = .c8 || c = .c4), 120, none),
        (bank.isSome, bank.getD 0, none),
        (decide (16 < t + n * c.span) || (tiles.any fun a => decide (cfgRows (x.ti.word a) < o.row0.toNat + o.rows.toNat + 1)),
          141, some t),
        (loads.any fun l => decide (l.parts ≠ splParts o.spl.toNat), 141, none),
        (decide (c = .c16) && o.swap, 141, none)]).map fun r => (0x11, engMatrix, ruleDetail r.1 r.2)

/-- Shape faults of mm.run.os. -/
def runOsShape (o : MmRun) (x : Fold) : Option (Nat × Nat × Nat) :=
  let t := o.tile.toNat
  let w := o.wtile.toNat
  let n := (arrays o.arr.toNat).length
  let m := o.rows.toNat + 1
  if !x.ti.used t then some (0x11, engMatrix, detailShapeTile 88 t)
  else if !x.ti.used w then some (0x11, engMatrix, detailShapeTile 88 w)
  else
    match streamCls (x.ti.fmt t) with
    | none => some (0x11, engMatrix, detailShapeTile 119 t)
    | some c =>
      let sp := spansBad x.ti t 1 n
      let tiles := ((List.range n).map fun i => t + i).filter fun a => decide (a < 16)
      let bank := bankBad true o x.mx
      (lowestRule [
        (sp.isSome, (sp.map (·.1)).getD 0, sp.map (·.2)),
        ((statCls (x.ti.fmt w)).isNone, 119, some w),
        (!(c = .c8 || c = .c4), 120, some t),
        (tiles.any fun a => decide (streamCls (x.ti.fmt a) ≠ some c), 120, some t),
        (decide (streamCls (x.ti.fmt w) ≠ some c), 120, some w),
        (bank.isSome, bank.getD 0, none),
        (decide (16 < t + n) || (tiles.any fun a => decide (cfgRows (x.ti.word a) < o.row0.toNat + m)), 141, some t),
        (decide (cfgRows (x.ti.word w) < o.wrow0.toNat + m), 141, some w)]).map
          fun r => (0x11, engMatrix, ruleDetail r.1 r.2)

/-- Steps of a run of `m` rows (R70). -/
def runSteps (c : Cls) (m : Nat) : Nat := if c = .c16 then 4 * m else m

/-- Slot and feeder faults of a run (R67, R118, R125, R128). Of several units that are busy at once the fault of a run names the lowest
array, before the weight port, and that of a load the weight port before the buffer (log entry 20). -/
def runSlot (os : Bool) (c : Cls) (o : MmRun) (x : Fold) : Option (Nat × Nat × Nat) :=
  match (arrays o.arr.toNat).find? x.ex.isBusy with
  | some a => some (0x13, engMatrix, detailBusy a (x.ex.busyAt a).2 a)
  | none =>
    if os && x.ex.isBusy 11 then some (0x13, engMatrix, detailBusy 11 (x.ex.busyAt 11).2 0)
    else if c = .c16 && decide (32 < o.rows.toNat + 1) then some (0x16, engMatrix, at_ 60 4 o.arr.toNat)
    else none

def runBad (is : Bool) (o : MmRun) (x : Fold) : Option (Nat × Nat × Nat) :=
  match runShape is o x with
  | some b => some b
  | none => runSlot false (runCls ((streamCls (x.ti.fmt o.tile.toNat)).getD .c8) o x.mx) o x

def runOsBad (o : MmRun) (x : Fold) : Option (Nat × Nat × Nat) :=
  match runOsShape o x with
  | some b => some b
  | none => runSlot true .c8 o x

/-- A product makes an array active from issue to its last accumulator write (R62). -/
def Exec.activate (x : Exec) (a last : Nat) : Exec :=
  { x with active := (x.active.filter fun e => decide (e.1 ≠ a)) ++
      [(a, (x.active.filter fun e => decide (e.1 = a)).foldl (fun m e => max m e.2) last)] }

/-- Occupies a unit until at least cycle `end_` (a bank may serve several instructions at once). -/
def Exec.holdTo (x : Exec) (unit end_ : Nat) : Exec :=
  if (x.busyAt unit).1 < end_ then { x with busy := put (0, 0) x.busy unit (end_, x.lastBundle) } else x

/-- A run takes an array: its run side, its buffers, the bank's writes, its activity, and the bank's record
(R62, R67, R126, R127, R131, R134). -/
def takeArray (os : Bool) (c : Cls) (o : MmRun) (a : Nat) (x : Fold) : Fold :=
  let m := o.rows.toNat + 1
  let n := runSteps c m
  let p := splParts o.spl.toNat
  let last := x.ex.cycle + 259 + n + 128 / p
  let b := b2n o.bank
  let e := (x.ex.occupy a n).activate a last
  let e := e.holdTo (64 + abKey a b) (last + 1)
  let bufs := if os then [] else runBufs c o.swap x.mx a
  let e := bufs.foldl (fun e i =>
    e.holdTo (16 + abKey a i) (x.ex.cycle + (if c = .c16 then (if i = 0 then 2 * m else 4 * m) else m))) e
  let r := x.mx.bank a b
  let mx := if r.empty then x.mx.setBank a b { scale := o.scale.toInt, parts := p, empty := false, os := os } else x.mx
  let mx := if os then mx else mx.setActive a (if c = .c16 then 0 else bufs.headD 0)
  { x with ex := e, mx := mx }

/-- What a run over array `a`, the `n`-th it names, fixes at issue. -/
def runRec (os : Bool) (c : Cls) (o : MmRun) (x : Matrix) (n a : Nat) : RunRec :=
  let bufs := if os then [] else runBufs c o.swap x a
  let b := bufs.headD 0
  { os := os, cls := c, arr := a, bank := b2n o.bank, tile := spanAt o.tile.toNat n c.span, row0 := o.row0.toNat,
    steps := o.rows.toNat + 1, scale := o.scale.toInt, parts := splParts o.spl.toNat, wtile := o.wtile.toNat,
    wrow0 := o.wrow0.toNat, lead := decide (n = 0),
    w := if os then [] else x.weights a b
    wlow := if c = .c16 then x.weights a 1 else []
    ccol := if os then [] else x.column a b
    marks := bufs.foldl (fun m i => m ||| ((x.load a i).map (·.marks)).getD 0) 0 }

/-- Issues a run: each named array starts its own product. -/
def issueRun (f : Nat) (os : Bool) (c : Cls) (o : MmRun) (s : State) (x : Fold) : State :=
  let recs := (enumFrom 0 (arrays o.arr.toNat)).map fun p => runRec os c o x.mx p.1 p.2
  let y := (arrays o.arr.toNat).foldl (fun y a => takeArray os c o a y) x
  let e := if os then y.ex.occupy 11 (o.rows.toNat + 1) else y.ex
  let e := recs.foldl (fun (e : Exec) r => e.addDue (e.dueAt true rankMm 0 (.run r 0))) e
  powerCheck f (s.setFold f { y with ex := e })

/-- mm.run.ws (R117, R138). -/
def execMmRunWs (f : FoldId) (o : MmRun) (s : State) : Res :=
  whileClocked s (slotIssue s f.toNat 1 (.mmRunWs f o) (fun _ x => runBad false o x) fun s x =>
    issueRun f.toNat false (runCls ((streamCls (x.ti.fmt o.tile.toNat)).getD .c8) o x.mx) o s x)

/-- mm.run.is (R117, R138). -/
def execMmRunIs (f : FoldId) (o : MmRun) (s : State) : Res :=
  whileClocked s (slotIssue s f.toNat 1 (.mmRunIs f o) (fun _ x => runBad true o x) fun s x =>
    issueRun f.toNat false (runCls ((streamCls (x.ti.fmt o.tile.toNat)).getD .c8) o x.mx) o s x)

/-- mm.run.os (R117, R118, R138). -/
def execMmRunOs (f : FoldId) (o : MmRun) (s : State) : Res :=
  whileClocked s (slotIssue s f.toNat 1 (.mmRunOs f o) (fun _ x => runOsBad o x) fun s x =>
    issueRun f.toNat true ((streamCls (x.ti.fmt o.tile.toNat)).getD .c8) o s x)

/-! ### Steps of a product (R154, R170, R174) -/

/-- One product on the grid 2^s: its contribution, and whether it was cut (R154). -/
def contribution (a w : MX) (s : Int) : Int × Bool :=
  let q := a.m * w.m
  let d := a.x + w.x - s
  if 0 ≤ d then (q * (2 ^ d.toNat : Nat), false)
  else
    let k : Int := (2 ^ (-d).toNat : Nat)
    let c := q / k
    (c, decide (c * k ≠ q))

/-- The products of a cell with what its row receives: summed contributions and how many were cut. A value that was loaded under another
class multiplies the operand at its own place, and zero where the run's class has none (log entry 81). -/
def cellSum (act : List MX) (ws : List WCell) (s : Int) : Int × Nat :=
  ws.foldl (fun r w =>
    let c := contribution (nth MX.zero act w.pos) { m := w.m, x := w.x } s
    (r.1 + c.1, r.2 + b2n c.2)) (0, 0)

/-- Sums by column, and cut contributions by part, of the cells of a buffer for the rows' operands; cells outside every part
contribute zero (R142). -/
def columnSums (parts : Nat) (acts : Array (List MX)) (w : List (Nat × List WCell)) (s : Int) : Array Int × Array Nat :=
  w.foldl (fun r e =>
    let k := e.1 / 128
    if k / (128 / parts) ≠ e.1 % 128 / (128 / parts) then r else
    let c := cellSum (acts.getD k []) e.2 s
    (r.1.modify (e.1 % 128) (· + c.1), r.2.modify (k / (128 / parts)) (· + c.2)))
    (Array.replicate 128 0, Array.replicate parts 0)

/-- The residue column term of a part for a step (R170). -/
def columnTerm (parts p : Nat) (acts : List (List MX)) (col : List (Nat × Nat)) (s : Int) : Nat :=
  let c := 128 / parts
  (enumFrom 0 acts).foldl (fun t k =>
    if k.1 / c = p then
      (enumFrom 0 k.2).foldl (fun t v =>
        (t + rot (res v.2.m) (v.2.x - s) * peek 0 col (128 * v.1 + k.1)) % resP) t
    else t) 0

/-- Step σ of a weight- or input-stationary run, from what the array rows receive. `high` says that the pass uses high
weight parts (R124, R170). -/
def stepWs (r : RunRec) (row : Nat) (acts : List (List MX)) (nonf : List Bool) (high : Bool) : StepRec :=
  let c := 128 / r.parts
  let (sums, cuts) := columnSums r.parts acts.toArray (if high then r.w else r.wlow) r.scale
  { arr := r.arr, bank := r.bank, os := false, parts := r.parts, row := row,
    cols := (List.range c).map fun j => (List.range r.parts).map fun p =>
      (128 * row + c * p + j, sums.getD (c * p + j) 0)
    rr := [], col := 0, trunc := cuts.toList
    nonf := (List.range r.parts).map fun p => nth false nonf p || bitOf r.marks p
    rc := if high then (List.range r.parts).map fun p => columnTerm r.parts p acts r.ccol r.scale
      else List.replicate r.parts 0 }

/-- Step σ of an output-stationary run: `acts` is what each accumulator row receives, `ws` each column (R117, R121,
R174). -/
def stepOs (r : RunRec) (acts ws : List (List MX)) (nonf : Bool) : StepRec :=
  let pair := fun (a w : List MX) => (List.zip a w).foldl (fun (t : Int × Nat) v =>
    let c := contribution v.1 v.2 r.scale
    (t.1 + c.1, t.2 + b2n c.2)) (0, 0)
  let grid := ws.map fun w => acts.map fun a => pair a w
  let cr := (List.range r.cls.width).map fun n => sumRes (acts.map fun a => (nth MX.zero a n).res)
  let rr := (enumFrom 0 ws).map fun w =>
    (w.1, sumRes ((List.zip cr w.2).map fun v => v.1 * rot (res v.2.m) (v.2.x - r.scale) % resP))
  { arr := r.arr, bank := r.bank, os := true, parts := 1, row := 0,
    cols := (enumFrom 0 grid).map fun g => (enumFrom 0 g.2).map fun e => (128 * e.1 + g.1, e.2.1)
    rr := rr.map fun e => [e], col := 0
    trunc := [sumNat (grid.map fun g => sumNat (g.map (·.2)))]
    nonf := [nonf], rc := [] }

/-- The due part of step σ of a run issued at `c`: column 0 holds the step from issue + 262 + σ (R123, R133). -/
def stepDue (d : Due) (sigma : Nat) (t : StepRec) : Due :=
  { d with cycle := d.issue + 262 + sigma, read := false, op := .step t }

/-- Streamed row `i` of a run, whose array rows hold `els`, in the feeders: it enters the array two cycles after it is read, and in the
16-bit class stays for its fourth pass (R123-R125). -/
def RunRec.feedOf (r : RunRec) (issue i : Nat) (els : List (List MX)) : FeedRow :=
  { arr := r.arr, els := els, gone := issue + 2 + i + if r.cls = .c16 then 3 * r.steps else 0 }

def Matrix.feedRow (x : Matrix) (r : FeedRow) : Matrix := { x with feeder := x.feeder ++ [r] }

/-- Streamed row `i` of a run is read: it enters the feeders, and its steps set out (R117, R123, R124, R125). -/
def landRun (f : Nat) (d : Due) (r : RunRec) (i : Nat) (s : State) : State :=
  let s := readPort f r.arr r.tile r.cls.span (r.row0 + i) (touchSpan f d r.tile r.cls.span (r.row0 + i) s)
  let s := if r.os && r.lead then readPort f 4 r.wtile 1 (r.wrow0 + i) (touchRow f d.baddr d.tag r.wtile (r.wrow0 + i) s) else s
  let ti := (s.fold f).ti
  let el := ti.elems r.tile r.cls.span (r.row0 + i)
  let s := s.onFold f fun x => { x with mx := x.mx.feedRow (r.feedOf d.issue i (actRows r.cls.width r.parts (el.map (·.1)))) }
  let nonf := markedParts r.parts (el.map (·.2))
  let next := if i + 1 < r.steps then [d.after 1 true (.run r (i + 1))] else []
  let steps :=
    if r.os then
      let we := ti.elems r.wtile 1 (r.wrow0 + i)
      [stepDue d i (stepOs r (actRows r.cls.width 1 (el.map (·.1))) (actRows r.cls.width 1 (we.map (·.1)))
        ((el ++ we).any (·.2)))]
    else if r.cls = .c16 then
      let hi := actRows 1 r.parts (el.map fun e => hiPart e.1)
      let lo := actRows 1 r.parts (el.map fun e => loPart e.1)
      [stepDue d i (stepWs r i hi nonf true), stepDue d (r.steps + i) (stepWs r i lo nonf true),
       stepDue d (2 * r.steps + i) (stepWs r i hi nonf false), stepDue d (3 * r.steps + i) (stepWs r i lo nonf false)]
    else [stepDue d i (stepWs r i (actRows r.cls.width r.parts (el.map (·.1))) nonf true)]
  later f (next ++ steps) s

/-- The 64-bit accumulator after a contribution: saturated at its ends (R154). -/
def satAcc (a sum : Int) : Int × Bool :=
  let v := a + sum
  if 2 ^ 63 - 1 < v then (2 ^ 63 - 1, true) else if v < -(2 ^ 63) then (-(2 ^ 63), true) else (v, false)

/-- One column of each part receives a step: accumulators, and whether one saturated, part by part. -/
def addColumn (a b : Nat) (es : List (Nat × Int)) (x : Matrix) : Matrix × List Bool :=
  es.foldl (fun r e =>
    let v := satAcc (r.1.accOf a b e.1) e.2
    ({ r.1 with acc := put 0 r.1.acc (16384 * abKey a b + e.1) (BitVec.ofInt 64 v.1) }, r.2 ++ [v.2])) (x, [])

/-- The check row entry of a column receives its term (R174). -/
def addRow (a b : Nat) (es : List (Nat × Nat)) (x : Matrix) : Matrix :=
  es.foldl (fun (x : Matrix) e =>
    let k := 128 * abKey a b + e.1
    { x with rrow := put 0 x.rrow k ((peek 0 x.rrow k + e.2) % resP) }) x

/-- With the last column of its part a step adds to the truncation count, the saturation flag and the residue column
(R171, R173). -/
def endStep (t : StepRec) (x : Matrix) : Matrix :=
  let n := abKey t.arr t.bank
  (List.range t.parts).foldl (fun (x : Matrix) p =>
    let k := 4 * n + p
    let rk := 128 * k + t.row
    { x with trunc := put 0 x.trunc k (satAdd 32 (peek 0 x.trunc k) (nth 0 t.trunc p))
             sat := if nth false t.nonf p then put false x.sat k true else x.sat
             rcol := if t.os then x.rcol else put 0 x.rcol rk ((peek 0 x.rcol rk + nth 0 t.rc p) % resP) }) x

/-- The accumulators of the next column hold a step (R123, R154). -/
def landStep (f : Nat) (d : Due) (t : StepRec) (s : State) : State :=
  match t.cols with
  | [] => s
  | es :: rest =>
    let x := s.fold f
    let (m, sats) := addColumn t.arr t.bank es x.mx
    let m := addRow t.arr t.bank (t.rr.headD []) m
    let nonf := if t.os then [nth false t.nonf 0 || sats.any id]
      else (List.range t.parts).map fun p => nth false t.nonf p || nth false sats p
    let u := { t with cols := rest, rr := t.rr.tail, col := t.col + 1, nonf := nonf }
    let m := if rest.isEmpty then endStep u m else m
    later f (if rest.isEmpty then [] else [d.after 1 false (.step u)]) (s.setFold f { x with mx := m })

/-! ### mm.zero (R131, R134, R140) -/

/-- Slot fault of an mm.zero (R134); of a vx.acc in its own bundle it sees the bank read when that row's command came first (log
entry 81). Of several arrays the fault names the lowest, and in it the pending run before a drain or vx.acc that reads (log entry 20). -/
def zeroBad (arr b : Nat) (x : Fold) : Option (Nat × Nat × Nat) :=
  (arrays arr).findSome? fun a =>
    let k := abKey a b
    if x.ex.isBusy (64 + k) then some (0x13, engMatrix, detailBusy 13 (x.ex.busyAt (64 + k)).2 k)
    else if x.ex.isBusy (96 + k) then some (0x13, engMatrix, detailBusy 13 (x.ex.busyAt (96 + k)).2 k)
    else none

/-- A bank is empty: accumulators, residues, counts and flags are zero (R131). -/
def Matrix.zeroBank (x : Matrix) (a b : Nat) : Matrix :=
  let n := abKey a b
  { x.setBank a b .init with
    acc := clearFrom (16384 * n) 16384 x.acc
    trunc := clearFrom (4 * n) 4 x.trunc
    sat := clearFrom (4 * n) 4 x.sat
    rcol := clearFrom (512 * n) 512 x.rcol
    rrow := clearFrom (128 * n) 128 x.rrow }

def landZero (f arrs b : Nat) (s : State) : State :=
  s.onFold f fun x => { x with mx := (arrays arrs).foldl (fun m a => m.zeroBank a b) x.mx }

def execMmNop (f : FoldId) (s : State) : Res :=
  whileClocked s (slotIssue s f.toNat 1 (.mmNop f) (fun _ _ => none) fun s _ => s)

/-- mm.zero (R140): the banks are clear from issue + 1. -/
def execMmZero (f : FoldId) (arr : BitVec 4) (bank : Bool) (s : State) : Res :=
  whileClocked s (slotIssue s f.toNat 1 (.mmZero f arr bank) (fun _ x => zeroBad arr.toNat (b2n bank) x) fun s x =>
    s.setFold f.toNat { x with ex := x.ex.addDue (x.ex.dueAt false rankMm 1 (.zero arr.toNat (b2n bank))) })

/-! ### mm.drain (R133, R139, R158-R162, R172-R176) -/

/-- Destination of a drain: tiles of the span, tile format, row bytes of a tile (R139). -/
def drainDest (dfmt : Nat) : Nat × Nat × Nat :=
  match dfmt with
  | 0 => (4, 9, 128)
  | 1 => (2, 7, 128)
  | 2 => (1, 3, 128)
  | _ => (1, 4, 64)

/-- Parts that a drain reads: the bank's, or those of its own SPL on an empty bank (R139, R173). -/
def drainParts (b : BankRec) (spl : Nat) : Nat := if b.empty then splParts spl else b.parts

/-- Shape faults of an mm.drain (R85, R88, R131, R141, R175, R176). -/
def drainShape (o : MmDrain) (x : Fold) : Option (Nat × Nat × Nat) :=
  let t := o.dtile.toNat
  let as := arrays o.arr.toNat
  let r := o.rows.toNat + 1
  let (size, fmt, rb) := drainDest o.dfmt.toNat
  let spans := (List.range as.length).map fun n => spanAt t n size
  let tiles := (spans.flatMap fun a => (List.range size).map fun i => a + i).filter fun a => decide (a < 16)
  let sp := spansBad x.ti t size as.length
  let bs := as.map fun a => x.mx.bank a (b2n o.bank)
  (lowestRule [
    (sp.isSome, (sp.map (·.1)).getD 0, sp.map (·.2)),
    (bs.any fun b => !b.empty && decide (b.parts ≠ splParts o.spl.toNat), 131, none),
    (decide (16 < t + as.length * size) || decide (128 < o.arow0.toNat + r) || decide (o.cko = 3) ||
      (decide (o.cko ≠ 0) && decide (1 < as.length)), 141, none),
    (tiles.any fun a => decide (x.ti.fmt a ≠ fmt) || decide (cfgRB (x.ti.word a) ≠ rb) ||
      decide (cfgRows (x.ti.word a) < o.drow0.toNat + r), 141, some t),
    (bs.any fun b => !b.empty && b.os && (decide (o.arow0 ≠ 0) || decide (r ≠ 128)), 175, none),
    (decide (o.cko ≠ 0) && ((bs.any fun b => decide (drainParts b o.spl.toNat ≠ 1)) ||
      (decide (o.dfmt = 3) && o.cks.getLsbD 0)), 176, none)]).map fun q => (0x11, engMatrix, ruleDetail q.1 q.2)

def drainBad (o : MmDrain) (x : Fold) : Option (Nat × Nat × Nat) :=
  match drainShape o x with
  | some b => some b
  | none => (arrays o.arr.toNat).findSome? fun a =>
    if x.ex.isBusy (4 + a) then some (0x13, engMatrix, detailBusy (4 + a) (x.ex.busyAt (4 + a)).2 a) else none

/-- Outbound data that started in this cycle is held on a drain that issues in it (R178). -/
def Fold.holdMore (x : Fold) : Fold :=
  { x with
    qu := { x.qu with outMsg := x.qu.outMsg.map fun m =>
      if (x.cent m.ch).rem && m.issue = x.ex.cycle then { m with hold := x.mx.vStarted } else m }
    dr := { x.dr with xfers := x.dr.xfers.map fun t =>
      if t.start = x.ex.cycle then { t with hold := x.mx.vStarted } else t } }

/-- Takes the drain unit of array `a` for `r` rows, and notes that the bank is read (R134, R135). -/
def Fold.takeDrain (x : Fold) (a b r : Nat) : Fold :=
  { x with ex := (x.ex.occupy (4 + a) r).holdTo (96 + abKey a b) (x.ex.cycle + r + 1) }

/-- Starts a drain or vx.acc: its verdict is to come (R173). -/
def Fold.startDrain (x : Fold) (slot : Nat) (d : DrainRec) : Fold :=
  let x := x.takeDrain d.arr d.bank d.rows
  let d := { d with id := x.mx.vStarted, tag := x.ex.lastTag, baddr := x.ex.lastBundle, issue := x.ex.cycle }
  let x := { x with
    ex := x.ex.addDue (x.ex.dueAt true slot 1 (.drain d 0))
    mx := { x.mx with vStarted := x.mx.vStarted + 1, vOpen := x.mx.vOpen ++ [x.mx.vStarted] } }
  x.holdMore

/-- tile_seed of R35 under the step counter that fold `f` sees as it issues a drain (R65). -/
def State.tileSeedOf (s : State) (f tileId : Nat) : Nat :=
  match s.job with
  | some j => tileSeed j.hdr.seed (s.stepOf f) tileId
  | none => 0

/-- mm.drain: accumulator row i is read at issue + 1 + i and written to the tile for readers from issue + 7 + i. -/
def execMmDrain (f : FoldId) (o : MmDrain) (s : State) : Res :=
  whileClocked s (slotIssue s f.toNat 1 (.mmDrain f o) (fun _ x => drainBad o x) fun s x =>
    let size := (drainDest o.dfmt.toNat).1
    s.setFold f.toNat ((enumFrom 0 (arrays o.arr.toNat)).foldl (fun (y : Fold) p =>
      let b := y.mx.bank p.2 (b2n o.bank)
      let n := drainParts b o.spl.toNat
      y.startDrain rankMm
        { arr := p.2, bank := b2n o.bank, vx := false, row0 := o.arow0.toNat, rows := o.rows.toNat + 1,
          dtile := spanAt o.dtile.toNat p.1 size, drow0 := o.drow0.toNat, dfmt := o.dfmt.toNat, rnd := o.rnd,
          tseed := s.tileSeedOf f.toNat ((o.tid.toNat + p.1) % 4096), parts := n, cko := o.cko.toNat, cks := o.cks.toNat, vd := 0,
          scale := if b.empty then 0 else b.scale
          os := !b.empty && b.os, bad := List.replicate n none, colSum := List.replicate 128 0, kept := [], id := 0,
          tag := 0, baddr := 0, issue := 0 }) x))

/-- One drained block of B8 (`w` 7) or B4 (`w` 3): mantissas and exponent (R159). -/
def drainBlock (w : Nat) (s : Int) (as : List (Int × Option Nat)) : List Int × Int :=
  let ns := as.filter fun a => decide (a.1 ≠ 0)
  match ns with
  | [] => (as.map fun _ => 0, 0)
  | a :: t =>
    let e := t.foldl (fun (m : Nat) b => max m (Nat.log2 b.1.natAbs)) (Nat.log2 a.1.natAbs)
    let x : Int := (e : Int) + s - w + 1
    let on := fun (x : Int) => as.map fun a => roundInt a.2 a.1 (s - x)
    let x := if (on x).any fun m => decide (m.natAbs = 2 ^ w) then x + 1 else x
    let lim : Int := 2 ^ w - 1
    if x < -128 then (on (-128), -128)
    else if 127 < x then ((on 127).map fun m => max (-lim) (min lim m), 127)
    else (on x, x)

/-- The rounding word of accumulator (i, j) (R162). -/
def roundWord (tseed i j : Nat) : Nat := mix64 (tseed ^^^ (i * 256 + j)) % 2 ^ 32

/-- The value written for a floating-point element, for the residues of R176; a non-finite one contributes 0. -/
def floatMX (p : FpSpec) (w : Nat) : MX :=
  match p.decode w with
  | .fin neg m x => { m := if neg then -(m : Int) else m, x := x }
  | _ => MX.zero

/-- A drained row converted: destination bytes, exponent bytes, and the values written (R158-R161, R176). -/
def convertRow (dfmt : Nat) (s : Int) (as : List (Int × Option Nat)) : List Byte × List Byte × List MX :=
  match dfmt with
  | 0 =>
    let ws := as.map fun a => fp32.round a.2 false a.1 s
    (ws.flatMap (leBytes 4), [], ws.map (floatMX fp32))
  | 1 =>
    let ws := as.map fun a => fpBF16.round a.2 false a.1 s
    (ws.flatMap (leBytes 2), [], ws.map (floatMX fpBF16))
  | n =>
    let bs := (pieces 32 as).map (drainBlock (if n = 2 then 7 else 3) s)
    let ms := bs.flatMap (·.1)
    let bytes := if n = 2 then ms.map fun m => BitVec.ofInt 8 m
      else (pieces 2 ms).map fun p => BitVec.ofNat 8 (wrap 4 (nth 0 p 0) + 16 * wrap 4 (nth 0 p 1))
    (bytes, bs.map fun b => BitVec.ofInt 8 b.2, bs.flatMap fun b => b.1.map fun m => { m := m, x := b.2 })

/-- The comparison of a drained row with its residue entry, part by part: the first mismatch stays (R172). -/
def compareRow (x : Matrix) (d : DrainRec) (row : Nat) (as : List Int) : List (Option Nat) :=
  let c := 128 / d.parts
  (enumFrom 0 d.bad).map fun p =>
    if p.2.isSome then p.2
    else if sumRes (((as.drop (c * p.1)).take c).map res) =
        peek 0 x.rcol (128 * (4 * abKey d.arr d.bank + p.1) + row) % resP then none
    else some row

/-- The first column whose sum differs from its check row entry (R175). -/
def compareCols (x : Matrix) (d : DrainRec) (sums : List Nat) : Option Nat :=
  ((enumFrom 0 sums).find? fun e => decide (e.2 % resP ≠ peek 0 x.rrow (128 * abKey d.arr d.bank + e.1) % resP)).map (·.1)

/-- The verdict of a part (R172). -/
def verdictOf (x : Matrix) (d : DrainRec) (p : Nat) (bad : Option Nat) : VKind × Nat :=
  let k := 4 * abKey d.arr d.bank + p
  if peek false x.sat k then (.sat, 0)
  else if peek 0 x.trunc k ≠ 0 then (.trunc, 0)
  else match bad with
    | none => (.pass, 0)
    | some i => (.fail, i)

/-- Check slots that a drain with CKO fills (R176). -/
def fillSlots (dfmt cko cks : Nat) (kept : List (List MX)) : List (Nat × List Nat) :=
  if cko = 0 then []
  else
    let ns := if dfmt = 3 then 2 else 1
    let rs := kept.map fun row => row.map MX.res
    (List.range ns).map fun n =>
      (cks + n, padList 0 128 (
        if cko = 1 then rs.map fun row => sumRes ((pieces ns row).map fun g => nth 0 g n)
        else (List.range (128 / ns)).map fun e => sumRes (rs.map fun row => nth 0 row (ns * e + n))))

/-- A value whose two conversions differ (R189). -/
def convCheck (f : Nat) (d : DrainRec) (row : Nat) (s : State) : State :=
  if (s.fold f).mx.convBad = some (d.arr, row) then
    (checkCount 8 1 s).raiseFold f 0x45 engMatrix 1 d.baddr d.tag (at_ 62 2 d.arr + at_ 52 7 row)
  else s

/-- Accumulator row `i` of a drain or vx.acc is read (R133, R158-R161, R172, R173, R219). -/
def landDrain (f : Nat) (due : Due) (d : DrainRec) (i : Nat) (s : State) : State :=
  let row := d.row0 + i
  let s := convCheck f d row s
  let m := (s.fold f).mx
  let accs := (List.range 128).map fun j => m.accOf d.arr d.bank (128 * row + j)
  let us := (List.range 128).map fun j => if d.rnd then some (roundWord d.tseed row j) else none
  let (bytes, exps, vals) := convertRow d.dfmt d.scale (List.zip accs us)
  let d := { d with bad := if d.os then d.bad else compareRow m d row accs
                    colSum := if d.os then List.zipWith (fun a b => a + res b) d.colSum accs else d.colSum
                    kept := if d.cko = 0 then [] else d.kept ++ [vals] }
  let out :=
    if d.vx then
      [due.after 4 false (.vecWrite ((enumFrom 0 (pieces 4 bytes)).map fun w =>
        (128 * (d.vd + i) + w.1, BitVec.ofNat 32 (leNat w.2))) none)]
    else
      (enumFrom 0 (pieces 128 bytes)).map fun p => due.after 6 false (.tileRow (d.dtile + p.1) (d.drow0 + i) p.2 exps)
  if i + 1 < d.rows then later f (out ++ [due.after 1 true (.drain d (i + 1))]) s
  else
    let bad := if d.os then [compareCols m d d.colSum] else d.bad
    let v : PendVerdict := { cycle := d.issue + d.rows + 8, id := d.id, arr := d.arr, os := d.os,
                             parts := (enumFrom 0 bad).map fun p => verdictOf m d p.1 p.2,
                             fill := fillSlots d.dfmt d.cko d.cks d.kept, tag := d.tag, baddr := d.baddr, vx := d.vx }
    later f out (s.onFold f fun x => { x with mx := { x.mx with verdicts := x.mx.verdicts ++ [v] } })

/-! ### VERDICT (R173, R176-R178, R193) -/

/-- One part's verdict is counted and traced, and raises its fault (R177, R193, R198). -/
def countVerdict (f : Nat) (v : PendVerdict) (p : Nat) (k : VKind × Nat) (s : State) : State :=
  let loc := at_ 62 2 v.arr + at_ 60 2 p
  let code := match k.1 with | .pass => 0 | .fail => 1 | .trunc => 2 | .sat => 3
  let s := s.trAt f v.cycle 6 engMatrix v.tag (loc + code)
  match k.1 with
  | .pass => checkCount 1 1 (s.onJob fun j => { j with pass := satAdd 32 j.pass 1 })
  | .fail =>
    (checkCount 2 1 (s.onJob fun j => { j with fail := satAdd 32 j.fail 1 })).raiseAt f v.cycle 0x40 engMatrix 1 v.baddr v.tag
      (loc + at_ 59 1 (b2n v.os) + at_ 52 7 k.2)
  | .trunc => checkCount 3 1 (s.onJob fun j => { j with trunc := satAdd 32 j.trunc 1 })
  | .sat =>
    let s := checkCount 4 1 (s.onJob fun j => { j with sat := satAdd 32 j.sat 1 })
    match s.job with
    | some j => if j.satFault then s.raiseAt f v.cycle 0x41 engMatrix 1 v.baddr v.tag loc else s
    | none => s

/-- Delivers a verdict: the slots of R176 are filled, and data held on it may leave (R178). -/
def deliver (f : Nat) (v : PendVerdict) (s : State) : State :=
  let s := (enumFrom 0 v.parts).foldl (fun s p => countVerdict f v p.1 p.2 s) s
  s.onFold f fun x => { x with mx := { x.mx with
    vOpen := x.mx.vOpen.erase v.id
    cslot := v.fill.foldl (fun m e => putRun 0 m (128 * e.1) e.2) x.mx.cslot
    cvalid := v.fill.foldl (fun m e => BitVec.ofNat 4 (setBit m.toNat e.1 true)) x.mx.cvalid
    drained := v.fill.foldl (fun m e => put 0 m e.1 v.cycle) x.mx.drained } }

/-- The earliest of the verdicts to be delivered. -/
def firstVerdict : List PendVerdict → Option Nat
  | [] => none
  | v :: t => match firstVerdict t with
    | none => some v.cycle
    | some c => some (min v.cycle c)

end Sys2Proof.Machine
end

