-- ==== Sys2Proof/Machine/Memory.lean ====
section
/-! DEFINITION. Device memory (R310-R330): the address map, port slots and the bandwidth split (R258-R260), and the sources
that a memory-side die reads, checks and decompresses (R240, R248, R249). -/
namespace Sys2Proof.Machine

/-! ### The address map (R315) -/

/-- The logical port of the granule that holds address `a` (R315). -/
def portOf (g : Grade) (a : Nat) : Nat :=
  let n := a / 4096
  match g with
  | .H => 4 * (n % 4) + (n / 4 + n / 16) % 4
  | .F | .T => 6 * (n % 4) + 3 * (n / 4 % 2) + (n / 8 + n / 24) % 3

/-- The memory-side die of address `a` (R315). -/
def dieOf (a : Nat) : Nat := a / 4096 % 4

/-- The memory-side die of a port (R310). -/
def portDie (g : Grade) (p : Nat) : Nat := match g with | .H => p / 4 | .F | .T => p / 6

/-- The port-local index of the granule that holds address `a` (R315). -/
def localOf (g : Grade) (a : Nat) : Nat := match g with | .H => a / 4096 / 16 | .F | .T => a / 4096 / 24

/-- The address of local granule `l` of port `p`, which R315 takes there. -/
def granuleAddr (g : Grade) (p l : Nat) : Nat :=
  4096 * (match g with
    | .H => 16 * l + 4 * ((p % 4 + 3 * l) % 4) + p / 4
    | .F | .T => 24 * l + 8 * ((p % 3 + 2 * l) % 3) + 4 * (p % 6 / 3) + p / 6)

/-! ### The raw layout of a port (R316, R317, R322) -/

/-- Raw bytes of a group, the granules it holds, and the raw bytes of a granule with its symbol lines (R316). -/
def groupBytes : Nat := 65536
def groupGranules : Nat := 15
def rawGranule : Nat := 4352

/-- Raw offset, in its port, of the payload line at address `a` (R316). -/
def rawOf (g : Grade) (a : Nat) : Nat :=
  let l := localOf g a
  groupBytes * (l / groupGranules) + 256 + rawGranule * (l % groupGranules) + a % 4096 / 64 * 64

/-- Raw offset of the symbol word of the payload line at address `a` (R316). -/
def symbolOf (g : Grade) (a : Nat) : Nat :=
  let l := localOf g a
  let i := a % 4096 / 64
  groupBytes * (l / groupGranules) + 256 + rawGranule * (l % groupGranules) + 64 * (64 + i / 16) + 4 * (i % 16)

/-- What lies at a raw offset of a port: a group line, or line `i` (0-63 payload, 64-67 symbols) of a local granule (R316). -/
inductive RawLine where
  | group (k i : Nat)
  | granule (l i : Nat)
  deriving DecidableEq, Repr

def rawLineAt (o : Nat) : RawLine :=
  let r := o % groupBytes
  if r < 256 then .group (o / groupBytes) (r / 64)
  else .granule (groupGranules * (o / groupBytes) + (r - 256) / rawGranule) ((r - 256) % rawGranule / 64)

/-- The 64 raw bytes at raw offset `o` of port `p`, unless an error has struck them: a group line as training wrote it, a payload
line, or the symbol words of 16 of them (R316, R317). -/
def State.rawLine (s : State) (p o : Nat) : List Byte :=
  match rawLineAt o with
  | .group k i => if (peek Port.init s.msd.ports p).pattern then Config.groupLine k i else List.replicate 64 memDefault
  | .granule l i =>
    let a := granuleAddr s.chip.grade p l
    if i < 64 then s.readMem (a + 64 * i) 64
    else (List.range 16).flatMap fun j =>
      let b := a + 64 * (16 * (i - 64) + j)
      leBytes 4 (Config.symbolWord (s.readMem b 64) b).toNat

/-- What the scrubber reads in one maintenance period (R322). -/
inductive ScrubPart where
  | groupLines (k : Nat)
  /-- The symbol lines of a local granule. -/
  | symbols (l : Nat)
  /-- Payload lines `i` to `i + 3` of a local granule. -/
  | payload (l i : Nat)
  deriving DecidableEq, Repr

/-- Maintenance periods of a group: one for its group lines, and 17 for each granule (R322). -/
def groupPeriods : Nat := 1 + 17 * groupGranules

/-- The part of period `k` of a scrub pass. -/
def scrubPart (k : Nat) : ScrubPart :=
  let g := k / groupPeriods
  let i := k % groupPeriods
  if i = 0 then .groupLines g
  else
    let l := groupGranules * g + (i - 1) / 17
    if (i - 1) % 17 = 0 then .symbols l else .payload l (4 * ((i - 1) % 17 - 1))

/-- Periods of a pass over one port of `rawGiB` GiB (R322). -/
def scrubPeriods (rawGiB : Nat) : Nat := rawGiB * 2 ^ 30 / groupBytes * groupPeriods
/-! ### Classes and frames (R258-R260, R323, R531) -/

inductive MemCls where
  | read | write | remote
  deriving DecidableEq, Repr

/-- The class of slot `i` of a frame under shares `r`, `w`, `x` (R258). -/
def slotClassFrom (r w x : Int) : Nat → Int → Int → Int → MemCls
  | 0, cr, cw, cx =>
    let cr := cr + r
    let cw := cw + w
    let cx := cx + x
    if cw ≤ cr ∧ cx ≤ cr then .read else if cx ≤ cw then .write else .remote
  | n + 1, cr, cw, cx =>
    let cr := cr + r
    let cw := cw + w
    let cx := cx + x
    if cw ≤ cr ∧ cx ≤ cr then slotClassFrom r w x n (cr - 100) cw cx
    else if cx ≤ cw then slotClassFrom r w x n cr (cw - 100) cx
    else slotClassFrom r w x n cr cw (cx - 100)

def slotClass (split : Nat × Nat × Nat) (i : Nat) : MemCls :=
  slotClassFrom split.1 split.2.1 split.2.2 i 0 0 0

/-- The share of a class (R12). -/
def shareOf (split : Nat × Nat × Nat) : MemCls → Nat
  | .read => split.1
  | .write => split.2.1
  | .remote => split.2.2

/-- Another split applies, and every port begins a new frame with its next data slot (R531). -/
def State.newFrames (split : Nat × Nat × Nat) (s : State) : State :=
  { s with msd := { s.msd with
      split := split
      ports := s.msd.ports.filterMap fun p =>
        let q := { p.2 with slot := 0 }
        if q = Port.init then none else some (p.1, q) } }

/-- The default split (R12, R259). -/
def defaultSplit : Nat × Nat × Nat := (72, 18, 10)

def State.port (s : State) (p : Nat) : Port := peek Port.init s.msd.ports p
def State.setPort (s : State) (p : Nat) (x : Port) : State :=
  { s with msd := { s.msd with ports := put Port.init s.msd.ports p x } }

/-- A request joins its class's queue at the port of its granule, behind those that came before (R258). -/
def State.ask (c : MemCls) (r : Req) (s : State) : State :=
  let n := portOf s.chip.grade r.addr
  let p := s.port n
  s.setPort n (match c with
    | .read => { p with rq := p.rq ++ [r] }
    | .write => { p with wq := p.wq ++ [r] }
    | .remote => { p with xq := p.xq ++ [r] })

/-- Removes the requests of every port that `drop` names. -/
def State.dropReqs (drop : ReqFor → Bool) (s : State) : State :=
  let keep := fun (r : Req) => !drop r.who
  { s with msd := { s.msd with ports := s.msd.ports.filterMap fun p =>
      let q := { p.2 with dq := p.2.dq.filter keep, rq := p.2.rq.filter keep, wq := p.2.wq.filter keep,
                          xq := p.2.xq.filter keep, out := p.2.out.filter fun o => keep o.1 }
      if q = Port.init then none else some (p.1, q) } }

/-! ### The device's own traffic (R260) -/

/-- The class in whose slots a port serves the device's own reads or writes: that of their direction, or, when its share is 0, the
class with the largest share; of equal ones read, then write, then remote (R260). -/
def deviceClass (split : Nat × Nat × Nat) (wr : Bool) : MemCls :=
  let c := if wr then MemCls.write else .read
  let (r, w, x) := split
  if shareOf split c ≠ 0 then c else if w ≤ r ∧ x ≤ r then .read else if x ≤ w then .write else .remote

/-- A request of the device's own joins those of its port, ahead of every other request of its class (R260). -/
def State.askDev (r : Req) (s : State) : State :=
  let n := portOf s.chip.grade r.addr
  let p := s.port n
  s.setPort n { p with dq := p.dq ++ [r] }

/-- The lines that bytes `a` to `a + n - 1` touch, granule by granule: address of the first line, and lines (R319). -/
def lineRuns : Nat → Nat → Nat → List (Nat × Nat)
  | 0, _, _ => []
  | k + 1, a, n =>
    if n = 0 then []
    else
      let m := min n (4096 - a % 4096)
      (a / 64 * 64, (a % 64 + m + 63) / 64) :: lineRuns k (a + m) (n - m)

/-- Bytes that the device writes for itself, granule by granule. -/
def writeRunsOf : Nat → Nat → List Byte → List (Nat × List Byte)
  | 0, _, _ => []
  | k + 1, a, l =>
    if l.isEmpty then []
    else
      let m := 4096 - a % 4096
      (a, l.take m) :: writeRunsOf k (a + m) (l.drop m)

/-- The device writes bytes for itself: to host memory at once, to device memory in slots of its ports (R260, R319). -/
def State.writeFor (k : DevKey) (a : Nat) (l : List Byte) (s : State) : State :=
  if isHost a then s.writeHost a l
  else (writeRunsOf (l.length / 4096 + 2) a l).foldl (fun t r => t.askDev
    { who := .dev k, off := 0, addr := r.1, n := (r.1 % 64 + r.2.length + 63) / 64, wr := true, data := r.2 }) s

/-- The device writes a record or digest. -/
def State.writeOut (s : State) (a : Nat) (l : List Byte) : State := s.writeFor .out a l

/-- Writes of the device's own under a key still wait for a slot of a port that serves. -/
def State.holdsOut (s : State) (k : DevKey) : Bool :=
  s.msd.ports.any fun p => !p.2.failed && p.2.dq.any fun r => decide (r.who = .dev k)

/-- Writes of the device's own still wait for a slot, or for the host's BIRsp. -/
def State.writing (s : State) : Bool := !s.host.snoop.isEmpty || s.holdsOut .out || s.holdsOut .jobOut

/-- What the device has asked for under a key, if it has asked. -/
def State.devRead (s : State) (k : DevKey) : Option DevRead := s.msd.devReads.find? fun d => decide (d.key = k)

def State.dropDevRead (s : State) (k : DevKey) : State :=
  { s with msd := { s.msd with devReads := s.msd.devReads.filter fun d => decide (d.key ≠ k) } }

/-- The device reads ranges of device memory for itself: address and bytes (R260). -/
def State.readFor (k : DevKey) (ranges : List (Nat × Nat)) (s : State) : State :=
  let runs := ranges.flatMap fun r => lineRuns (r.2 / 4096 + 2) r.1 r.2
  let d : DevRead := { key := k, left := runs.length, mem := [], bad := none }
  runs.foldl (fun t r => t.askDev { who := .dev k, off := 0, addr := r.1, n := r.2, wr := false, data := [] })
    { s with msd := { s.msd with devReads := s.msd.devReads ++ [d] } }

def State.onDevRead (k : DevKey) (g : DevRead → DevRead) (s : State) : State :=
  { s with msd := { s.msd with devReads := s.msd.devReads.map fun d => if d.key = k then g d else d } }

/-! ### Sources (R240, R248) -/

/-- The address of source line `i` (R240): a host address is contiguous, and device granules lie GSTR apart. -/
def lineAddr (a gstr i : Nat) : Nat :=
  if isHost a then a + 64 * i
  else
    let p := a % 4096 + 64 * i
    (a / 4096 + p / 4096 * gstr) * 4096 + p % 4096

def Src.lineAddr (x : Src) (i : Nat) : Nat := Machine.lineAddr x.addr x.geom.gstr i

/-- Source lines delivered. -/
def Src.have (x : Src) : Nat := x.raw.length / 64

/-- Line `i` of delivered bytes, as a number. -/
def rawLine (raw : List Byte) (i : Nat) : Nat := leNat ((raw.drop (64 * i)).take 64)

/-- What the masks delivered so far show of a zero-line source from line `pos`, with `left` landing lines to come (R248): the
source lines known to be needed, and whether that is all of them. -/
def zeroLines (raw : List Byte) : Nat → Nat → Nat → Nat × Bool
  | 0, pos, _ => (pos, true)
  | n + 1, pos, left =>
    if left = 0 then (pos, true)
    else if raw.length < 64 * (pos + 1) then (pos + 1, false)
    else
      let c := min 512 left
      zeroLines raw n (pos + 1 + popCount (rawLine raw pos) c) (left - c)

/-- Source lines known to be needed, and whether that is all of them. -/
def Src.known (x : Src) : Nat × Bool :=
  if x.geom.dcf = 0 then (x.geom.len, true) else zeroLines x.raw (ceilDiv x.geom.len 512) 0 x.geom.len

/-- Every source line has been delivered. -/
def Src.complete (x : Src) : Bool := x.known.2 && decide (x.known.1 ≤ x.have)

/-- The first mask bit set beyond the image's last line: chunk and bit (R248). -/
def badMask (raw : List Byte) : Nat → Nat → Nat → Nat → Option (Nat × Nat)
  | 0, _, _, _ => none
  | n + 1, k, pos, left =>
    if left = 0 ∨ raw.length < 64 * (pos + 1) then none
    else
      let c := min 512 left
      let m := rawLine raw pos
      match (List.range (512 - c)).find? fun i => bitOf m (c + i) with
      | some i => some (k, c + i)
      | none => badMask raw n (k + 1) (pos + 1 + popCount m c) (left - c)

/-- The decompression fault that the delivered masks show (R248, R418). -/
def Src.bad (x : Src) : Option Nat :=
  if x.geom.dcf = 0 then none
  else (badMask x.raw (ceilDiv x.geom.len 512) 0 0 x.geom.len).map fun p => at_ 32 32 p.1 + at_ 0 9 p.2

/-- Landing lines of one chunk: present lines in order, and zero lines (R248). -/
def chunkLines (mask : Nat) (lines : List (List Byte)) : List Nat → List (List Byte)
  | [] => []
  | i :: t =>
    if bitOf mask i then (lines.headD []) :: chunkLines mask lines.tail t
    else List.replicate 64 0 :: chunkLines mask lines t

/-- The landing image of a zero-line source. -/
def unpack : Nat → Nat → List (List Byte) → List (List Byte)
  | 0, _, _ => []
  | n + 1, left, src =>
    match src with
    | [] => []
    | m :: rest =>
      let c := min 512 left
      let k := popCount (leNat m) c
      chunkLines (leNat m) (rest.take k) (List.range c) ++ unpack n (left - c) (rest.drop k)

/-- The image of a source that has been delivered. -/
def Src.image (x : Src) : List (List Byte) :=
  let ls := pieces 64 x.raw
  if x.geom.dcf = 0 then ls.take x.geom.len else unpack (ceilDiv x.geom.len 512) x.geom.len ls

/-- Lines delivered early that now continue the stream. -/
def takeEarly : Nat → Src → Src
  | 0, x => x
  | n + 1, x =>
    match x.early.find? fun e => decide (e.1 = x.have) with
    | some e => takeEarly n { x with raw := x.raw ++ e.2, early := x.early.erase e }
    | none => x

/-- Source lines from line `off` have been delivered. -/
def Src.absorb (x : Src) (off : Nat) (bytes : List Byte) : Src :=
  let y := if off = x.have then { x with raw := x.raw ++ bytes } else { x with early := x.early ++ [(off, bytes)] }
  takeEarly y.early.length y

/-- Requests of lines `lo` to `hi - 1`, at most one granule each (R319): line, address and count. -/
def granules (addr : Nat → Nat) : Nat → Nat → Nat → List (Nat × Nat × Nat)
  | 0, _, _ => []
  | n + 1, lo, hi =>
    if hi ≤ lo then []
    else
      let a := addr lo
      let k := min (64 - a / 64 % 64) (hi - lo)
      (lo, a, k) :: granules addr n (lo + k) hi

/-- The first line of a run that lies beyond the memory, or, for a source that must stay in one die, in another die than the
first granule (R240, R314). -/
def rangeBad (limit : Nat) (one : Bool) (first : Nat) (run : List (Nat × Nat × Nat)) : Option Nat :=
  (run.find? fun r => decide (limit < r.2.1 + 64 * r.2.2) || (one && decide (dieOf r.2.1 ≠ dieOf first))).map
    fun r => if limit < r.2.1 + 64 * r.2.2 then max r.2.1 (limit / 64 * 64) else r.2.1

/-- Requests the source lines that are known to be needed and have not been requested (R249, R319): the source and the state
after it, or the address at fault (R240). -/
def askSrc (who : ReqFor) (one : Bool) (x : Src) (s : State) : Except Nat (Src × State) :=
  let hi := x.known.1
  let run := granules x.lineAddr (hi - x.asked) x.asked hi
  match rangeBad s.limit one x.addr run with
  | some a => .error a
  | none =>
    .ok ({ x with asked := max x.asked hi },
      run.foldl (fun t r => t.ask .read { who := who, off := r.1, addr := r.2.1, n := r.2.2, wr := false, data := [] }) s)

/-! ### Images (R238, R249) -/

/-- Bytes and exponent field of row `i` of tile `k` of a span image. -/
def Geom.row (g : Geom) (lines : List (List Byte)) (k i : Nat) : List Byte × List Byte :=
  let lo := k * g.tileLines + i * g.rb / 64
  let hi := k * g.tileLines + (i * g.rb + g.rb - 1) / 64
  let blob := ((lines.drop lo).take (hi + 1 - lo)).flatMap id
  let e := if fmtExps g.fmt then
      ((lines.getD (k * g.tileLines + g.dataLines + i / 8) []).drop (8 * (i % 8))).take 8
    else []
  ((blob.drop (i * g.rb % 64)).take g.rb, e)

/-- The configuration word of the image's tiles. -/
def Geom.word (g : Geom) : BitVec 32 := BitVec.ofNat 32 (g.rows - 1 + 2 ^ 8 * g.rbc + 2 ^ 11 * g.fmt)

/-- The image as tiles from T0 on. -/
def Geom.asTiles (g : Geom) (lines : List (List Byte)) : Tiles :=
  let x : Tiles := { Tiles.init with inUse := 0xFFFF, cfg := (List.range g.tiles).map fun k => (k, g.word) }
  (List.range g.tiles).foldl (fun x k => (List.range g.rows).foldl (fun (x : Tiles) i =>
    let r := g.row lines k i
    x.putRow k i r.1 r.2) x) x

/-- The residues of R167 of an image, slot by slot, as an mm.ldw with the geometry's WT and SPL would load it (R169, R249). -/
def Geom.residues (g : Geom) (lines : List (List Byte)) : List (List Nat) :=
  let c := (statCls g.fmt).getD .c8
  let p := splParts g.spl
  let l : LdwRec := { arr := 0, buf := 0, cls := c, fmt := g.fmt, tile := 0, row0 := 0, rows := g.rows, wt := g.wt, parts := p }
  let x := g.asTiles lines
  let n := min g.rows (if g.wt then 128 else 128 / p)
  let cells := (List.range n).flatMap fun q => ldwCells l q (ldwRow x l q) id
  (List.range c.slots).map fun m =>
    (List.range 128).map fun k =>
      sumRes (cells.flatMap fun e => if e.1 / 128 = k then
        (e.2.filter fun w => decide (w.pos = m)).map fun w => MX.res { m := w.m, x := w.x } else [])

/-! ### Faults at a descriptor (R261) -/

/-- Raises a fault at a descriptor of fold `f`, detected by `die` (R417). -/
def descFault (f die : Nat) (d : Desc) (code engine detail : Nat) (s : State) : State :=
  let r := s.rep f code engine d.akind d.addr d.ttag detail
  (raise { r with die := die } s).tr f 9 engine d.ttag code

/-! ### Errors of stored lines (R328-R330) -/

/-- The detail word of a memory fault (R330). -/
def memDetail (kind port addr : Nat) : Nat := at_ 60 4 kind + at_ 55 5 port + at_ 0 41 (addr / 64 * 64)

/-- A corrected line: counted, and MEM is set when the port's count passes a multiple of the threshold (R328). -/
def memCorrected (p : Nat) (s : State) : State :=
  let q := s.port p
  let t := logStick q.corrected 1 (s.setPort p { q with corrected := ctrAdd q.corrected 1 })
  let t := logStick t.msd.corrected 1 { t with msd := { t.msd with corrected := ctrAdd t.msd.corrected 1 } }
  let n := s.msd.threshold.toNat
  if n ≠ 0 ∧ ctrAdd q.corrected 1 % n = 0 then setStatus bitMem t else t

/-- The detail of the last error that could not be corrected (R331, OD 0x5004.02). -/
def State.setDetail (d : Nat) (s : State) : State := { s with msd := { s.msd with lastDetail := d } }

/-- A line that cannot be corrected: counted and recorded, and logged with its port and address, with MEM and LOG (R329). -/
def memUncorrectable (p addr : Nat) (s : State) : State :=
  let m := s.msd
  let t := { s with msd := { m with uncorrected := ctrAdd m.uncorrected 1, lastAddr := addr / 64 * 64,
                                    lastDetail := memDetail 1 p addr } }
  logWith 3 64 (memDetail 1 p addr) (setStatus bitMem (logStick m.uncorrected 1 t))

/-- The errors of a line: bytes wrong, and whether it fails its check for certain, since it was read from or written to another
address (R317) or was written with poison (R357, log entry 87). -/
abbrev LineMark := Nat × Bool

def State.lineMark (s : State) (a : Nat) : LineMark := peek (0, false) s.msd.lineErr (a / 64)

def State.setMark (s : State) (a : Nat) (m : LineMark) : State :=
  { s with msd := { s.msd with lineErr := put (0, false) s.msd.lineErr (a / 64) m } }

/-- More bytes of a line are wrong. -/
def LineErr.on (e : LineErr) (m : LineMark) : LineMark := (m.1 + e.bytes.toNat, m.2 || e.moved)

/-- Errors have struck stored lines, counted from address `first`; of `n` lines that the command looks at. -/
def State.strike (first n : Nat) (errs : List LineErr) (s : State) : State :=
  errs.foldl (fun t e =>
    let a := first + 64 * e.line.toNat
    if e.line.toNat < n then t.setMark a (LineErr.on e (t.lineMark a)) else t) s

/-- What the check of a line shows (R317). -/
inductive Check where
  | clean | corrected | lost
  deriving DecidableEq, Repr

/-- The check of a line with errors `m`: one wrong byte is corrected, two or three are detected, and of more the outcome is a free
value `v`; whether the bytes delivered are then wrong, too (R317, log entry 86). -/
def checkLine (m : LineMark) (v : Nat) : Check × Bool :=
  if m.2 then (.lost, false)
  else
    match m.1 with
    | 0 => (.clean, false)
    | 1 => (.corrected, false)
    | 2 | 3 => (.lost, false)
    | _ => match v % 3 with | 0 => (.clean, true) | 1 => (.corrected, true) | _ => (.lost, true)

/-- Bytes that nothing determines. -/
def freeLine (v : Nat) : List Byte := (List.range 64).map fun i => Config.freeBits 8 (2 ^ 80 + 64 * v + i)

/-- The lines of a read leave port `p` in ascending order: each is checked against its errors, corrected lines and lines that cannot be
corrected are counted, and the first of the latter is named (R320, R328, R329). `lines` gives address, bytes and errors. -/
def checkLines (p : Nat) : List (Nat × List Byte × LineMark) → State → State × List Byte × Option Nat
  | [], s => (s, [], none)
  | (a, l, m) :: t, s =>
    let v := s.freeCtr
    let s := if 4 ≤ m.1 then s.used else s
    let (c, junk) := checkLine m (Config.free v)
    let s := match c with
      | .clean => s
      | .corrected => memCorrected p s
      | .lost => memUncorrectable p a s
    let (s, rest, bad) := checkLines p t s
    (s, (if junk then freeLine v else l) ++ rest, if c = .lost then some a else bad)

/-- Bytes `a` onward are written: the lines that they cover whole have fresh symbol words (R317). -/
def State.freshMarks (s : State) (a n : Nat) : State :=
  if s.msd.lineErr.isEmpty then s
  else { s with msd := { s.msd with lineErr := s.msd.lineErr.filter fun e =>
    !(decide (a ≤ 64 * e.1) && decide (64 * e.1 + 64 ≤ a + n)) } }

/-! ### What is delivered (R244, R249, R255, R266, R346) -/

/-- Image lines that a transfer's source has yielded beyond those delivered: line by line in plain form without residues, else
the whole image at once (R249). -/
def Xfer.yielded (y : Xfer) : List (List Byte) :=
  if y.geom.dcf = 0 && !y.geom.ck then (pieces 64 (y.src.raw.drop (64 * y.got))).take (y.geom.len - y.got)
  else if y.src.complete && decide (y.got = 0) then y.src.image else []

/-- What the source of a READ has yielded reaches the fold in its cycle `c`, residues with the whole image (R249). -/
def Xfer.advance (y : Xfer) (c : Nat) : Xfer :=
  let ls := y.yielded
  let z := y.deliver c ls
  if y.geom.ck && !ls.isEmpty then { z with resid := some (y.geom.residues ls) } else z

/-- Source lines of a READ reach the memory-side die: a decompression fault, or further requests and delivery. -/
def feedXfer (f t off : Nat) (bytes : List Byte) (s : State) : State :=
  match (s.fold f).xfer t with
  | none => s
  | some y =>
    let src := y.src.absorb off bytes
    match src.bad with
    | some detail => descFault f (dieOf y.src.addr + 1) y.desc 0x22 engDrover detail s
    | none =>
      match askSrc (.xfer f t) true src s with
      | .error a => descFault f 0 y.desc 0x12 engDrover a s
      | .ok (src, s) => s.onFold f fun x => x.setXfer (Xfer.advance { y with src := src } x.ex.cycle)

/-- Source lines of a stream reach its lane's buffer (R255). -/
def feedStream (die id off : Nat) (bytes : List Byte) (s : State) : State :=
  match s.msd.streams.find? fun u => decide (u.die = die) && decide (u.id = id) with
  | none => s
  | some u =>
    let src := u.src.absorb off bytes
    match src.bad with
    | some detail => descFault u.lfold (die + 1) u.desc 0x22 engDrover detail s
    | none =>
      match askSrc (.stream die id) true src s with
      | .error a => descFault u.lfold 0 u.desc 0x12 engDrover a s
      | .ok (src, s) => { s with msd := { s.msd with streams := s.msd.streams.map fun v =>
          if v.die = die ∧ v.id = id then { v with src := src } else v } }

/-- Key of a staging block (R264). -/
def stageKey (die block : Nat) : Nat := 1024 * die + block

def State.stage (s : State) (k : Nat) : Option Stage := peek none s.msd.stages k

def State.setStage (s : State) (k : Nat) (g : Option Stage) : State :=
  { s with msd := { s.msd with stages := put none s.msd.stages k g } }

/-- A staging block is dropped without being served; reads of a stage that was filling still take their slots, and what they bring is
discarded (R271, R274). -/
def dropStage (k : Nat) (s : State) : State :=
  match s.stage k with
  | none => s
  | some _ =>
    let t := s.setStage k none
    logStick s.msd.specDrop 1 { t with msd := { t.msd with specDrop := ctrAdd t.msd.specDrop 1 } }

/-- Marks a speculative stage that met an error: SPECULATIVE_STAGE_READY drops it (R267). -/
def failStage (k : Nat) (s : State) : State :=
  match s.stage k with
  | none => s
  | some g => s.setStage k (some { g with failed := true })

/-- Source lines of the speculative stage `gen` of a block arrive (R266); those of a stage that has been cancelled are discarded
(R271). -/
def feedStage (die block gen off : Nat) (bytes : List Byte) (s : State) : State :=
  let k := stageKey die block
  match s.stage k with
  | none => s
  | some g =>
    let src := g.src.absorb off bytes
    if g.gen ≠ gen then s
    else if src.bad.isSome then failStage k s
    else
      match askSrc (.stage die block gen) true src s with
      | .error _ => failStage k s
      | .ok (src, s) => s.setStage k (some { g with src := src })

/-- Sends the lines of a served read that continue it, in address order (R346); the last ends it. -/
def sendServe (v : Serve) (s : State) : State :=
  let ls := v.src.have - v.sent
  let s := if ls = 0 then s
    else
      let data := (v.src.raw.drop (64 * v.sent)).take (64 * ls)
      let t := s.sendFlit (s.flit v.node clsRS (s.sendTally v.node v.fold 1) v.fold (.rdata v.req data)) v.fold
      t.bumpSendTally v.node v.fold 1 (packetFlits data.length)
  let rest := s.msd.serves.filter fun w => !(decide (w.node = v.node) && decide (w.fold = v.fold) && decide (w.req = v.req))
  { s with msd := { s.msd with serves :=
      if v.src.geom.len ≤ v.src.have then rest else rest ++ [{ v with sent := v.src.have }] } }

def feedServe (node fold req off : Nat) (bytes : List Byte) (s : State) : State :=
  match s.msd.serves.find? fun w => decide (w.node = node) && decide (w.fold = fold) && decide (w.req = req) with
  | none => s
  | some v => sendServe { v with src := v.src.absorb off bytes } s

/-! ### Descriptor bursts (R228) -/

/-- A place in a list that holds no descriptor yet, for a fault of its burst. -/
def blankDesc (a : Nat) : Desc := { addr := a, akind := 2, w := 0 }

/-- A fault at the first descriptor of a list; the list goes no further (log entry 19). -/
def listFault (f dl : Nat) (d : Desc) (code die engine detail : Nat) (s : State) : State :=
  let t := s.onFold f fun x => { x with dr := x.dr.setList dl { x.dr.list dl with live := false, asked := false, buf := [] } }
  descFault f die d code engine detail t

/-- The descriptors of a burst up to a LINK or an END. -/
def untilEnd : List Desc → List Desc
  | [] => []
  | d :: t => if d.kind = kEnd || d.kind = kLink then [d] else d :: untilEnd t

/-- The whole descriptors in the bytes that lie at address `a`. -/
def descsIn (a : Nat) (l : List Byte) : List Desc :=
  untilEnd ((enumFrom 0 (pieces 32 l)).filterMap fun e =>
    if e.2.length = 32 then some { addr := a + 32 * e.1, akind := 2, w := BitVec.ofNat 256 (leNat e.2) } else none)

/-- The bytes from a list's next address to its block's end join the list (R228). -/
def takeBurst (f dl : Nat) (l : List Byte) (s : State) : State :=
  s.onFold f fun x =>
    let d := x.dr.list dl
    let e := { d with buf := d.buf ++ descsIn d.next l, next := d.next + l.length / 32 * 32, asked := false }
    { x with dr := x.dr.setList dl e }

/-- The burst that list `dl` has asked for comes: the block at `addr` (R228). -/
def feedBurst (f dl addr : Nat) (bytes : List Byte) (s : State) : State :=
  let l := (s.fold f).dr.list dl
  if l.live && l.asked && decide (l.next / 512 * 512 = addr) then takeBurst f dl (bytes.drop (l.next % 512)) s else s

/-! ### What leaves a port (R320, R329) -/

/-- The lines of a read slot leave the port for whoever asked (R320). -/
def feed (r : Req) (bytes : List Byte) (s : State) : State :=
  match r.who with
  | .xfer f t => feedXfer f t r.off bytes s
  | .stream die id => feedStream die id r.off bytes s
  | .stage die b g => feedStage die b g r.off bytes s
  | .burst f dl => feedBurst f dl r.addr bytes s
  | .dev k => s.onDevRead k fun d => { d with left := d.left - 1, mem := putRun memDefault d.mem r.addr bytes }
  | .cxl _ => { s with host := { s.host with cxlOut := s.host.cxlOut ++ [.data r.addr bytes] } }
  | .remote n f q => feedServe n f q r.off bytes s
  | .remoteW _ _ => s

/-- What a line in a read slot that cannot be corrected does to whoever asked (R329); a peer's read is not answered. -/
def feedBad (p addr : Nat) (r : Req) (s : State) : State :=
  let die := portDie s.chip.grade p + 1
  match r.who with
  | .xfer f t =>
    match (s.fold f).xfer t with
    | some y => descFault f die y.desc 0x53 engPort (memDetail 1 p addr) s
    | none => s
  | .stream die id =>
    match s.msd.streams.find? fun u => decide (u.die = die) && decide (u.id = id) with
    | some u => descFault u.lfold (die + 1) u.desc 0x53 engPort (memDetail 1 p addr) s
    | none => s
  | .stage d b g =>
    match s.stage (stageKey d b) with
    | some v => if v.gen = g then failStage (stageKey d b) s else s
    | none => s
  | .burst f dl =>
    let l := (s.fold f).dr.list dl
    if l.live && l.asked then listFault f dl (blankDesc l.next) 0x53 die engPort (memDetail 1 p addr) s else s
  | .dev k => s.onDevRead k fun d => { d with left := d.left - 1, bad := some (d.bad.getD addr) }
  | .cxl _ => { s with host := { s.host with cxlOut := s.host.cxlOut ++ [.poison r.addr] } }
  | .remote _ _ _ | .remoteW _ _ => s

/-! ### Writes (R271, R272, R319, R320, R329) -/

/-- Source lines that the part of a stage can have: those that its masks have shown, or the most there can be (R248). -/
def Stage.reach (g : Stage) : Nat :=
  if g.src.known.2 then g.src.known.1 else ceilDiv g.src.geom.len 512 + g.src.geom.len

/-- Every granule of a stage's part (R271). -/
def Stage.granules (g : Stage) : List Nat :=
  (Machine.granules g.src.lineAddr g.reach 0 g.reach).map fun r => r.2.1 / 4096

/-- A write drops the stages whose part it touches (R271, R272). -/
def dropTouched (addr : Nat) (s : State) : State :=
  s.msd.stages.foldl (fun t e =>
    match e.2 with
    | some g => if g.granules.contains (addr / 4096) then dropStage e.1 t else t
    | none => t) s

/-- Lines that bytes `a` onward touch are not written back by the scrubber any more: what it read of them is old (log entry 109). -/
def State.unfix (s : State) (a n : Nat) : State :=
  let p := portOf s.chip.grade a
  let q := s.port p
  if q.fixing.isEmpty then s
  else s.setPort p { q with fixing := q.fixing.filter fun e => !(decide (e.1 < a + n) && decide (a < e.1 + 64)) }

/-- Bytes reach stored lines of one granule: stages whose part they touch are dropped, and lines written whole hold no error. -/
def State.store (a : Nat) (l : List Byte) (s : State) : State :=
  ((dropTouched a (s.pokeMem a l)).freshMarks a l.length).unfix a l.length

/-- One piece of a device write that stays within a line: inside an active window it waits for the host's BIRsp (R361). -/
def State.writePiece (s : State) (a : Nat) (l : List Byte) : State :=
  if s.windowed a then { s with host := { s.host with snoop := s.host.snoop ++ [(a, l)] } } else s.store a l

/-- A device write of bytes at address `a`, line by line, `fuel` at least the number of lines. -/
def State.writeDevFuel : Nat → State → Nat → List Byte → State
  | 0, s, _, _ => s
  | n + 1, s, a, l =>
    if l.isEmpty then s
    else
      let k := 64 - a % 64
      (State.writeDevFuel n (s.writePiece a (l.take k)) (a + k) (l.drop k))

/-- A write by the device to device memory takes effect (R320, R361). -/
def State.writeDev (s : State) (a : Nat) (l : List Byte) : State := State.writeDevFuel (l.length / 64 + 2) s a l

/-- `n` lines of the transfer in slot `t` of fold `f` have been written. -/
def wroteLines (f t n : Nat) (s : State) : State :=
  s.onFold f fun x =>
    match x.xfer t with
    | some y => x.setXfer { y with left := y.left - n, done := decide (y.left ≤ n) }
    | none => x

/-- A write slot's request takes effect (R320); a write of the host itself needs no back-invalidate (R361), and a poisoned one leaves
its lines failing their check (R357, log entry 87). -/
def performWrite (r : Req) (s : State) : State :=
  match r.who with
  | .xfer f x => wroteLines f x r.n (s.writeDev r.addr r.data)
  | .cxl poison =>
    let t := s.store r.addr r.data
    let t := if poison then t.setMark r.addr (0, true) else t
    { t with host := { t.host with cxlOut := t.host.cxlOut ++ [.done r.addr] } }
  | _ => s.writeDev r.addr r.data

/-- A partial write that meets a line it cannot correct leaves the granule unchanged (R329). A write of the device's own raises no
fault: the error has been logged, with LOG and MEM (R412). -/
def writeBad (p addr : Nat) (r : Req) (s : State) : State :=
  match r.who with
  | .xfer f t =>
    match (s.fold f).xfer t with
    | some y => descFault f (portDie s.chip.grade p + 1) y.desc 0x53 engPort (memDetail 1 p addr) s
    | none => s
  | _ => s

/-- A write covers the line at address `a` whole. -/
def Req.covers (r : Req) (a : Nat) : Bool := decide (r.addr ≤ a) && decide (a + 64 ≤ r.addr + r.data.length)

/-- The groups of 16 lines that a write touches (R316, R319): the address of the first line, and lines. -/
def Req.groups (r : Req) : Nat × Nat :=
  let lo := r.addr / 1024
  (1024 * lo, 16 * ((r.addr + r.data.length + 1023) / 1024 - lo))

/-- The lines that a write reads besides: those it does not cover whole, of groups it covers only in part (R319). -/
def partLines (s : State) (r : Req) : List (Nat × List Byte × LineMark) :=
  let g := r.groups
  (List.range g.2).filterMap fun i =>
    let a := g.1 + 64 * i
    if r.covers a then none else some (a, [], s.lineMark a)

/-! ### DATA_SLOT, READ_DATA_OUT, MAINTENANCE_PERIOD, PORT_FAILURE -/

/-- The port of the grade serves: its memory is trained (R325) and it has not failed (R327). -/
def portServes (p : Nat) (s : State) : Bool :=
  decide (p < s.chip.grade.ports) && !(s.port p).failed && (decide (s.chip.phase = .trained) || decide (s.chip.phase = .ready))

/-- Data slots of a port's cycle, which a maintenance period ends (R318). -/
def cycleSlots : Nat := 15

/-- The request that a slot of class `c` serves, and the port without it: the device's own first (R258, R260). -/
def Port.next (p : Port) (split : Nat × Nat × Nat) (c : MemCls) : Option (Req × Port) :=
  match p.dq.findIdx? fun r => decide (deviceClass split r.wr = c) with
  | some i => p.dq[i]?.map fun r => (r, { p with dq := p.dq.eraseIdx i })
  | none =>
    match c, p.rq, p.wq, p.xq with
    | .read, r :: l, _, _ => some (r, { p with rq := l })
    | .write, _, r :: l, _ => some (r, { p with wq := l })
    | .remote, _, _, r :: l => some (r, { p with xq := l })
    | _, _, _, _ => none

/-- A request takes its slot at port `p` (R319, R320): a read takes the lines that the memory holds in this slot, and a write takes
effect within it, unless a line that it reads besides cannot be corrected. `errs` strike the lines that the slot looks at. -/
def serveReq (p : Nat) (e : Req) (errs : List LineErr) (s : State) : State :=
  if e.wr then
    let g := e.groups
    let s := s.strike g.1 g.2 errs
    let (t, _, bad) := checkLines p (partLines s e) s
    match bad with
    | some a => writeBad p a e t
    | none => performWrite e t
  else
    let s := s.strike e.addr e.n errs
    let marks := (List.range e.n).map fun i => s.lineMark (e.addr + 64 * i)
    let q := s.port p
    s.setPort p { q with out := q.out ++ [(e, s.readMem e.addr (64 * e.n), marks)] }

/-- DATA_SLOT (R258, R260, R318, R319, R320): the slot's class serves its earliest request, or the slot stays idle. `errs` are errors
that have struck the stored lines. -/
def execDataSlot (port : BitVec 5) (errs : List LineErr) (s : State) : Res :=
  let n := port.toNat
  let p := s.port n
  whileClocked s (if !portServes n s || decide (cycleSlots ≤ p.place) then s
    else
      let c := slotClass s.msd.split p.slot
      let p := { p with slot := (p.slot + 1) % 100, place := p.place + 1 }
      match p.next s.msd.split c with
      | none => s.setPort n p
      | some (e, p) => serveReq n e errs (s.setPort n p))

/-- READ_DATA_OUT (R317, R320, R328, R329): the lines of the port's earliest read slot leave it. `errs` are errors of this crossing
alone. -/
def execReadDataOut (port : BitVec 5) (errs : List LineErr) (s : State) : Res :=
  let n := port.toNat
  let p := s.port n
  whileClocked s (match p.out with
    | [] => s
    | (e, bytes, marks) :: rest =>
      let lines := (enumFrom 0 (pieces 64 bytes)).map fun l =>
        (e.addr + 64 * l.1, l.2, errs.foldl (fun m x => if x.line.toNat = l.1 then LineErr.on x m else m) (marks.getD l.1 (0, false)))
      let (t, data, bad) := checkLines n lines (s.setPort n { p with out := rest })
      match bad with
      | none => feed e data t
      | some a => feedBad n a e t)

/-- The scrubber reads the line at `a`; one that it corrects joins those to be written back, as it was delivered (R322). -/
def scrubLine (p : Nat) (r : State × List (Nat × List Byte)) (a : Nat) : State × List (Nat × List Byte) :=
  let s := r.1
  let m := s.lineMark a
  let (t, bytes, _) := checkLines p [(a, s.readMem a 64, m)] s
  (t, if (checkLine m (Config.free s.freeCtr)).1 = .corrected then r.2 ++ [(a, bytes)] else r.2)

/-- The scrubber reads part `x` of port `p` (R322): a line that it corrects is written back in the next period. -/
def scrub (p : Nat) (x : ScrubPart) (errs : List LineErr) (s : State) : State :=
  match x with
  | .groupLines _ | .symbols _ => s
  | .payload l i =>
    let first := granuleAddr s.chip.grade p l + 64 * i
    let s := s.strike first 4 errs
    let r := ((List.range 4).map fun k => first + 64 * k).foldl (scrubLine p) (s, [])
    r.1.setPort p { r.1.port p with fixing := r.2 }

/-- The scrubber writes a line back: it holds the bytes that the scrubber delivered, without an error. -/
def writeBack (s : State) (e : Nat × List Byte) : State := (s.pokeMem e.1 e.2).setMark e.1 (0, false)

/-- MAINTENANCE_PERIOD (R318, R321, R322, R327-R329, R430): the scrubber reads four raw lines, or writes back lines it corrected. A group
line that does not match its pattern is PORT_FAILURE. -/
def execMaintenancePeriod (port : BitVec 5) (errs : List LineErr) (s : State) : Res :=
  let n := port.toNat
  let p := s.port n
  whileClocked s (if !portServes n s || decide (p.place < cycleSlots) then s
    else if !p.fixing.isEmpty then
      p.fixing.foldl writeBack (s.setPort n { p with place := 0, fixing := [] })
    else
      let k := p.scrub + 1
      let last := decide (scrubPeriods s.msd.rawGiB ≤ k)
      let t := scrub n (scrubPart p.scrub) errs (s.setPort n { p with place := 0, scrub := if last then 0 else k })
      let b := s.msd.scrubPass
      if last then logStick b 1 { t with msd := { t.msd with scrubPass := ctrAdd b 1 } } else t)

/-- The stored training record of a failed port serves no more: the next reset trains it in full (R327). -/
def failRecord (p : Nat) (s : State) : State :=
  let l := s.look.kept.recs.now []
  let v := (peek none l p).map fun r => { r with ok := false }
  s.keep fun k => { k with recs := k.recs.write (put none l p v) }

/-- PORT_FAILURE (R327): the port is failed until a reset trains it in full, FATAL and MEM are set, and the job aborts (R419). -/
def execPortFailure (port : BitVec 5) (s : State) : Res :=
  let n := port.toNat
  whileClocked s (if !portServes n s then s
    else
      let t := failRecord n (s.setPort n { s.port n with failed := true })
      let t := t.setDetail (memDetail 3 n 0)
      setFatal 3 (some (t.repNone 0x53 (portDie s.chip.grade n + 1) engPort (memDetail 3 n 0))) (setStatus bitMem t))

end Sys2Proof.Machine
end

