-- ==== Sys2Proof/Machine/Trans.lean ====
section
/-! DEFINITION. Host memory as transfers reach it (R362-R365): the translation table, its requests, and what a transfer
moves once a page is translated. -/
namespace Sys2Proof.Machine

/-! ### The translation table (R362) -/

/-- The page of a host address is translated, with permission for the access. -/
def State.mayAccess (s : State) (a : Nat) (wr : Bool) : Bool :=
  match s.transOf (pageOf a) with
  | some e => if wr then e.wr else e.rd
  | none => false

/-- Page requests that may be outstanding (R364). -/
def maxPageReqs : Nat := 64

/-- An access of transfer `t` of fold `f` to a host address that it may not make yet: a miss sends an ATS Translation Request
(R362), a translation without permission a PRI Page Request (R364). -/
def needPage (f t a : Nat) (wr : Bool) (s : State) : State :=
  let page := pageOf a
  let h := s.host
  match s.transOf page with
  | none =>
    if h.ats.any fun r => decide (r.1 = page) && decide (r.2.2 = (f, t)) then s
    else logStick h.misses 1
      { s with host := { h with ats := h.ats ++ [(page, wr, f, t)], misses := ctrAdd h.misses 1 } }
  | some _ =>
    if (h.pri.any fun r => decide (r = (page, f, t))) || decide (maxPageReqs ≤ h.pri.length) then s
    else logStick h.pageReqs 1
      { s with host := { h with pri := h.pri ++ [(page, f, t)], pageReqs := ctrAdd h.pageReqs 1 } }

/-! ### Host memory that the device reads and writes for itself (R362) -/

/-- Slots of the translation requests of the device's own accesses, beside those of transfers (0-63) and bursts (64, 65): those that it
makes for the job that runs, and the others. -/
def jobSlot : Nat := 66
def ownSlot : Nat := 67

/-- The pages that `n` bytes from `a` touch, when they lie in host memory. -/
def hostPages (a n : Nat) : List Nat := if isHost a then (pageRuns (n / 4096 + 2) a n).map fun r => r.1 else []

/-- The device may make its accesses `l`: address, bytes and whether it writes. -/
def State.ownReady (s : State) (l : List (Nat × Nat × Bool)) : Bool :=
  l.all fun e => (hostPages e.1 e.2.1).all fun a => s.mayAccess a e.2.2

/-- The device asks for the translations that its accesses `l` lack. -/
def State.askPages (slot : Nat) (l : List (Nat × Nat × Bool)) (s : State) : State :=
  l.foldl (fun t e => (hostPages e.1 e.2.1).foldl
    (fun t a => if t.mayAccess a e.2.2 then t else needPage 0 slot a e.2.2 t) t) s

/-- The device asks for the translations of accesses for rings, records and job starts. -/
def State.ownAsk (l : List (Nat × Nat × Bool)) (s : State) : State := s.askPages ownSlot l

/-- The device asks for the translations of accesses for the running job. -/
def State.jobAsk (l : List (Nat × Nat × Bool)) (s : State) : State := s.askPages jobSlot l

/-! ### Transfers to and from host memory (R365) -/

/-- Lines of a transfer written so far. -/
def Xfer.written (y : Xfer) : Nat := y.geom.len - y.left

/-- A host READ takes the lines of each translated page in turn, and stalls at the first page it may not read. -/
def pumpRead : Nat → Nat → Nat → State → State
  | 0, _, _, s => s
  | n + 1, f, t, s =>
    match (s.fold f).xfer t with
    | none => s
    | some y =>
      if y.geom.len ≤ y.src.have then s
      else
        let a := y.src.lineAddr y.src.have
        if s.mayAccess a false then
          let k := min (64 - a / 64 % 64) (y.geom.len - y.src.have)
          let z := { y with src := { y.src with raw := y.src.raw ++ s.readMem a (64 * k), asked := y.src.have + k } }
          pumpRead n f t (s.onFold f fun x => x.setXfer (z.advance x.ex.cycle))
        else needPage f t a false s

/-- A host WRITE writes the lines of each translated page in turn. -/
def pumpWrite : Nat → Nat → Nat → State → State
  | 0, _, _, s => s
  | n + 1, f, t, s =>
    match (s.fold f).xfer t with
    | none => s
    | some y =>
      if y.left = 0 then s
      else
        let a := y.src.addr + 64 * y.written
        if s.mayAccess a true then
          let k := min (64 - a / 64 % 64) y.left
          let data := ((y.ready.drop y.written).take k).flatMap id
          let s := s.writeHost a data
          pumpWrite n f t (s.onFold f fun x => x.setXfer { y with left := y.left - k, done := decide (y.left ≤ k) })
        else needPage f t a true s

/-- A transfer whose source or destination is in host memory. -/
def Xfer.host (y : Xfer) : Bool := isHost y.src.addr && !y.desc.peer

/-- A host transfer moves on as far as its translations permit. -/
def pump (f : Nat) (y : Xfer) (s : State) : State :=
  if !y.host || y.held then s
  else if y.desc.kind = kRead then pumpRead (y.geom.len + 1) f y.slot s
  else if y.desc.kind = kWrite && y.arrived then pumpWrite (y.geom.len + 1) f y.slot s
  else s

/-- Every host transfer of the job moves on as far as its translations permit. -/
def pumpAll (s : State) : State :=
  match s.job with
  | none => s
  | some j => j.places.foldl (fun t f => (t.fold f).dr.xfers.foldl (fun u y => pump f y u) t) s

/-- Pages that a transfer in flight pins: its current one and the next (R362). -/
def Xfer.pins (y : Xfer) : List Nat :=
  if !y.host || y.done then []
  else
    let n := if y.desc.kind = kRead then y.src.have else y.written
    let p := pageOf (y.src.addr + 64 * n)
    [p, p + 4096]

def State.pinned (s : State) (e : TtEnt) : Bool :=
  match s.job with
  | none => false
  | some j => j.places.any fun f => (s.fold f).dr.xfers.any fun y => y.pins.any fun p => e.covers s.jobPasid p

/-- The number of entries of the table. -/
def ttSize : Nat := 4096

/-- The first entry from `v` on, in turn, that is not pinned. -/
def victimFrom (s : State) : Nat → Nat → Nat
  | 0, v => v
  | n + 1, v =>
    match s.host.tt[v]? with
    | some e => if s.pinned e then victimFrom s n ((v + 1) % ttSize) else v
    | none => v

/-- Fills an entry (R362): the lowest-numbered invalid one, or the victim. -/
def fillEntry (e : TtEnt) (s : State) : State :=
  let h := s.host
  match h.tt.findIdx? fun x => !x.valid with
  | some i => { s with host := { h with tt := h.tt.set i e } }
  | none =>
    if h.tt.length < ttSize then { s with host := { h with tt := h.tt ++ [e] } }
    else
      let v := victimFrom s ttSize h.victim
      { s with host := { h with tt := h.tt.set v e, victim := (v + 1) % ttSize } }

end Sys2Proof.Machine
end

