-- ==== Sys2Proof/Machine/Drover.lean ====
section
/-! DEFINITION. The drover (R227-R249, R261): bursts, descriptor starts, source reads, landings in drover-owned cycles
(R107, R247, R533), and completion. -/
namespace Sys2Proof.Machine

/-! ### Starting a descriptor (R230-R233) -/

/-- The debugger stops the fold's shepherd and drover, too (R518). -/
def Debug.stopsAll (d : Debug) : Bool := d.all && d.busy

/-- The drover of a fold walks its lists: the job runs and no debug halt, preemption or stop holds it (R233, R257, R518). -/
def droverRuns (s : State) (x : Fold) : Bool :=
  decide (x.ex.run = .running) && !x.db.stopsAll &&
    match s.job with
    | some j => decide (j.phase = .running)
    | none => false

/-- The shepherd's wait takes pennant `p` before a descriptor may (R302); a shepherd that is halted serves none. -/
def Fold.shTakes (x : Fold) (p : Nat) : Bool :=
  !x.db.stopsAll && match x.sh.wait.map (·.on) with
    | some (WaitOn.shPwait q n) => decide (q.toNat = p) && decide (n.toNat ≤ x.qu.pennant p)
    | _ => false

/-- The stall point of this cycle is a q.send of channel `c`: it takes the last credit before a CHAN may (R294). -/
def Fold.sendsOn (s : State) (x : Fold) (c : Nat) : Bool := decide ((x.coming s).bind stallSend = some c)

/-- A wait of the fold takes, in this cycle, what the descriptor would: a pennant that it spends (R232, R302), or the last credit of
its channel (R294). -/
def Desc.yields (d : Desc) (s : State) (x : Fold) : Bool :=
  (d.spends.any fun p => x.stallTakes s p.1 || x.shTakes p.1) ||
    (decide (d.kind = kChan) && decide ((peek Chan.init x.qu.chans d.ch).credits = 1) && x.sendsOn s d.ch)

/-- Encoding faults that a descriptor raises wherever it stands (R58, R229, R236, R243, R261). -/
def Desc.decodeBad (d : Desc) (dl : Nat) : Bool :=
  (decide (d.wn ≠ 0) && decide (47 < d.wpn)) || (d.ntf && decide (47 < d.npn)) ||
    (decide (d.kind = kFold) && decide (47 < d.cpn)) || (decide (d.kind = kChan) && decide (16 < d.fLen)) ||
    (decide (2 ≤ dl) && (decide (d.kind = kEnd) || decide (d.kind = kLink))) || decide (kClaim < d.kind)

/-- Detail word of an encoding fault at a descriptor (R418). -/
def encDetail : Nat := detailSlot 6

/-- The lowest transfer slot that is free. -/
def Fold.freeSlot (x : Fold) : Nat := ((List.range 64).find? fun t => (x.xfer t).isNone).getD 0

/-- Starts a descriptor: what it spends (R231), the rotation (R230) and the trace record (R527). -/
def takeStart (f dl : Nat) (d : Desc) (s : State) : State :=
  let t := s.onFold f fun x =>
    let y := d.spends.foldl (fun (y : Fold) p =>
      { y with qu := { y.qu with pn := put 0 y.qu.pn p.1 (peek 0 y.qu.pn p.1 - BitVec.ofNat 16 p.2) } }) x
    let r := y.dr.pop dl
    { y with dr := { r with rot := dl, lastStart := some y.ex.cycle } }
  t.tr f 3 engDrover d.ttag d.addr

/-- A descriptor of kind `kind` at the head of list `dl`: it raises a fault, starts by `act`, or does not start in this state.
`bad` gives the lowest fault found at its start: code, die and detail. -/
def startDesc (s : State) (f dl kind : Nat) (bad : State → Fold → Desc → Option (Nat × Nat × Nat))
    (act : State → Fold → Desc → State) : State :=
  let x := s.fold f
  match x.dr.head dl with
  | none => s
  | some d =>
    if d.kind ≠ kind || !droverRuns s x then s
    else if d.decodeBad dl then listFault f dl d 0x10 0 engDrover encDetail s
    else if !d.canStart x || !x.firstInTurn dl || decide (x.dr.lastStart = some x.ex.cycle) || x.late x.ex.cycle || d.yields s x
    then s
    else
      match bad s x d with
      | some (code, die, detail) => listFault f dl d code die engDrover detail s
      | none =>
        let t := takeStart f dl d s
        act t (t.fold f) d

/-- What a completed descriptor emits: its token and its notification (R244-R246, R301, R527). -/
def emit (f : Nat) (d : Desc) (s : State) : State :=
  let s := s.tr f 4 engDrover d.ttag d.addr
  let s := if d.tok then s.onFold f fun x => { x with dr := { x.dr with tokens := x.dr.tokens ++ [d.ttag] } } else s
  if d.ntf then
    match s.job.bind fun j => j.place d.nfold with
    | some g => s.onFold f fun x => x.sendPn f g d.npn 1 engDrover d.akind d.addr d.ttag
    | none => s
  else s

/-- A transfer completes (R244). -/
def finish (f : Nat) (y : Xfer) (s : State) : State := emit f y.desc (s.onFold f fun x => x.dropXfer y.slot)

/-! ### Bursts (R228) -/

/-- Class, die and detail of a share fault (R259, R418); a class with a share raises none. -/
def shareBad (s : State) (c : MemCls) (a : Nat) : Option (Nat × Nat × Nat) :=
  if shareOf s.msd.split c = 0 then
    some (0x20, 0, at_ 62 2 (match c with | .read => 0 | .write => 1 | .remote => 2) + at_ 0 3 (dieOf a + 1))
  else none

/-- DESCRIPTOR_BURST (R228, R258, R261, R314): memory list DL0 or DL1 requests the aligned 512-byte block that holds its next
descriptor: of the read class at its port, or at once of the host. `block` is the block's address. A host block that is not translated asks for its translation; slots
64 and 65 of the translation requests are the two lists. -/
def execDescriptorBurst (f : FoldId) (dl1 : Bool) (block : BitVec 64) (s : State) : Res :=
  let n := f.toNat
  let dl := b2n dl1
  let x := s.fold n
  let l := x.dr.list dl
  let a := l.next
  let b := a / 512 * 512
  whileClocked s (if !droverRuns s x || !l.burstDue || l.asked || block.toNat ≠ b then s
    else if isHost a then
      if s.mayAccess a false then takeBurst n dl ((s.readMem b 512).drop (a % 512)) s else needPage n (64 + dl) a false s
    else if s.limit ≤ a then listFault n dl (blankDesc a) 0x12 0 engDrover a s
    else
      match shareBad s .read a with
      | some (code, die, detail) => listFault n dl (blankDesc a) code die engDrover detail s
      | none =>
        let lines := min 512 (s.limit - b) / 64
        let t := s.onFold n fun x => { x with dr := x.dr.setList dl { l with asked := true } }
        t.ask .read { who := .burst n dl, off := 0, addr := b, n := lines, wr := false, data := [] })

/-! ### END, LINK, SYNC (R235, R236) -/

/-- END (R236): stops a memory list. -/
def execEnd (f : FoldId) (dl : BitVec 2) (s : State) : Res :=
  let n := f.toNat
  let x := s.fold n
  whileClocked s (match x.dr.head dl.toNat with
    | none => s
    | some d =>
      if d.kind ≠ kEnd || !droverRuns s x then s
      else if d.decodeBad dl.toNat then listFault n dl.toNat d 0x10 0 engDrover encDetail s
      else s.setFold n { x with dr := x.dr.setList dl.toNat { x.dr.list dl.toNat with live := false, asked := false, buf := [] } })

/-- LINK (R228, R231, R236): the list continues at ADDR, or DL1 starts there. Its fields but KIND, ADDR and FORK are reserved. -/
def execLink (f : FoldId) (dl : BitVec 2) (s : State) : Res :=
  let n := f.toNat
  let i := dl.toNat
  let x := s.fold n
  whileClocked s (match x.dr.head i with
    | none => s
    | some d =>
      if d.kind ≠ kLink || !droverRuns s x then s
      else if 2 ≤ i || (d.fork && decide (i = 1)) then listFault n i { d with w := 0 } 0x10 0 engDrover encDetail s
      else if d.next % 32 ≠ 0 then listFault n i { d with w := 0 } 0x12 0 engDrover d.next s
      else if d.fork then
        if x.dr.dl1.live then s
        else s.setFold n { x with dr := { x.dr with
          dl0 := { next := d.addr + 32, live := true, asked := false, buf := [] }, dl1 := { next := d.next, live := true, asked := false, buf := [] } } }
      else s.setFold n { x with dr := x.dr.setList i { next := d.next, live := true, asked := false, buf := [] } })

/-- The absent fold that a descriptor notifies (R245). -/
def notifyBad (s : State) (d : Desc) : Option (Nat × Nat × Nat) :=
  if d.ntf then (absentFold s d.nfold).map fun v => (0x1A, 0, v) else none

/-- SYNC (R235, R244): completes in its start cycle. -/
def execSync (f : FoldId) (dl : BitVec 2) (s : State) : Res :=
  whileClocked s (startDesc s f.toNat dl.toNat kSync (fun s _ d => notifyBad s d) fun s _ d => emit f.toNat d s)

/-- RESERVED_DESCRIPTOR_KIND (R235, R261): an encoding fault at a descriptor whose KIND is reserved. -/
def execReservedDescriptorKind (f : FoldId) (dl : BitVec 2) (s : State) : Res :=
  let x := s.fold f.toNat
  whileClocked s (match x.dr.head dl.toNat with
    | none => s
    | some d =>
      if d.kind ≤ kClaim || !droverRuns s x then s else listFault f.toNat dl.toNat d 0x10 0 engDrover encDetail s)

/-! ### READ and WRITE (R237-R242) -/

/-- The geometry of a READ or WRITE. -/
def Desc.geom (d : Desc) : Geom :=
  { len := d.len, gstr := d.gstr, fmt := d.fmt, rbc := d.rbc, rows := d.rows, wt := d.wt, spl := d.spl,
    ck := d.ck && decide (d.kind = kRead), dcf := if d.kind = kRead then d.dcf else 0, spanC := d.spanC }

def Desc.land (d : Desc) : Land :=
  { tiles := decide (d.dk = 1), line := d.line, tile := d.tile, row0 := d.row0, cks := d.cks }

/-- Encoding faults of an image's geometry: a reserved SPAN, SPL, FMT or DCF, or residues for a format that no product takes
(R237, R249, R251). -/
def Geom.encBad (g : Geom) : Bool :=
  decide (g.spanC = 3) || decide (g.spl = 3) || decide (0xB < g.fmt) || decide (2 ≤ g.dcf) || (g.ck && (statCls g.fmt).isNone)

/-- CKS breaks R168 for the residues of an image. -/
def cksBad (g : Geom) (cks : Nat) : Bool :=
  g.ck && match statCls g.fmt with
    | some c => decide (cks % c.slots ≠ 0)
    | none => false

/-- Tile `t` does not take rows `row0` on of an image: rule and tile (R88, R239). -/
def tileBad (x : Tiles) (g : Geom) (row0 t : Nat) : Option Nat :=
  if !x.used t then some 88
  else
    let w := x.word t
    if cfgFmt w ≠ g.fmt || cfgRbc w ≠ g.rbc || decide (cfgRows w < row0 + g.rows) then some 239 else none

/-- The first tile of a WRITE's span that breaks R88, then R239. -/
def spanTileBad (x : Tiles) (g : Geom) (row0 tile : Nat) : Option Nat :=
  let ts := (List.range g.tiles).map fun k => tile + k
  match ts.find? fun t => decide (t < 16) && decide (tileBad x g row0 t = some 88) with
  | some t => some (detailShapeTile 88 t)
  | none => (ts.find? fun t => decide (t < 16) && decide (tileBad x g row0 t = some 239)).map fun t => detailShapeTile 239 t

/-- Shape faults of a READ or WRITE at its start (R168, R239, R249). A span of tiles that runs past T15 breaks R239 at its first tile (log
entry 105). -/
def rwShape (x : Fold) (d : Desc) : Option Nat :=
  let g := d.geom
  let wrTile := if d.kind = kWrite ∧ d.dk = 1 then spanTileBad x.ti g d.row0 d.tile else none
  let lenBad := d.dk = 1 ∧ (16 < d.tile + g.tiles ∨ d.len ≠ g.spanLines)
  if cksBad g d.cks then some (detailShape 168)
  else
    match wrTile with
    | some w => if lenBad ∧ w / 2 ^ 48 ≠ 88 then some (detailShapeTile 239 d.tile) else some w
    | none =>
      if lenBad then some (detailShapeTile 239 d.tile)
      else if g.ck ∧ d.len ≠ g.spanLines then some (detailShape 249) else none

/-- The first scratchpad line of a span that does not exist, or, for a landing, that lies in a region of the fold itself
(R242, R261). -/
def linesBad (x : Fold) (first n : Nat) (landing : Bool) : Option Nat :=
  if spLines < first + n then some (max first spLines)
  else if landing then
    let own := x.qu.qtab.map (fun e => (e.2.base, e.2.lines)) ++ x.qu.wtab.map fun e => (e.2.base, e.2.lines)
    (own.filterMap fun r => if first < r.1 + r.2 ∧ r.1 < first + n then some (max first r.1) else none).min?
  else none

/-- Address faults of a READ or WRITE at its start (R228, R237, R240, R242, R314, R342). -/
def rwAddr (s : State) (x : Fold) (d : Desc) : Option Nat :=
  let a := d.mem
  let peerBad := d.peer && (s.route d.node x.ex.prog).isNone
  if peerBad then some (Config.absentDetail d.node)
  else if a % 64 ≠ 0 then some a
  else if !isHost a && decide (fld a 41 22 ≠ 0) then some a
  else
    let g := d.geom
    let first := if g.dcf = 0 then g.len else 1
    let run := if isHost a || d.peer then [] else granules (fun i => lineAddr a g.gstr i) first 0 first
    match rangeBad s.limit (g.ck || decide (g.dcf ≠ 0)) a run with
    | some b => some b
    | none => if d.dk = 0 then linesBad x d.line d.len (decide (d.kind = kRead)) else none

/-- The lowest fault of a READ or WRITE at its start (R241, R261, R532). -/
def rwBad (c : MemCls) (s : State) (x : Fold) (d : Desc) : Option (Nat × Nat × Nat) :=
  let far := isHost d.mem || d.peer
  if decide (2 ≤ d.dk) || d.geom.encBad || (far && (d.ck || decide (d.dcf ≠ 0))) then
    some (0x10, 0, encDetail)
  else
    match rwShape x d with
    | some w => some (0x11, 0, w)
    | none =>
      match rwAddr s x d with
      | some a => some (0x12, 0, a)
      | none =>
        match notifyBad s d with
        | some b => some b
        | none => if far then none else shareBad s c d.mem

/-- A transfer as it starts. -/
def newXfer (x : Fold) (d : Desc) (g : Geom) (l : Land) (a : Nat) : Xfer :=
  { slot := x.freeSlot, desc := d, start := x.ex.cycle, hold := x.mx.vStarted, geom := g, land := l,
    src := { addr := a, geom := g, asked := 0, raw := [], early := [] }, ready := [], got := 0, had := 0, landed := 0,
    asked := [], since := x.ex.cycle, crc := 0xFFFFFFFF, resid := none, sent := false, left := 0, arrived := false, done := false, held := false }

def addXfer (f : Nat) (y : Xfer) (s : State) : State :=
  s.onFold f fun x => { x with dr := { x.dr with xfers := x.dr.xfers ++ [y] } }

/-- The request flit of a peer READ, for its lines from line `first` on (R257, R346). -/
def askPeer (f : Nat) (y : Xfer) (first : Nat) (s : State) : State :=
  let p := (s.fold f).ex.prog
  let d := y.desc
  let body : FlitBody := .rread y.slot (y.src.lineAddr first) (y.geom.len - first) y.geom.gstr
  let t := s.sendFlit (s.flit d.node clsRQ (s.sendTally d.node p 0) p body) p
  t.bumpSendTally d.node p 0 1

/-- Requests the source of a started READ: from its die, from the peer, or from host memory (R240, R249, R346, R362). -/
def startRead (f : Nat) (y : Xfer) (s : State) : State :=
  if y.desc.peer then askPeer f y 0 (addXfer f { y with src := { y.src with asked := y.geom.len } } s)
  else if isHost y.src.addr then pumpRead (y.geom.len + 1) f y.slot (addXfer f y s)
  else
    match askSrc (.xfer f y.slot) (y.geom.ck || decide (y.geom.dcf ≠ 0)) y.src s with
    | .ok (src, t) => addXfer f { y with src := src } t
    | .error a => descFault f 0 y.desc 0x12 engDrover a (addXfer f { y with held := true } s)

/-- READ (R237-R241, R248, R249). -/
def execRead (f : FoldId) (dl : BitVec 2) (s : State) : Res :=
  whileClocked s (startDesc s f.toNat dl.toNat kRead (rwBad .read) fun s x d =>
    startRead f.toNat (newXfer x d d.geom d.land d.mem) s)

/-- WRITE (R237, R239, R242): its source is read next. -/
def execWrite (f : FoldId) (dl : BitVec 2) (s : State) : Res :=
  whileClocked s (startDesc s f.toNat dl.toNat kWrite (rwBad .write) fun s x d =>
    addXfer f.toNat { newXfer x d d.geom d.land d.mem with left := d.len } s)

/-! ### FOLD and CHAN (R243) -/

/-- Geometry and place of the source lines of a FOLD or CHAN. -/
def Desc.lineGeom (d : Desc) : Geom :=
  { len := d.fLen, gstr := 1, fmt := 0, rbc := 0, rows := 1, wt := false, spl := 0, ck := false, dcf := 0, spanC := 0 }

def Desc.lineLand (d : Desc) : Land := { tiles := false, line := d.fLine, tile := 0, row0 := 0, cks := 0 }

/-- The lowest fault of a FOLD at its start. -/
def foldBad (s : State) (x : Fold) (d : Desc) : Option (Nat × Nat × Nat) :=
  match linesBad x d.fLine d.fLen false with
  | some l => some (0x12, 0, l)
  | none =>
    match notifyBad s d with
    | some b => some b
    | none => (absentFold s d.dfold).map fun v => (0x1A, 0, v)

/-- FOLD (R113, R231, R243). -/
def execFold (f : FoldId) (dl : BitVec 2) (s : State) : Res :=
  whileClocked s (startDesc s f.toNat dl.toNat kFold foldBad fun s x d =>
    addXfer f.toNat (newXfer x d d.lineGeom d.lineLand 0) s)

/-- The lowest fault of a CHAN when it is evaluated (R243, R287, R296, R532). -/
def chanDescBad (s : State) (x : Fold) (d : Desc) : Option (Nat × Nat × Nat) :=
  let e := x.cent d.ch
  if e.ncred ≠ 0 && decide (e.slotm1 + 1 < d.fLen) then some (0x11, 0, detailShape 287)
  else
    match chanBad s x d.ch, linesBad x d.fLine d.fLen false with
    | some (code, detail), some l => if code ≤ 0x12 then some (code, 0, detail) else some (0x12, 0, l)
    | some (code, detail), none => some (code, 0, detail)
    | none, some l => some (0x12, 0, l)
    | none, none => notifyBad s d

/-- CHAN (R243, R286): takes its slot, its credit and its tally count at its start. -/
def execChan (f : FoldId) (dl : BitVec 2) (s : State) : Res :=
  whileClocked s (startDesc s f.toNat dl.toNat kChan chanDescBad fun s x d =>
    let y := newXfer x d d.lineGeom d.lineLand 0
    let z := x.startMsg d.ch d.fLen (some y.slot) d.addr d.akind d.ttag
    addXfer f.toNat y (s.setFold f.toNat z))

/-! ### Drover-owned cycles (R97, R247) -/

/-- Source lines or tile rows of an outbound transfer. -/
def Xfer.units (y : Xfer) : Nat := if y.land.tiles then y.geom.tiles * y.geom.rows else y.geom.len

/-- The whole source has been read. -/
def Xfer.allRead (y : Xfer) : Bool := y.outbound && decide (y.units ≤ y.ready.length)

/-- Bank `b` of fold `f` can serve class `c` in this cycle: the drover owns it (R97), it has not served yet, and no class
ahead of `c` waits (R247). -/
def bankServes (s : State) (f b c : Nat) : Bool :=
  let x := s.fold f
  x.bankFree b && ((x.classes b).all fun k => decide (c ≤ k)) && (decide (c ≤ 5) || !atBank b (s.remoteReqs x))

/-- Bank `b` has served an access in this cycle. -/
def serveBank (f b : Nat) (s : State) : State :=
  s.onFold f fun x => { x with sp := { x.sp with served := b :: x.sp.served } }

/-- ECC_WRITE_BACK (R107): the bank writes a corrected word back. -/
def execEccWriteBack (f : FoldId) (bank : BitVec 5) (s : State) : Res :=
  let n := f.toNat
  let b := bank.toNat
  let x := s.fold n
  whileClocked s (match x.sp.wback.find? fun w => decide (w / 8 % 32 = b) with
    | none => s
    | some w =>
      if !bankServes s n b 1 then s
      else serveBank n b (s.setFold n { x with sp := { x.sp with
        wback := x.sp.wback.erase w
        err := if peek 0 x.sp.err w = 1 then put 0 x.sp.err w 0 else x.sp.err } }))

/-- SHEPHERD_SCRATCHPAD_ACCESS (R73, R247): the pending sh.lsp or sh.ssp is served. -/
def execShepherdScratchpadAccess (f : FoldId) (s : State) : Res :=
  let n := f.toNat
  let x := s.fold n
  whileClocked s (match x.sh.acc with
    | none => s
    | some a =>
      let b := a.addr / 64 % 32
      if !bankServes s n b (shClass x.ex.cycle b) then s
      else
        let t := serveBank n b (s.setFold n { x with sh := { x.sh with acc := none } })
        if a.store then spStore n 4 x.sh.pc 0 a.addr (leBytes 4 a.data.toNat) t
        else
          let t := spTouch n 4 x.sh.pc 0 a.addr 4 t
          t.onFold n fun y => { y with sh := y.sh.set a.ds (BitVec.ofNat 32 (leNat (y.sp.bytes a.addr 4))) })

/-- READ_LANDING (R244, R247): the next line of a READ lands in scratchpad. -/
def execReadLanding (f : FoldId) (t : BitVec 6) (s : State) : Res :=
  let n := f.toNat
  let x := s.fold n
  whileClocked s (match x.xfer t.toNat with
    | none => s
    | some y =>
      match y.landLine, y.ready with
      | some l, line :: rest =>
        if !bankServes s n (l % 32) 6 || decide (soonest (l % 32) x.readReqs ≠ some y.slot) then s
        else
          let s := spStore n y.desc.akind y.desc.addr y.desc.ttag (64 * l) line s
          let z := { y with ready := rest, landed := y.landed + 1, asked := y.asked.tail, crc := crc32cRun y.crc line }
          serveBank n (l % 32) (s.onFold n fun x => x.setXfer z)
      | _, _ => s)

/-! ### Tile landings (R88, R89, R92, R239, R533) -/

/-- Row `i` of the image lands in its tile: INCOMPLETE and START_ROW follow (R89), and a row that execution has written in this
cycle keeps what it wrote (R92). -/
def putLanding (y : Xfer) (i : Nat) (x : Tiles) : Tiles :=
  let g := y.geom
  let t := y.land.tile + i / g.rows
  let r := i % g.rows
  let v := g.row y.ready (i / g.rows) r
  let z := if x.wrote.contains (rowKey t (y.land.row0 + r)) then x else x.putRow t (y.land.row0 + r) v.1 v.2
  let last := decide (r + 1 = g.rows)
  { z with incomp := maskSet z.incomp t !last
           start := put 0 z.start t (if last then 0 else y.land.row0 + r + 1)
           rowsNow := y.slot :: z.rowsNow }

/-- A transfer that a fault stops lands nothing more. -/
def holdXfer (f : Nat) (y : Xfer) (s : State) : State := s.onFold f fun x => x.setXfer { y with held := true }

/-- A tap's tile span breaks R239, which applies at its first landed row (R254); a READ has been held to it at its start. -/
def Xfer.spanBreaks (y : Xfer) : Bool :=
  decide (y.desc.kind = kMtap) && (decide (16 < y.land.tile + y.geom.tiles) || decide (y.geom.len ≠ y.geom.spanLines))

/-- The shape rule that a landing breaks as its first row is written, which holds for every tile of its span (R88, R239, R254): the detail
word. A tap whose span runs past T15 or does not fit its stream names its first tile (log entry 105). -/
def landingBad (x : Tiles) (y : Xfer) : Option Nat :=
  match spanTileBad x y.geom y.land.row0 y.land.tile with
  | some w => if y.spanBreaks && decide (w / 2 ^ 48 ≠ 88) then some (detailShapeTile 239 y.land.tile) else some w
  | none => if y.spanBreaks then some (detailShapeTile 239 y.land.tile) else none

/-- TILE_LANDING_ROW (R239, R254, R533): the next row of a landing is written in the cycle after the last of its lines came, at most four
in a cycle. -/
def execTileLandingRow (f : FoldId) (t : BitVec 6) (s : State) : Res :=
  let n := f.toNat
  let x := s.fold n
  whileClocked s (match x.xfer t.toNat with
    | none => s
    | some y =>
      if !y.rowDue x.ti || x.ex.overdue then s
      else
        match (if y.landed = 0 then landingBad x.ti y else none) with
        | some w => descFault n 0 y.desc 0x11 engDrover w (holdXfer n y s)
        | none =>
          let z := { x with ti := putLanding y y.landed x.ti }
          s.setFold n (z.setXfer { y with landed := y.landed + 1 }))

/-! ### Source reads and departure (R178, R242, R243) -/

/-- The image of a WRITE from tiles: its rows as they were read, in the span image of R238. -/
def tileImage (g : Geom) (rows : List (List Byte)) : List (List Byte) :=
  (List.range g.tiles).flatMap fun k =>
    let rs := (rows.drop (k * g.rows)).take g.rows
    let data := padTo (64 * g.dataLines) (rs.flatMap fun r => r.take g.rb)
    let exps := if fmtExps g.fmt then padTo (64 * ceilDiv g.rows 8) (rs.flatMap fun r => r.drop g.rb) else []
    pieces 64 (data ++ exps)

/-- Runs of lines of a WRITE, one granule each: address and bytes. -/
def writeRuns (y : Xfer) (lines : List (List Byte)) : List (Nat × Nat × List Byte) :=
  (granules y.src.lineAddr y.geom.len 0 y.geom.len).map fun r =>
    (r.1, r.2.1, ((lines.drop r.1).take r.2.2).flatMap id)

/-- A WRITE leaves the fold for its die, its peer or the host (R178, R237, R346), with the CRC-32C of its lines (R181), which the IOD and
the peer compare before they write (TRANSFER_COMPLETE). One to a peer without a route is refused before it leaves (R342). -/
def leaveWrite (f : Nat) (y : Xfer) (s : State) : State :=
  let lines := if y.land.tiles then tileImage y.geom y.ready else y.ready
  let y := { y with sent := true, ready := lines }
  let p := (s.fold f).ex.prog
  if y.desc.peer && (s.route y.desc.node p).isNone then
    descFault f 0 y.desc 0x12 engDrover (Config.absentDetail y.desc.node) (holdXfer f y s)
  else if y.desc.peer then
    let t := (writeRuns y lines).foldl (fun t r =>
      (t.sendFlit (t.flit y.desc.node clsRQ (t.sendTally y.desc.node p 0) p (.rwrite r.2.1 r.2.2)) p).bumpSendTally
        y.desc.node p 0 (packetFlits r.2.2.length)) s
    t.onFold f fun x => x.setXfer y
  else if isHost y.src.addr then s.onFold f fun x => x.setXfer y
  else
    (writeRuns y lines).foldl (fun t r => t.ask .write
      { who := .xfer f y.slot, off := r.1, addr := r.2.1, n := r.2.2.length / 64, wr := true, data := r.2.2 })
      (s.onFold f fun x => x.setXfer y)

/-- WRITE transfers whose source has been read and whose verdicts have been delivered leave (R178). -/
def flushWrites (f : Nat) (s : State) : State :=
  if verdictFaulted f s then s
  else
    (s.fold f).dr.xfers.foldl (fun t y =>
      if decide (y.desc.kind = kWrite) && y.allRead && !y.sent && !y.held && ((t.fold f).mx.vOpen.all fun i => decide (y.hold ≤ i)) then
        leaveWrite f y t
      else t) s

/-- The last source line of a transfer has been read. -/
def sourced (f : Nat) (y : Xfer) (s : State) : State :=
  if !y.allRead then s
  else if y.desc.kind = kWrite then flushWrites f s
  else if y.desc.kind = kChan then
    let fill := fun (m : OutMsg) =>
      if m.xfer = some y.slot then { m with data := y.ready.flatMap id, crc := y.crc ^^^ 0xFFFFFFFF, ready := true } else m
    flushMsgs f (s.onFold f fun x => { x with qu := { x.qu with outMsg := x.qu.outMsg.map fill } })
  else s

/-- Reads source unit `i` of an outbound transfer: a scratchpad line, or a tile row with its exponent field. -/
def readUnit (f : Nat) (y : Xfer) (i : Nat) (s : State) : State × List Byte :=
  let d := y.desc
  if y.land.tiles then
    let t := y.land.tile + i / y.geom.rows
    let r := y.land.row0 + i % y.geom.rows
    let x := (s.fold f).ti
    let s := if x.rowBad t r then s.raiseFold f 0x50 engSp d.akind d.addr d.ttag (at_ 44 4 t + at_ 0 7 r) else s
    (s, x.row t r y.geom.rb ++ x.rowExps t r)
  else
    let l := y.land.line + i
    let s := spTouch f d.akind d.addr d.ttag (64 * l) 64 s
    (s, (s.fold f).sp.line l)

/-- Lines of a span image that are whole once `i` of its rows have been read: the exponent lines of a tile come with its last row (R238). -/
def Geom.linesAfter (g : Geom) (i : Nat) : Nat := i / g.rows * g.tileLines + i % g.rows * g.rb / 64

/-- The running CRC-32C of an outbound transfer once unit `v` has been read (R181, R183): that of a WRITE or CHAN takes in the lines that
the unit makes whole; a FOLD's is that of its landing. -/
def Xfer.tallyUnit (y : Xfer) (v : List Byte) : Nat :=
  if y.desc.kind = kFold then y.crc
  else if y.land.tiles then
    let i := y.ready.length
    crc32cRun y.crc ((((tileImage y.geom (y.ready ++ [v])).take (y.geom.linesAfter (i + 1))).drop (y.geom.linesAfter i)).flatMap id)
  else crc32cRun y.crc v

/-- SOURCE_READ (R242, R247): the next source line or tile row of a WRITE, FOLD or CHAN is read. -/
def execSourceRead (f : FoldId) (t : BitVec 6) (s : State) : Res :=
  let n := f.toNat
  let x := s.fold n
  whileClocked s (match x.xfer t.toNat with
    | none => s
    | some y =>
      let bankOk := match y.readLine with
        | some l => bankServes s n (l % 32) 7 && decide (soonest (l % 32) x.sourceReqs = some y.slot)
        | none => y.land.tiles
      if !y.outbound || y.allRead || !bankOk || decide (x.ex.cycle ≤ y.start) || x.ex.overdue then s
      else
        let (s, v) := readUnit n y y.ready.length s
        let s := match y.readLine with | some l => serveBank n (l % 32) s | none => s
        let z := { y with ready := y.ready ++ [v], since := x.ex.cycle, crc := y.tallyUnit v }
        sourced n z (s.onFold n fun x => x.setXfer z))

/-! ### FOLD at its receiver (R111-R114) -/

/-- The first receiving line that R114 refuses: outside the window it begins in, from another sender, or without a credit. -/
def arrivalBad (x : Fold) (p line n : Nat) : Option Nat :=
  match x.qu.windowOf line with
  | none => some line
  | some w =>
    let e := peek WEnt.none x.qu.wtab w
    if e.src ≠ p || decide (peek 0 x.qu.wcred w = 0) then some line
    else if e.base + e.lines < line + n then some (e.base + e.lines) else none

/-- REMOTE_TRANSFER_ARRIVAL (R112, R114): the first line of a FOLD of fold `g` reaches its receiver and spends a credit. -/
def execRemoteTransferArrival (g : FoldId) (t : BitVec 6) (s : State) : Res :=
  let n := g.toNat
  let x := s.fold n
  whileClocked s (match x.xfer t.toNat, s.job with
    | some y, some j =>
      match j.place y.desc.dfold with
      | none => s
      | some r =>
        if y.desc.kind ≠ kFold || !y.allRead || y.arrived || y.held then s
        else
          let z := s.fold r
          let line := y.target z
          match arrivalBad z x.ex.prog line y.geom.len with
          | some l =>
            let d := y.desc
            (holdXfer n y s).raiseFold r 0x1B engDrover d.akind d.addr d.ttag (at_ 47 17 l + at_ 42 5 x.ex.prog)
          | none =>
            let w := (z.qu.windowOf line).getD 0
            let s := s.setFold r { z with qu := { z.qu with wcred := put 0 z.qu.wcred w (peek 0 z.qu.wcred w - 1) } }
            s.onFold n fun x => x.setXfer { y with arrived := true, asked := [z.ex.cycle] }
    | _, _ => s)

/-- REMOTE_WRITE_LANDING (R244, R247): the next line of a FOLD of fold `g` lands at its receiver. -/
def execRemoteWriteLanding (g : FoldId) (t : BitVec 6) (s : State) : Res :=
  let n := g.toNat
  whileClocked s (match (s.fold n).xfer t.toNat, s.job with
    | some y, some j =>
      match j.place y.desc.dfold with
      | none => s
      | some r =>
        match y.remoteLine (s.fold r), y.ready.drop y.landed with
        | some l, line :: _ =>
          let first := (soonest (l % 32) (s.remoteReqs (s.fold r))).bind fun i => (s.inbound (s.fold r))[i]?
          if !bankServes s r (l % 32) 5 || decide (first.map (fun e => (e.1, e.2.slot)) ≠ some (n, y.slot)) then s
          else
            let s := serveBank r (l % 32) (spStore r y.desc.akind y.desc.addr y.desc.ttag (64 * l) line s)
            s.onFold n fun x => x.setXfer { y with landed := y.landed + 1, done := decide (y.geom.len ≤ y.landed + 1),
                                                   crc := crc32cRun y.crc line }
        | _, _ => s
    | _, _ => s)

/-! ### Completion (R181, R182, R244) -/

/-- What a landing has to write: lines, or tile rows. -/
def Xfer.total (y : Xfer) : Nat := if y.land.tiles then y.geom.tiles * y.geom.rows else y.geom.len

/-- The last line of a READ or MTAP has landed, and its residues have come. -/
def Xfer.allLanded (y : Xfer) : Bool := decide (y.total ≤ y.landed) && (!y.geom.ck || y.resid.isSome)

/-- The CRC-32C of the landed lines. -/
def Xfer.landedCrc (y : Xfer) : Nat := y.crc ^^^ 0xFFFFFFFF

/-- The residues fill their check slots, whose valid bits are set (R244, R249); where a drain fills a slot in the same cycle, its write
remains (R176). -/
def fillChecks (cks : Nat) (rs : List (List Nat)) (x : Fold) : Fold :=
  let fills := (enumFrom cks rs).filter fun e =>
    !(x.mx.drained.any fun d => decide (d.1 = e.1) && decide (x.ex.cycle ≤ d.2))
  { x with mx := { x.mx with
      cslot := fills.foldl (fun m e => putRun 0 m (128 * e.1) e.2) x.mx.cslot
      cvalid := fills.foldl (fun m e => BitVec.ofNat 4 (setBit m.toNat e.1 true)) x.mx.cvalid } }

/-- A tally unit of fold `at_f` finds a mismatch in transfer `y` of fold `f` (R181, R182); `peer` names the sender where it is another
fold. -/
def tallyBad (f at_f unit : Nat) (peer : Option (Bool × Nat)) (y : Xfer) (detail : Nat) (s : State) : State :=
  let d := y.desc
  tallyFault at_f unit peer (s.rep at_f 0x42 engTally d.akind d.addr d.ttag detail) (holdXfer f y s)

/-- The CRC-32C that a tally unit of the fold has of a transfer: that of a mast stream takes in its residue lines (R181). -/
def Xfer.tally (y : Xfer) : Nat :=
  if y.desc.kind = kMtap then
    crc32cRun y.crc ((y.resid.getD []).flatMap fun es => es.flatMap fun e => leBytes 8 e) ^^^ 0xFFFFFFFF
  else y.landedCrc

/-- A transfer completes, or its tally compare fails (R181, R182, R234). `unit` numbers the tally unit, `at_f` is the fold that
compares; the value that comes with mismatching data is a free value. -/
def compareXfer (f at_f unit : Nat) (peer : Option (Bool × Nat)) (y : Xfer) (crcOk : Bool) (s : State) : State :=
  let d := y.desc
  let own := d.xcrc && (decide (d.kind = kRead) || decide (d.kind = kMtap)) && decide (d.expcrc ≠ y.landedCrc)
  if crcOk && !own then
    let s := match y.resid with
      | some rs => s.onFold f (fillChecks y.land.cks rs)
      | none => s
    finish f y s
  else if crcOk then tallyBad f at_f unit peer y (at_ 32 32 d.expcrc + y.landedCrc) s
  else tallyBad f at_f unit peer y (at_ 32 32 (Config.free s.freeCtr) + y.tally) s.used

/-- The destination of a WRITE finds that its data does not match the CRC-32C of drain out (R181): nothing is written, and the fault
names the sending fold and its descriptor, and as the die that detected it the destination: the memory-side die, the IOD or the peer
device (R416, R417). What the destination computed is a free value. -/
def refuseWrite (f : Nat) (y : Xfer) (s : State) : State :=
  let t := (s.dropReqs fun w => decide (w = .xfer f y.slot)).used
  let d := y.desc
  let r := t.rep f 0x42 engTally d.akind d.addr d.ttag (at_ 32 32 y.landedCrc + Config.free s.freeCtr % 2 ^ 32)
  let r := if d.peer then { r with die := 6, origin := d.node } else { r with die := if isHost y.src.addr then 5 else dieOf y.src.addr + 1 }
  tallyFault f 4 none r (holdXfer f y t)

/-- A transfer to or from a peer that the peer does not serve: the fault is raised at its descriptor, as another device detected it
(R259, R261, R329, R417). -/
def peerBad (f : Nat) (y : Xfer) (code engine detail : Nat) (s : State) : State :=
  let d := y.desc
  let t := holdXfer f y s
  let r := t.rep f code engine d.akind d.addr d.ttag detail
  (raise { r with die := 6, origin := d.node } t).tr f 9 engine d.ttag code

/-- VERDICT: the verdicts of the earliest drain or vx.acc of fold `f` are delivered, not before their cycle; those of the next cycle may
follow the bundle of this one. -/
def execVerdict (f : FoldId) (s : State) : Res :=
  let y := s.fold f.toNat
  whileClocked s (match firstVerdict y.mx.verdicts with
    | none => s
    | some c =>
      let x := y.reaching s c
      if x.ex.cycle < c then s
      else
        let now := x.mx.verdicts.filter fun v => decide (v.cycle = c)
        let t := s.setFold f.toNat { x with mx := { x.mx with
          verdicts := x.mx.verdicts.filter fun v => decide (v.cycle ≠ c) } }
        flushWrites f.toNat (flushMsgs f.toNat (now.foldl (fun t v => deliver f.toNat v t) t)))

end Sys2Proof.Machine
end

