-- ==== Sys2Proof/Machine/Mast.lean ====
section
/-! DEFINITION. The mast (R250-R256): streams, taps and lanes; speculative staging (R262-R274); and the completion of
transfers (R244). -/
namespace Sys2Proof.Machine

/-! ### Streams and their taps (R253-R255) -/

/-- The geometry of an MSRC. -/
def Desc.mGeom (d : Desc) : Geom :=
  { len := d.mLen, gstr := d.mGstr, fmt := d.mFmt, rbc := d.mRbc, rows := d.mRows, wt := d.mWt, spl := d.mSpl, ck := d.mCk,
    dcf := d.mDcf, spanC := d.mSpanC }

/-- Residue lines of an image (R249). -/
def Geom.residLines (g : Geom) : Nat := if g.ck then 16 * ((statCls g.fmt).getD .c8).slots else 0

/-- The largest stream, in lines (R253). -/
def maxStream : Nat := 1024

/-- Program folds of a SUBS mask. -/
def subsOf (m : Nat) : List Nat := setBits m 32

/-- The lines of one slot's residues: 128 entries of 64 bits (R166). -/
def residueLines (es : List Nat) : List (List Byte) := pieces 64 (es.flatMap fun e => leBytes 8 e)

/-- Every line of a stream, the image first. -/
def Stream.lines (v : Stream) : List (List Byte) := v.image ++ v.resid.flatMap residueLines

/-- Units of a stream (R255). -/
def Stream.units (v : Stream) : Nat := ceilDiv (v.src.geom.len + v.src.geom.residLines) 8

def State.setStream (s : State) (v : Stream) : State :=
  { s with msd := { s.msd with streams := s.msd.streams.map fun w => if w.die = v.die ∧ w.id = v.id then v else w } }

def State.dropStream (s : State) (v : Stream) : State :=
  { s with msd := { s.msd with streams := s.msd.streams.filter fun w => !(decide (w.die = v.die) && decide (w.id = v.id)) } }

/-- Shape and address faults of a tap once it knows its stream: the check slots (R168) and the landing lines (R242). R239 applies at
the tap's first landed row (R254). -/
def tapBad (x : Fold) (d : Desc) (g : Geom) : Option (Nat × Nat) :=
  if cksBad g d.tCks then some (0x11, detailShape 168)
  else if d.tDk = 0 then (linesBad x d.tLine g.len true).map fun l => (0x12, l)
  else none

/-- A tap takes its stream: the stream's layout travels with it (R254). -/
def joinTap (f : Nat) (u : Tap) (v : Stream) (s : State) : State :=
  let x := s.fold f
  match x.xfer u.xfer with
  | none => s
  | some y =>
    let z := { y with geom := v.src.geom }
    let w := { u with stream := some (v.die, v.id) }
    let x' := x.setXfer z
    let t := s.setFold f { x' with dr := { x'.dr with taps := x'.dr.taps.map fun o => if o.xfer = u.xfer then w else o } }
    match tapBad x y.desc v.src.geom with
    | some (code, detail) => descFault f 0 y.desc code engDrover detail (holdXfer f z t)
    | none => t

/-- A fold's tap holds a subscription on segment `g` that is matched. -/
def Fold.tapOn (x : Fold) (g : Nat) : Option Tap := x.dr.taps.find? fun u => decide (u.stream.map (·.1) = some g)

/-- The stream that a tap's place among the MTAPs of its fold matches (R254). -/
def streamFor (s : State) (x : Fold) (u : Tap) : Option Stream :=
  s.msd.streams.find? fun v => decide (v.msid = u.msid) && v.nth.any fun p => decide (p = (x.ex.prog, u.nth))

/-- Waiting subscriptions of fold `f` are matched, one to a segment (R254, R256). -/
def matchTaps (f : Nat) (s : State) : State :=
  (s.fold f).dr.taps.foldl (fun t u =>
    if u.stream.isSome then t
    else
      match streamFor t (t.fold f) u with
      | some v => if ((t.fold f).tapOn v.die).isSome then t else joinTap f u v t
      | none => t) s

def dropTap (f slot : Nat) (s : State) : State :=
  s.onFold f fun x => { x with dr := { x.dr with taps := x.dr.taps.filter fun u => decide (u.xfer ≠ slot) } }

/-- Lanes of a segment (R250). -/
def lanes : List Nat := [0, 1, 2]

def laneFree (s : State) (die lane : Nat) : Bool :=
  s.msd.streams.all fun v => !(decide (v.die = die) && decide (v.lane = some lane))

/-- Streams of a die that wait for a lane take those that are free, in turn, and request their source (R255). -/
def grantLanes (die : Nat) (s : State) : State :=
  s.msd.streams.foldl (fun t v =>
    if decide (v.die = die) && v.go && v.lane.isNone then
      match lanes.find? (laneFree t die) with
      | none => t
      | some l =>
        match askSrc (.stream die v.id) true v.src t with
        | .ok (src, u) => u.setStream { v with lane := some l, src := src }
        | .error a => descFault v.lfold 0 v.desc 0x12 engDrover a t
    else t) s

/-- Address faults of a stream's source (R240, R251, R253, R314). -/
def streamAddr (s : State) (a : Nat) (g : Geom) : Option Nat :=
  if a % 64 ≠ 0 || isHost a || decide (fld a 41 22 ≠ 0) then some a
  else
    let n := if g.dcf = 0 then g.len else 1
    rangeBad s.limit true a (granules (fun i => lineAddr a g.gstr i) n 0 n)

/-- An absent program fold among subscribers (R253). -/
def subsBad (s : State) (m : Nat) : Option (Nat × Nat × Nat) :=
  ((subsOf m).findSome? fun p => absentFold s p).map fun v => (0x1A, 0, v)

/-- The lowest fault of an MSRC or CLAIM at its start, its encoding checked before (R249, R253, R259, R261). -/
def streamBad (s : State) (x : Fold) (d : Desc) (msid subs a : Nat) (g : Geom) : Option (Nat × Nat × Nat) :=
  if g.encBad || decide (subs = 0) || decide (maxStream < g.len + g.residLines) then some (0x10, 0, encDetail)
  else if g.ck && decide (g.len ≠ g.spanLines) then some (0x11, 0, detailShape 249)
  else
    match streamAddr s a g with
    | some b => some (0x12, 0, b)
    | none =>
      match subsBad s subs, notifyBad s d, shareBad s .read a with
      | some b, _, _ | none, some b, _ | none, none, some b => some b
      | none, none, none =>
        match s.job.bind fun j => peek none j.leaders msid with
        | some p => if p = x.ex.prog then none else some (0x21, 0, msid)
        | none => none

/-- The place of a new stream among those of its MSID that name each subscriber. -/
def nextNth (s : State) (msid subs : Nat) : List (Nat × Nat) :=
  match s.job with
  | some j => (subsOf subs).map fun p => (p, peek 0 j.nStreams (32 * msid + p))
  | none => []

/-- A stream starts (R253): its leader is recorded and its subscribers' taps may match it. -/
def startStream (f : Nat) (d : Desc) (msid subs a : Nat) (g : Geom) (go : Bool) (s : State) : State :=
  let x := s.fold f
  let y := newXfer x d g d.lineLand a
  let die := dieOf a
  let nth := nextNth s msid subs
  let v : Stream :=
    { id := s.msd.streamN, die := die, msid := msid, leader := x.ex.prog, lfold := f, lslot := y.slot, desc := d, subs := subs,
      nth := nth, src := y.src, go := go, lane := none, ready := false, image := [], resid := [], sent := 0, stall := [], limit := none }
  let t := addXfer f y s
  let t := { t with msd := { t.msd with streams := t.msd.streams ++ [v], streamN := t.msd.streamN + 1 } }
  let t := t.onJob fun j => { j with
    leaders := put none j.leaders msid (some x.ex.prog)
    nStreams := nth.foldl (fun m p => put 0 m (32 * msid + p.1) (p.2 + 1)) j.nStreams }
  let t := (subsOf subs).foldl (fun t p => match t.job.bind fun j => j.place p with
    | some g => matchTaps g t
    | none => t) t
  grantLanes die t

/-- MSRC (R251, R253, R255). -/
def execMsrc (f : FoldId) (dl : BitVec 2) (s : State) : Res :=
  whileClocked s (startDesc s f.toNat dl.toNat kMsrc (fun s x d => streamBad s x d d.msid d.subs d.mem d.mGeom) fun s _ d =>
    startStream f.toNat d d.msid d.subs d.mem d.mGeom true s)

/-- Faults of an MTAP at its start. -/
def mtapBad (s : State) (_x : Fold) (d : Desc) : Option (Nat × Nat × Nat) :=
  if 2 ≤ d.tDk then some (0x10, 0, encDetail) else notifyBad s d

/-- MTAP (R252, R254): subscribes the fold's tap; it waits until its stream is announced. -/
def execMtap (f : FoldId) (dl : BitVec 2) (s : State) : Res :=
  whileClocked s (startDesc s f.toNat dl.toNat kMtap mtapBad fun s x d =>
    let l : Land := { tiles := decide (d.tDk = 1), line := d.tLine, tile := d.tTile, row0 := d.tRow0, cks := d.tCks }
    let y := newXfer x d { d.lineGeom with len := 1 } l 0
    let n := peek 0 x.dr.mtapN d.tMsid
    let u : Tap := { xfer := y.slot, msid := d.tMsid, nth := n, stream := none, buf := [] }
    let t := (addXfer f.toNat y s).onFold f.toNat fun x => { x with dr := { x.dr with
      taps := x.dr.taps ++ [u], mtapN := put 0 x.dr.mtapN d.tMsid (n + 1) } }
    matchTaps f.toNat t)

/-- MSRC_IMAGE_READY (R255): the first stream of the die whose source has been read into its lane's buffer is prepared. -/
def execMsrcImageReady (die : BitVec 2) (s : State) : Res :=
  whileClocked s (match s.msd.streams.find? fun v => decide (v.die = die.toNat) && v.lane.isSome && !v.ready && v.src.complete with
    | none => s
    | some v =>
      let img := v.src.image
      s.setStream { v with ready := true, image := img, resid := if v.src.geom.ck then v.src.geom.residues img else [] })

/-- The program folds that keep a stream from sending its next unit (R255). -/
def blocking (s : State) (v : Stream) : List Nat :=
  (subsOf v.subs).filter fun p =>
    match s.job.bind fun j => j.place p with
    | none => true
    | some g =>
      match (s.fold g).dr.taps.find? fun u => decide (u.stream = some (v.die, v.id)) with
      | some u => decide (64 < u.buf.length + 8)
      | none => true

/-- The job's streams send (R257). -/
def State.streaming (s : State) : Bool := match s.job with | some j => decide (j.phase = .running) | none => false

/-- A unit reaches a subscriber's tap: its image lines wait in the landing buffer, and its residues come with the last unit (R250,
R255). Lines below those that a scratchpad landing has already landed are not landed again (R257). -/
def tapUnit (v : Stream) (lines : List (List Byte)) (last : Bool) (g : Nat) (s : State) : State :=
  let x := s.fold g
  match x.dr.taps.find? fun u => decide (u.stream = some (v.die, v.id)) with
  | none => s
  | some u =>
    match x.xfer u.xfer with
    | none => s
    | some y =>
      let new := if y.land.tiles then lines else lines.drop (y.landed - y.got)
      let z := { y with got := if y.land.tiles then y.got else y.got + lines.length
                        resid := if last && v.src.geom.ck then some v.resid else y.resid }
      let w := { u with buf := u.buf ++ new.map fun l => (x.ex.cycle, l) }
      let x := x.setXfer z
      s.setFold g { x with dr := { x.dr with taps := x.dr.taps.map fun o => if o.xfer = u.xfer then w else o } }

/-- The detail word of a double-bit error in a lane buffer (R330). -/
def laneDetail (die : Nat) : Nat := at_ 60 4 2 + at_ 55 2 die

/-- Counts what SECDED of a lane buffer or staging block shows, word by word (R324). -/
def countEcc (e : Ecc) (s : State) : State :=
  let t := logStick s.msd.eccSingle e.singles { s with msd := { s.msd with eccSingle := ctrAdd s.msd.eccSingle e.singles } }
  logStick t.msd.eccDouble e.doubles { t with msd := { t.msd with eccDouble := ctrAdd t.msd.eccDouble e.doubles } }

/-- A stream sends its next unit to every subscriber; after the last its lane is free and the MSRC is complete but for its
event (R244, R255). -/
def sendUnit (v : Stream) (s : State) : State :=
  let last := decide (v.units ≤ v.sent + 1)
  let unit := (v.lines.drop (8 * v.sent)).take 8
  let img := unit.take (v.src.geom.len - 8 * v.sent)
  let t := (subsOf v.subs).foldl (fun t p => match t.job.bind fun j => j.place p with
    | some g => tapUnit v img last g t
    | none => t) s
  if last then grantLanes v.die ((t.dropStream v).onFold v.lfold fun x => x.xferDone v.lslot)
  else t.setStream { v with sent := v.sent + 1, stall := [], limit := none }

/-- The stream in a lane. -/
def laneStream (s : State) (seg lane : Nat) : Option Stream :=
  s.msd.streams.find? fun v => decide (v.die = seg) && decide (v.lane = some lane)

/-- MAST_UNIT_SEND (R255, R324, R331): with nothing blocking it, the stream of the lane sends its next unit. -/
def execMastUnitSend (seg lane : BitVec 2) (ecc : Ecc) (s : State) : Res :=
  whileClocked s (match laneStream s seg.toNat lane.toNat with
    | none => s
    | some v =>
      if !v.ready || v.limit.isSome || !s.streaming || !(blocking s v).isEmpty then s
      else
        let t := countEcc ecc s
        if 0 < ecc.doubles then
          let t := t.setDetail (laneDetail v.die)
          descFault v.lfold (v.die + 1) v.desc 0x53 engMast (laneDetail v.die) (t.setStream { v with ready := false })
        else sendUnit v t)

/-- The limit of a stall counter, in mast cycles (R11, R255). -/
def Job.mastCycles (j : Job) : Nat := (if j.hdr.mastLimit = 0 then 1000 else j.hdr.mastLimit) * 800

/-- One mast cycle of a stream that is ready to send: the counters of those that block it run, and the first that reach the limit stop
them, the lowest program fold on a tie, with the blocking set of that cycle (R255, R256). -/
def Stream.count (limit : Nat) (b : List Nat) (v : Stream) : Stream :=
  if !v.ready || v.limit.isSome then v
  else
    let m := b.foldl (fun m p => put 0 m p (peek 0 m p + 1)) v.stall
    { v with stall := m
             limit := (b.find? fun p => decide (limit ≤ peek 0 m p)).map fun p => (p, sumNat (b.map fun q => 2 ^ q)) }

/-- Stall counters of the streams run in a mast cycle (R255, R256). -/
def tickStreams (s : State) : State :=
  match s.job with
  | some j =>
    if s.streaming && !s.paused then
      { s with msd := { s.msd with streams := s.msd.streams.map fun v => v.count j.mastCycles (blocking s v) } }
    else s
  | none => s

/-- MAST_STALL (R255, R256): a stall counter has reached its limit. The record's DIE gives the segment, and its descriptor, that of the
stream, the MSID. -/
def execMastStall (seg lane : BitVec 2) (s : State) : Res :=
  whileClocked s (match laneStream s seg.toNat lane.toNat with
    | none => s
    | some v =>
      if !v.ready || !s.streaming then s
      else
        match v.limit, v.limit.bind fun p => s.job.bind fun j => j.place p.1 with
        | some (_, mask), some g =>
          let r := s.rep g 0x31 engMast v.desc.akind v.desc.addr v.desc.ttag mask
          (raise { r with die := v.die + 1 } (s.setStream { v with ready := false })).tr g 9 engMast v.desc.ttag 0x31
        | _, _ => s)

/-- MAST_LANDING (R247, R250): the next line of the fold's landing buffer for the segment lands in scratchpad. -/
def execMastLanding (f : FoldId) (seg : BitVec 2) (s : State) : Res :=
  let n := f.toNat
  let x := s.fold n
  whileClocked s (match x.tapOn seg.toNat with
    | none => s
    | some u =>
      match x.xfer u.xfer, tapLine x u, u.buf with
      | some y, some l, (_, line) :: rest =>
        if !bankServes s n (l % 32) 3 || decide (soonest (l % 32) x.mastReqs ≠ some u.xfer) then s
        else
          let s := serveBank n (l % 32) (spStore n y.desc.akind y.desc.addr y.desc.ttag (64 * l) line s)
          s.onFold n fun x =>
            let x := x.setXfer { y with landed := y.landed + 1, crc := crc32cRun y.crc line }
            { x with dr := { x.dr with taps := x.dr.taps.map fun o => if o.xfer = u.xfer then { o with buf := rest } else o } }
      | _, _, _ => s)

/-! ### Route history and geometry of a site (R262-R264) -/

/-- Bits of a PREDICT that GEOM keeps, at their places in the descriptor (R263). -/
def geomBits (w : Nat) : Nat := at_ 8 152 (fld w 8 152)

/-- The route history entry of a site, as a number. -/
def Drover.history (x : Drover) (site : Nat) : Nat := (peek 0 x.rht site).toNat
def histGV (e : Nat) : Bool := bitOf e 255
def histHV (e j : Nat) : Bool := bitOf e (247 + j)
def histSlot (e j : Nat) : Nat := fld e (183 + 8 * j) 8
/-- GEOM of an entry, at the places of the descriptor. -/
def histGeom (e : Nat) : Nat := at_ 8 152 (fld e 31 152)

def Drover.setHistory (x : Drover) (site e : Nat) : Drover := { x with rht := put 0 x.rht site (BitVec.ofNat 256 e) }

def pBase (w : Nat) : Nat := fld w 119 41
def pEstride (w : Nat) : Nat := fld w 99 20
def pPstride (w : Nat) : Nat := fld w 83 16
def pSite (w : Nat) : Nat := fld w 77 6
def pK (w : Nat) : Nat := fld w 74 3 + 1
def pParts (w : Nat) : Nat := fld w 66 8 + 1
def pSbase (w : Nat) : Nat := fld w 56 10
def pExperts (w : Nat) : Nat := fld w 8 8 + 1

/-- The part geometry of a PREDICT: its fields lie where MSRC has them (R264). -/
def pGeom (w : Nat) : Geom := Desc.mGeom { addr := 0, akind := 0, w := BitVec.ofNat 256 w }

/-- Address of part `p` of expert `x` (R264). -/
def partAddr (w x p : Nat) : Nat := pBase w + 4096 * (x * pEstride w + p * pPstride w)

/-! ### PREDICT (R265, R266) -/

/-- The lowest fault of a PREDICT at its start (R249, R261, R265). -/
def predictBad (s : State) (x : Fold) (d : Desc) : Option (Nat × Nat × Nat) :=
  let w := d.n
  let g := pGeom w
  let e := x.dr.history (pSite w)
  if (histGV e && decide (histGeom e ≠ geomBits w)) || decide (1024 < pSbase w + pK w * pParts w) || g.encBad ||
      decide (maxStream < g.len + g.residLines) then some (0x10, 0, encDetail)
  else if g.ck && decide (g.len ≠ g.spanLines) then some (0x11, 0, detailShape 249)
  else if pBase w % 64 ≠ 0 || decide (s.limit ≤ pBase w) then some (0x12, 0, pBase w)
  else notifyBad s d

/-- A speculative stage is requested into a block; what the block held is dropped (R266, R273). A stage whose source lies beyond the memory
or in another die is marked failed (log entry 75). -/
def requestStage (prog site slot part expert block a : Nat) (g : Geom) (s : State) : State :=
  let die := dieOf a
  let k := stageKey die block
  let s := dropStage k s
  let src : Src := { addr := a, geom := g, asked := 0, raw := [], early := [] }
  let st : Stage := { gen := s.msd.streamN, fold := prog, site := site, slot := slot, part := part, expert := expert, src := src, failed := false,
                      ready := false, image := [], resid := [] }
  let s := { s with msd := { s.msd with streamN := s.msd.streamN + 1 } }
  match askSrc (.stage die block st.gen) true src s with
  | .ok (src, t) => t.setStage k (some { st with src := src })
  | .error _ => s.setStage k (some { st with failed := true })

/-- Drops every block of a fold's site (R265, R271). -/
def dropSite (prog site : Nat) (s : State) : State :=
  s.msd.stages.foldl (fun t e => match e.2 with
    | some g => if g.fold = prog ∧ g.site = site then dropStage e.1 t else t
    | none => t) s

/-- What a PREDICT does at its start (R265). -/
def predict (f : Nat) (d : Desc) (s : State) : State :=
  let w := d.n
  let x := s.fold f
  let site := pSite w
  let e := x.dr.history site
  let e' := if histGV e then e else setBit e 255 true - at_ 31 152 (fld e 31 152) + at_ 31 152 (fld w 8 152)
  let t := dropSite x.ex.prog site (s.setFold f { x with dr := x.dr.setHistory site e' })
  let feature := match s.job with | some j => bitOf j.prog.features 7 | none => false
  if feature then
    ((List.range (pK w)).filter fun j => histHV e j).foldl (fun t j =>
      (List.range (pParts w)).foldl (fun t p =>
        requestStage x.ex.prog site j p (histSlot e j) (pSbase w + j * pParts w + p) (partAddr w (histSlot e j) p) (pGeom w) t) t) t
  else t

/-- PREDICT (R264, R265): completes in its start cycle. -/
def execPredict (f : FoldId) (dl : BitVec 2) (s : State) : Res :=
  whileClocked s (startDesc s f.toNat dl.toNat kPredict predictBad fun s _ d => emit f.toNat d (predict f.toNat d s))

/-- SPECULATIVE_STAGE_READY (R266, R267, R324): a filling block is finished, or dropped for an error that its source or the SECDED of
the staging SRAM showed. -/
def execSpeculativeStageReady (b : StageBlock) (ecc : Ecc) (s : State) : Res :=
  let k := stageKey b.die.toNat b.block.toNat
  whileClocked s (match s.stage k with
    | none => s
    | some g =>
      if g.ready then s
      else if g.failed then
        let t := logFree 0xA (dropStage k (countEcc ecc s))
        logStick s.msd.specErr 1 { t with msd := { t.msd with specErr := ctrAdd t.msd.specErr 1 } }
      else if 0 < ecc.doubles then countEcc ecc (dropStage k s)
      else if g.src.complete then
        let img := g.src.image
        let v := { g with ready := true, image := img, resid := if g.src.geom.ck then g.src.geom.residues img else [] }
        (countEcc ecc s).setStage k (some v)
      else s)

/-! ### CLAIM (R268-R270) -/

def Desc.cMsid (d : Desc) : Nat := fld d.n 152 8
def Desc.cSubs (d : Desc) : Nat := fld d.n 120 32
def Desc.cSite (d : Desc) : Nat := fld d.n 114 6
def Desc.cSlot (d : Desc) : Nat := fld d.n 111 3
def Desc.cExpert (d : Desc) : Nat := fld d.n 103 8
def Desc.cPart (d : Desc) : Nat := fld d.n 95 8

/-- GEOM of a CLAIM's site. -/
def Desc.claimGeom (d : Desc) (x : Fold) : Nat := histGeom (x.dr.history d.cSite)

def Desc.claimAddr (d : Desc) (x : Fold) : Nat := partAddr (d.claimGeom x) d.cExpert d.cPart

/-- The lowest fault of a CLAIM at its start (R253, R269). -/
def claimDescBad (s : State) (x : Fold) (d : Desc) : Option (Nat × Nat × Nat) :=
  let w := d.claimGeom x
  if !histGV (x.dr.history d.cSite) || decide (pK w ≤ d.cSlot) || decide (pParts w ≤ d.cPart) || decide (d.cSubs = 0) then
    some (0x10, 0, encDetail)
  else if pExperts w ≤ d.cExpert then some (0x12, 0, d.claimAddr x)
  else streamBad s x d d.cMsid d.cSubs (d.claimAddr x) (pGeom w)

/-- The block that a CLAIM matches: of its fold, site and part, in any slot, tagged with its expert (R270). Of several such blocks it takes
the first in block order (log entry 106). -/
def claimHit (s : State) (die : Nat) (c : Claim) : Option (Nat × Stage) :=
  s.msd.stages.findSome? fun e => match e.2 with
    | some g => if e.1 / 1024 = die && g.fold = c.fold && g.site = c.site && g.part = c.part && g.expert = c.expert
        then some (e.1, g) else none
    | none => none

/-- A CLAIM becomes the first of its die, which looks for its block (R270, log entry 106). -/
def Claim.look (c : Claim) (s : State) (die : Nat) : Claim :=
  { c with hit := (claimHit s die c).map fun e => (e.1, e.2.gen) }

/-- The die turns to its next CLAIM (R270). -/
def nextClaim (die : Nat) (s : State) : State :=
  match peek [] s.msd.claims die with
  | [] => s
  | c :: t => { s with msd := { s.msd with claims := put [] s.msd.claims die (c.look s die :: t) } }

/-- The block that a CLAIM has found, unless it has been dropped since (R270, R271). -/
def Claim.block (c : Claim) (s : State) : Option (Nat × Stage) :=
  c.hit.bind fun h => (s.stage h.1).bind fun g => if g.gen = h.2 then some (h.1, g) else none

/-- CLAIM (R269): an MSRC whose source the site's geometry gives; its die serves it in turn. -/
def execClaim (f : FoldId) (dl : BitVec 2) (s : State) : Res :=
  whileClocked s (startDesc s f.toNat dl.toNat kClaim claimDescBad fun s x d =>
    let e := x.dr.history d.cSite
    let lo := 183 + 8 * d.cSlot
    let e' := setBit (e - at_ lo 8 (fld e lo 8) + at_ lo 8 d.cExpert) (247 + d.cSlot) true
    let a := d.claimAddr x
    let die := dieOf a
    let c : Claim := { stream := s.msd.streamN, fold := x.ex.prog, site := d.cSite, part := d.cPart, expert := d.cExpert, hit := none }
    let l := peek [] s.msd.claims die
    let c := if l.isEmpty then c.look s die else c
    let t := startStream f.toNat d d.cMsid d.cSubs a (pGeom (d.claimGeom x)) false s
    let t := t.onFold f.toNat fun x => { x with dr := x.dr.setHistory d.cSite e' }
    { t with msd := { t.msd with claims := put [] t.msd.claims die (l ++ [c]) } })

/-- A CLAIM that no block serves reads device memory (R270). -/
def claimMiss (die : Nat) (v : Stream) (s : State) : State :=
  let t := logStick s.msd.specMiss 1 { s with msd := { s.msd with specMiss := ctrAdd s.msd.specMiss 1 } }
  grantLanes die (t.setStream { v with go := true })

/-- CLAIM_SERVICE (R270, R324): the die serves its earliest CLAIM from a matching block, or from device memory. -/
def execClaimService (die : BitVec 2) (ecc : Ecc) (s : State) : Res :=
  let n := die.toNat
  whileClocked s (match peek [] s.msd.claims n with
    | [] => s
    | c :: rest =>
      match s.msd.streams.find? fun v => decide (v.die = n) && decide (v.id = c.stream) with
      | none => s
      | some v =>
        let t := { s with msd := { s.msd with claims := put [] s.msd.claims n rest } }
        match c.block s with
        | none => nextClaim n (claimMiss n v t)
        | some (k, g) =>
          if !g.ready then s
          else
            match lanes.find? (laneFree s n) with
            | none => s
            | some l =>
              let t := countEcc ecc t
              if 0 < ecc.doubles then nextClaim n (claimMiss n v (dropStage k t))
              else
                let t := logStick t.msd.specHit 1 { t with msd := { t.msd with specHit := ctrAdd t.msd.specHit 1 } }
                nextClaim n ((t.setStage k none).setStream
                  { v with go := true, lane := some l, src := g.src, ready := true, image := g.image, resid := g.resid }))

/-! ### Completion -/

/-- Lines of a WRITE still wait for the host's BIRsp (R361). -/
def awaitsHost (s : State) (y : Xfer) : Bool :=
  !y.desc.peer && !isHost y.src.addr && (List.range y.geom.len).any fun i =>
    s.host.snoop.any fun e => decide (e.1 / 64 = y.src.lineAddr i / 64)

/-- A WRITE at its destination (R181, R237, R244, R346): the compare passes, and its lines are written; or it fails, and nothing is. -/
def completeWrite (f : Nat) (y : Xfer) (r : EndResult) (s : State) : State :=
  if r = .crc then (if y.sent && decide (y.left = y.geom.len) && !y.arrived then refuseWrite f y s else s)
  else if y.desc.peer then (if y.sent then finish f y s else s)
  else if y.done then (if awaitsHost s y then s else finish f y s)
  else if y.sent && isHost y.src.addr && !y.arrived then
    pumpWrite (y.geom.len + 1) f y.slot (s.onFold f fun x => x.setXfer { y with arrived := true })
  else s

/-- What a peer finds instead of serving a transfer (R259, R261, R329). -/
def peerFinds (f : Nat) (y : Xfer) (r : EndResult) (s : State) : State :=
  match r with
  | .share die => peerBad f y 0x20 engPort (at_ 62 2 2 + at_ 0 3 (die.toNat + 1)) s
  | .address a => peerBad f y 0x12 engDrover a.toNat s
  | .memory p a => peerBad f y 0x53 engPort (memDetail 1 p.toNat a.toNat) s
  | .good | .crc => s

/-- TRANSFER_COMPLETE (R31, R181, R244): a transfer reaches its completion event; `r` is what its far end finds. -/
def execTransferComplete (f : FoldId) (t : BitVec 6) (r : EndResult) (s : State) : Res :=
  let n := f.toNat
  whileClocked s (match (s.fold n).xfer t.toNat with
    | none => s
    | some y =>
      let k := y.desc.kind
      let tapped_ := (s.fold n).dr.taps.any fun u => decide (u.xfer = y.slot) && u.stream.isSome
      let ok := decide (r ≠ .crc)
      if y.held then s
      else if r ≠ .good && r ≠ .crc then
        (if y.desc.peer && (decide (k = kRead) || (decide (k = kWrite) && y.sent)) then peerFinds n y r s else s)
      else if k = kRead then (if y.allLanded then compareXfer n n 0 none y ok s else s)
      else if k = kMtap then
        if y.allLanded && tapped_ then matchTaps n (compareXfer n n 1 none y ok (dropTap n y.slot s)) else s
      else if k = kWrite then completeWrite n y r s
      else if k = kFold then
        if y.done then
          match s.job.bind fun j => j.place y.desc.dfold with
          | some g => compareXfer n g 0 (some (false, (s.fold n).ex.prog)) y ok s
          | none => s
        else s
      else if y.done then finish n y s else s)

/-! ### The end of a job's transfers (R257, R260, R271) -/

/-- A request belongs to the job and is discarded with it: those of a stage that was cancelled still take their slots (R271). -/
def ReqFor.ofJob : ReqFor → Bool
  | .xfer _ _ | .stream _ _ | .burst _ _ => true
  | .dev k => decide (k ≠ .out)
  | .stage _ _ _ | .cxl _ | .remote _ _ _ | .remoteW _ _ => false

/-- Every stream, claim and staging block of the job is discarded, with the requests of its transfers and of its loads (R257, R271,
R410). -/
def clearMast (s : State) : State :=
  let t := s.msd.stages.foldl (fun t e => dropStage e.1 t) s
  let t := t.dropReqs ReqFor.ofJob
  { t with msd := { t.msd with streams := [], claims := [], devReads := [] } }

end Sys2Proof.Machine
end

