-- ==== Sys2Proof/Machine/Flags.lean ====
section
/-! DEFINITION. The status field of each path (R401-R405) and the temperature limits that it follows (R458). -/
namespace Sys2Proof.Machine

/-! ### Temperature limits (R458, R481) -/

/-- Sensors 0 to 42 are junctions, in m°C; the others are rails (R481). -/
def junctions : Nat := 43

/-- The reading of sensor `i` is at or above a limit in °C. -/
def hotAt (readings : List Int) (limit : Int) (i : Nat) : Bool := decide (1000 * limit ≤ nth 0 readings i)

/-- A junction is at or above its warning limit (R458). -/
def State.junctionWarm (s : State) : Bool := (List.range junctions).any (hotAt s.look.sensors s.pow.warnJ.toNat)

/-- A memory device is at or above its warning limit (R458). -/
def State.memoryWarm (s : State) : Bool :=
  (List.range s.chip.grade.ports).any (hotAt s.look.memTemps s.pow.warnM.toNat)

/-! ### The status field -/

/-- A temperature is at or above its warning limit (R460). -/
def State.warm (s : State) : Bool := s.junctionWarm || s.memoryWarm

/-- An enabled link of the grade is in the failed state (R403). -/
def State.linkFailed (s : State) : Bool :=
  (List.range s.chip.grade.links).any fun l => bitOf s.rig.linkEn.toNat l && decide ((peek Link.init s.rig.links l).st = 3)

/-- The bits that a condition of R403 holds at 1. -/
def State.heldBits (s : State) : Nat :=
  at_ bitFatal 1 (b2n (decide (s.chip.fatal ≠ 0))) +
  at_ bitChk 1 (b2n (s.folds.any fun p => p.2.ex.tally.isSome)) +
  at_ bitTherm 1 (b2n s.warm) + at_ bitLink 1 (b2n s.linkFailed) +
  at_ bitMem 1 (b2n (s.msd.ports.any fun p => p.2.failed))

/-- Bits 14:5 of a path's copy: what events have set and what conditions hold (R402, R403). -/
def State.copyOf (s : State) (path : Nat) : BitVec 16 := peek 0 s.dict.status path ||| BitVec.ofNat 16 s.heldBits

/-- The attention mask of a path; all of bits 14:5 by default (R406). -/
def State.maskOf (s : State) (path : Nat) : BitVec 16 := peek 0x7FE0 s.dict.attMask path

/-- The status field of a path: paths H, F and M are 0, 1 and 2 (R401, R405). -/
def State.statusOf (s : State) (path : Nat) : BitVec 16 :=
  let v := s.copyOf path
  if v &&& s.maskOf path = 0 then v else v ||| 0x8000

/-- A path clears the bits of its own copy that `w` names; a held bit stays 1 (R404). -/
def clearStatus (path : Nat) (w : BitVec 16) (s : State) : State :=
  let keep := BitVec.ofNat 16 s.heldBits
  let drop := w &&& 0x7FE0 &&& ~~~keep
  { s with dict := { s.dict with status := put 0 s.dict.status path (peek 0 s.dict.status path &&& ~~~drop) } }

/-- The conditions that begin to hold set their bits: THERM when a temperature reaches its warning limit (R403). -/
def noteWarm (was : Bool) (s : State) : State := if s.warm && !was then setStatus bitTherm s else s

end Sys2Proof.Machine
end

