-- ==== Sys2Proof/Machine/Reset.lean ====
section
/-! DEFINITION. Reset and start-up: the sources, what a device reset leaves, the release order, and block-level resets
(R462-R479, R507-R514). -/
namespace Sys2Proof.Machine

/-! ### Sources (R462) -/

def srcPower : Nat := 0
def srcResetN : Nat := 1
def srcPerst : Nat := 2
def srcHot : Nat := 3
def srcLinkDown : Nat := 4
def srcCommand : Nat := 5
def srcWatchdog : Nat := 6
def srcTrip : Nat := 7

/-- The release sequence of the last device reset is over: the device became ready, entered recovery or became fatal since. -/
def State.settled (s : State) : Bool := !s.chip.gather

/-- The reset cause once source `src` has asserted (R479). -/
def State.causeAfter (s : State) (src : Nat) : BitVec 16 :=
  if src = srcPower then 1
  else if s.settled then BitVec.ofNat 16 (2 ^ src + 4096 * src)
  else s.chip.cause ||| BitVec.ofNat 16 (2 ^ src)

/-- The lookout's state after a device reset: what flash and fuses hold stays, an open update session ends as an abort does
(R469, R485, R490), and a power loss takes the buffered log entries with it. -/
def Lookout.afterReset (x : Lookout) (power : Bool) : Lookout :=
  let torn := x.session.isSome
  { Lookout.init with
    log := x.log
    buf := if power then [] else x.buf
    seq := if power then ((x.log.map LogEnt.seq).foldl max 0) else x.seq
    img0 := if torn && decide (x.active ≠ 0) then [] else x.img0
    img1 := if torn && decide (x.active = 0) then [] else x.img1
    active := x.active
    nextBoot := x.nextBoot
    rollback := x.rollback
    fwVersion := x.fwVersion
    svn := x.svn
    kept := x.kept
    ident := x.ident
    rootHash := x.rootHash }

/-- Path H's write of an entry waits for the lookout to perform it (R396). -/
def State.writesEntry (s : State) (i sub : Nat) : Bool :=
  s.dict.slots.any fun p => p.2.wait.any fun w => decide (w.1 = i) && decide (w.2.1 = sub)

/-- The records after a device reset: training records that were being written are half written, and at a power loss so is every entry
whose write was under way (R325, R468, R483). -/
def State.keptAfter (s : State) (power : Bool) : Kept :=
  let k := s.look.kept
  let torn := fun (i sub : Nat) => power && s.writesEntry i sub
  { k with
    spread := if torn 0x4000 3 then k.spread.tear else k.spread
    rate := if torn 0x5000 5 then k.rate.tear else k.rate
    full := if torn 0x5001 2 then k.full.tear else k.full
    node := if torn 0x6000 2 then k.node.tear else k.node
    links := if torn 0x6000 5 then k.links.tear else k.links
    recs := if s.msd.recWriting then k.recs.tear else k.recs }

/-- JOBSEQ and tag of each job, running or preempted (R420). -/
def State.jobsHeld (s : State) : List (Nat × Nat) :=
  (s.job.toList ++ s.saved.map Saved.job).map fun j => (j.seq, j.hdr.tag)

/-- A commit is under way: path H's command waits for the lookout, and no session is open (R396, R490). -/
def State.burning (s : State) : Bool :=
  s.look.session.isNone && s.dict.slots.any fun p =>
    match p.2.wait with
    | some (i, sub, _, v) => decide (i = 0x9010) && decide (sub = 5) && decide (v = 4)
    | none => false

/-- The rollback count after a device reset: a reset during the burn leaves a count between the old and the new value, which is a free
value (R489). -/
def State.rollbackAfter (s : State) : Nat :=
  let x := s.look
  if s.burning then x.rollback + Config.free s.freeCtr % (x.svn - x.rollback + 1) else x.rollback

/-- A device reset asserts (R464, R467, R469, R470): every die returns to its reset state, and only what flash, fuses, straps
and the world outside hold stays. The memory entries of the next reset act from this one (R331). -/
def assertReset (src : Nat) (s : State) : State :=
  let s := flushRuns (fun _ => true) s
  let c := s.chip
  let m := s.msd
  let power := decide (src = srcPower)
  let k := s.keptAfter power
  let epoch := if c.phase = .held then k.epoch.now 0 else k.epoch.now 0 + 1
  { State.reset with
    pending := s.pending
    freeCtr := s.freeCtr + 1
    chip := { Chip.init with
      grade := c.grade, stepping := c.stepping, serial := c.serial, quadMap := c.quadMap, rigged := c.rigged,
      testEn := c.testEn, pgood := c.pgood, sysRef := c.sysRef, cxlRef := c.cxlRef, rigRef := c.rigRef, phase := .held,
      cause := s.causeAfter src, failedFolds := if power then 0 else c.failedFolds,
      dieTests := if power then 0 else c.dieTests, repairs := if power then 0 else c.repairs,
      tripHold := !power && (c.tripHold || decide (src = srcTrip)), ended := c.ended ++ s.jobsHeld, rstLow := c.rstLow,
      perstLow := c.perstLow }
    host := { HostIf.init with lastSeq := k.seq.now 0, hostMem := s.host.hostMem, hdmBase := s.host.hdmBase }
    msd := { Msd.init with
      config := m.config, rawGiB := m.rawGiB, rate := m.rate, rateNow := k.rate.now 48, fullNow := k.full.now false,
      trainKind := m.trainKind, trainMs := m.trainMs }
    rig := { Rig.init with nodeId := k.node.now 0, linkEn := k.links.now 0xFFFFFFFF, epoch := epoch }
    look := { s.look.afterReset power with rollback := s.rollbackAfter, kept := { k with epoch := k.epoch.write epoch } }
    pow := { Power.init with spread := k.spread.now 2 } }

/-- Work of the lookout that programs or erases flash (R468); none while the lookout is in reset. -/
def State.flashWork (s : State) : Bool :=
  s.lookoutRuns && (s.msd.recWriting || s.look.session.isSome || !s.look.buf.isEmpty || s.dict.slots.any fun p => p.2.wait.isSome)

/-- A source of a device reset is taken (R466, R468): while flash work is under way, whether a program or erase pulse is in
progress is a free value; within a pulse every source but power-good is held off. -/
def takeReset (src : Nat) (s : State) : State :=
  if src = srcPower then assertReset src s
  else if !s.chip.heldOff.isEmpty then { s with chip := { s.chip with heldOff := s.chip.heldOff ++ [src] } }
  else if s.flashWork then
    if s.free 1 = 1 then { s.used with chip := { s.chip with heldOff := [src] } } else assertReset src s.used
  else assertReset src s

/-- RESET_HOLDOFF_END (R468): the flash pulse ends and the held-off sources assert. -/
def execResetHoldoffEnd (s : State) : Res :=
  .next (s.chip.heldOff.foldl (fun t src => assertReset src t) s)

/-- PGOOD_FALL (R462, R463, R513): power-good falls and resets the device at once, unless its filter ignores the low: one shorter than 1 µs
is ignored, one of 2 µs or longer taken, and how long it is the command does not say (log entry 111). -/
def execPgoodFall (s : State) : Res :=
  .next (if !s.chip.pgood then s
    else if s.free 1 = 1 then
      let t := assertReset srcPower s.used
      { t with chip := { t.chip with pgood := false } }
    else s.used)

/-- PGOOD_RISE (R355, R463, R514): power-good rises and samples the straps. -/
def execPgoodRise (roleSel testEn : Bool) (s : State) : Res :=
  .next (if s.chip.pgood then s
    else { s with chip := { s.chip with pgood := true, rigged := roleSel, testEn := testEn } })

/-- RESET_N is low for `ns` nanoseconds: a low that outlasts the least assertion of a reset is still there when that ends (R466, R467, log
entry 116). -/
def lowReset (ns : Nat) (s : State) : State := { s with chip := { s.chip with rstLow := s.chip.rstLow || decide (10000 ≤ ns) } }

/-- RESET_N (R466, R508): a low shorter than 200 ns is ignored, one of 250 ns or more is taken, and one between may be either. Without
power-good only the level counts. -/
def execResetN (lowNs : BitVec 32) (s : State) : Res :=
  let ns := lowNs.toNat
  .next (if ns < 200 then s
    else if !s.chip.pgood then lowReset ns s
    else if 250 ≤ ns then lowReset ns (takeReset srcResetN s)
    else if s.free 1 = 1 then takeReset srcResetN s.used else s.used)

/-- PERST_N (R462, R508): it falls. -/
def execPerstN (s : State) : Res :=
  let t := if s.chip.pgood then takeReset srcPerst s else s
  .next { t with chip := { t.chip with perstLow := true } }

/-- CXL_HOT_RESET (R462): a hot reset or link disable, also one that arrives in the assertion or release of another reset (R467). -/
def execCxlHotReset (s : State) : Res := .next (if s.chip.pgood then takeReset srcHot s else s)

/-- The CXL link goes down and stays down (R462, R463): a reset while source 4 is armed and the device is ready (OD 0x2001.02 reads 1). -/
def linkGone (s : State) : State :=
  let t := { s with chip := { s.chip with cxlUp := false } }
  if s.chip.cxlUp && s.chip.ldownArm && decide (s.chip.phase = .ready) && decide (s.chip.fatal = 0) then takeReset srcLinkDown t
  else t

def execCxlLinkDown (s : State) : Res := .next (linkGone s)

/-- CXL_REFCLK_LOSS (R507): the CXL link goes down. -/
def execCxlRefclkLoss (s : State) : Res := .next (linkGone { s with chip := { s.chip with cxlRef := false } })

/-- CXL_LINK_UP (R471): the port trains once the IOD has been released; the table's bounds put the link up before the time that the
firmware may take to verify (log entry 102). -/
def execCxlLinkUp (s : State) : Res :=
  whileClocked s (match s.chip.phase with
    | .held | .noClock => s
    | .released | .booted | .trained | .ready | .recovery => { s with chip := { s.chip with cxlUp := true, cxlRef := true } })

/-- WATCHDOG_EXPIRY (R482): the watchdog runs once verified firmware runs. -/
def execWatchdogExpiry (s : State) : Res := .next (if s.look.wdog then takeReset srcWatchdog s else s)

/-! ### Ball states (R473) -/

/-- The balls other than power and ground, by what R473 and R511 say of them: RESET_N, PGOOD, PERST_N and the straps, and the other inputs
of the IOD; its other digital balls; and the digital balls of the memory-side dies, among them each port's memory reset ball (R474). The
lanes are the analogue balls of each. -/
inductive Ball where
  | strap
  | iodIn
  | iod
  | msd
  | iodLane
  | msdLane
  deriving DecidableEq, Repr

/-- What a ball does: an input with the weak pull-up, a transmitter in electrical idle, or what its die has configured it for. -/
inductive BallState where
  | pulledUp
  | idle
  | configured
  deriving DecidableEq, Repr

/-- The IOD has configured its balls: step 1 of the release order is reached (R471, R473). -/
def Phase.iodUp (p : Phase) : Bool := !(decide (p = .held) || decide (p = .noClock))

/-- The memory-side dies have configured theirs: step 3 is reached; in recovery mode they are not released (R471, R488). -/
def Phase.msdUp (p : Phase) : Bool := decide (p = .booted) || decide (p = .trained) || decide (p = .ready)

/-- The state of a ball from the assertion of a device reset on: every input keeps its pull-up (R464, R473, R511). -/
def State.ball (s : State) (b : Ball) : BallState :=
  match b with
  | .strap | .iodIn => .pulledUp
  | .iod => if s.chip.phase.iodUp then .configured else .pulledUp
  | .msd => if s.chip.phase.msdUp then .configured else .pulledUp
  | .iodLane => if s.chip.phase.iodUp then .configured else .idle
  | .msdLane => if s.chip.phase.msdUp then .configured else .idle

/-! ### Release (R467, R471) -/

/-- Links that the IOD's release trains: those enabled, in the rigged role (R333, R355), whose reference clock runs; a domain without its
clock stays in reset (R465, R506). -/
def releaseLinks (s : State) : State :=
  if s.chip.rigged then
    (List.range s.chip.grade.links).foldl (fun t l =>
      if bitOf t.rig.linkEn.toNat l && bitOf t.chip.rigRef.toNat (l / 8) then
        { t with rig := { t.rig with links := put Link.init t.rig.links l { peek Link.init t.rig.links l with st := 1 } } }
      else t) s
  else s

/-- FATAL with cause 0xFF, which the log describes (R406); the entry's class is the model's (log entry 89). -/
def fatalOther (s : State) : State := logFree 9 (setFatal 0xFF none s)

/-- Step 1 with the clock present: the IOD and the lookout are released; TEST_EN sets FATAL (R514). -/
def releaseDies (s : State) : State :=
  let t := releaseLinks { s with chip := { s.chip with phase := .released } }
  if t.chip.testEn then fatalOther t else t

/-- Nothing keeps a device reset asserted: PGOOD is high, no thermal trip waits for the sensors, and no source is held off (R460, R466,
R468). -/
def State.mayRelease (s : State) : Bool :=
  decide (s.chip.phase = .held) && s.chip.pgood && !s.chip.tripHold && s.chip.heldOff.isEmpty

/-- The reset is released: step 1 of the release order (R471, R507). -/
def release (s : State) : State :=
  if s.chip.sysRef then releaseDies s else { s with chip := { s.chip with phase := .noClock } }

/-- RESET_RELEASE (R460, R466, R467, R508): the reset is released, once RESET_N and PERST_N are high; whether one that has fallen has risen
is a free value (log entry 116). -/
def execResetRelease (s : State) : Res :=
  .next (if !s.mayRelease then s
    else if s.chip.rstLow || s.chip.perstLow then
      if s.free 1 = 1 then release { s.used with chip := { s.chip with rstLow := false, perstLow := false } } else s.used
    else release s)

/-- SYS_REFCLK_APPEARS (R507). -/
def execSysRefclkAppears (s : State) : Res :=
  .next (let t := { s with chip := { s.chip with sysRef := true } }
    if s.chip.phase = .noClock ∧ s.chip.heldOff = [] then releaseDies t else t)

/-- SYS_REFCLK_LOSS (R507): lost while the device runs, the job aborts and FATAL is set with cause 0xFF, logged. -/
def execSysRefclkLoss (s : State) : Res :=
  .next (let t := { s with chip := { s.chip with sysRef := false } }
    match s.chip.phase with
    | .held | .noClock => t
    | _ => if s.chip.sysRef then logFree 9 (setFatal70 0xFF t) else t)

/-! ### Firmware images (R486, R487) -/

/-- A byte of an image slot; an erased byte reads 0xFF. -/
def erased : Byte := 0xFF

def Lookout.image (x : Lookout) (slot : Nat) : List Host.Cell := if slot = 0 then x.img0 else x.img1

def Lookout.setImage (x : Lookout) (slot : Nat) (m : List Host.Cell) : Lookout :=
  if slot = 0 then { x with img0 := m } else { x with img1 := m }

/-- Bytes of an image slot. -/
def Lookout.imageBytes (x : Lookout) (slot a n : Nat) : List Byte := peekRun erased (x.image slot) a n

/-- The header of a slot: 512 bits (R486). -/
def Lookout.imageHdr (x : Lookout) (slot : Nat) : Nat := leNat (x.imageBytes slot 0 64)

def hdrSvn (h : Nat) : Nat := fld h 464 8
def hdrVersion (h : Nat) : Nat := fld h 432 32
def hdrBodyLen (h : Nat) : Nat := fld h 400 32
def hdrEntry (h : Nat) : Nat := fld h 368 32

/-- The signed bytes of a slot: bytes 0 to 575 and the body (R486). -/
def Lookout.signedBytes (x : Lookout) (slot : Nat) : List Byte :=
  x.imageBytes slot 0 576 ++ x.imageBytes slot 4096 (hdrBodyLen (x.imageHdr slot))

/-- The verification result of a slot (R487). -/
def Lookout.verify (x : Lookout) (slot : Nat) : Nat :=
  let h := x.imageHdr slot
  let n := hdrBodyLen h
  if fld h 480 32 ≠ 0x414B4657 || fld h 472 8 ≠ 1 || n = 0 || 4190208 < n
      || (x.imageBytes slot 1088 3008).any fun b => decide (b ≠ 0) then 1
  else if beNat (sha512 (x.imageBytes slot 64 512)) ≠ x.rootHash.toNat then 2
  else if !pssVerify (x.imageBytes slot 64 512) (x.imageBytes slot 576 512) (x.signedBytes slot) then 3
  else if hdrSvn h < x.rollback then 4
  else 0

/-- A security event: SEC is set and the event is logged (R497). -/
def secEvent (s : State) : State := logFree 6 (setStatus bitSec s)

/-- Bytes of the lookout's memory (R480). -/
def lookoutBytes : Nat := 131072

/-- The body of an image as the lookout's memory holds it once it has been loaded: from its first byte on, as far as the memory goes (R480,
R487, log entry 112). -/
def Lookout.body (x : Lookout) (slot : Nat) : List Host.Cell :=
  let n := min lookoutBytes (hdrBodyLen (x.imageHdr slot))
  (x.image slot).filterMap fun e => if 4096 ≤ e.1 ∧ e.1 < 4096 + n then some (e.1 - 4096, e.2) else none

/-- The image of `slot` is loaded and runs from its entry point: the watchdog starts, and an identity key that neither wrapped copy yields
is a security event (R482, R486, R487, R493). -/
def runImage (slot : Nat) (s : State) : State :=
  let x := s.look
  let h := x.imageHdr slot
  let t := { s with
    chip := { s.chip with phase := .booted }
    look := { x with active := slot, fwVersion := BitVec.ofNat 32 (hdrVersion h), svn := hdrSvn h, fwResult := 0, wdog := true,
                     mem := x.body slot, merr := [], entry := hdrEntry h, priv := x.ident.privateKey } }
  if t.look.keyOk then t else secEvent t

/-- The lookout logs the reset with its cause, which sets LOG once the device is ready (R479), and each job that it ended (R420). -/
def logReset (s : State) : State :=
  let c := s.freeCtr
  let t := logAppend 2 (Config.free c % 2 ^ 16) (at_ 0 16 s.chip.cause.toNat + at_ 16 304 (Config.free (c + 1)))
    { s with freeCtr := c + 2, chip := { s.chip with ended := [], resetNoted := decide (s.look.buf.length < 256) } }
  s.chip.ended.foldl (fun u j => logWith 2 128 (j.1 % 2 ^ 64 + 2 ^ 64 * (j.2 % 2 ^ 64)) u) t

/-- LOOKOUT_BOOT (R479, R487, R488): the boot ROM tries the next boot slot, then the other; without a valid image it enters recovery
mode. The reset is logged. -/
def execLookoutBoot (s : State) : Res :=
  .next (if s.chip.phase ≠ .released then s
    else
      let s := logReset s
      let a := s.look.nextBoot
      let b := 1 - a
      if s.look.verify a = 0 then runImage a s
      else
        let r := s.look.verify b
        if r = 0 then
          let t := runImage b s
          secEvent { t with look := { t.look with nextBoot := b } }
        else
          fatalOther { s with chip := { s.chip with phase := .recovery, gather := false }, look := { s.look with fwResult := r } })

/-! ### Memory training (R311-R313, R325, R326) -/

/-- The load matches a row of R311. -/
def loadOk (p : PortReport) : Bool :=
  match p.config.toNat with
  | 0 => [2, 3, 4].contains p.rawGiB.toNat
  | 1 => decide (p.rawGiB.toNat = 8)
  | 2 => [16, 32, 48, 64, 80].contains p.rawGiB.toNat
  | _ => false

/-- Every port carries the same load, and it matches a row (R312). -/
def loadsOk (ps : List PortReport) : Bool :=
  match ps with
  | [] => false
  | p :: t => loadOk p && t.all fun q => decide (q.config = p.config) && decide (q.rawGiB = p.rawGiB)

/-- The pin rates from `wish` down (R313). -/
def ratesFrom (wish : Nat) : List Nat := [48, 40, 32].filter fun r => decide (r ≤ wish)

/-- The training record of port `p` serves at pin rate `rate` (R325, R327): its load and its pin rate are those of this start, the port
has not failed since, and its check and the verification pattern pass. -/
def recordFits (recs : List (Nat × Option TrainRec)) (rate p : Nat) (r : PortReport) : Bool :=
  match peek none recs p with
  | some t => r.storedOk && t.ok && decide (t.config = r.config.toNat) && decide (t.rawGiB = r.rawGiB.toNat) &&
      decide (t.rate = rate)
  | none => false

/-- How the ports train at the pin rate that training ends at (R313, R325, OD 0x5001.01): 0 stored, 1 first use, 2 invalid record, 3 on request; of several, the device reports
what is first here (log entry 90). -/
def trainKindOf (s : State) (rate : Nat) (ps : List PortReport) : Nat :=
  let recs := s.look.kept.recs.now []
  if s.msd.fullNow then 3
  else if (List.range ps.length).any fun p => (peek none recs p).isNone then 1
  else if (enumFrom 0 ps).all fun e => recordFits recs rate e.1 e.2 then 0
  else 2

/-- A pin rate at which some port fails: MEM is set and the fallback is logged (R313). -/
def fallBack (s : State) : State := logFree 3 (setStatus bitMem s)

/-- The ports as training leaves them: the group lines hold their pattern (R316). -/
def freshPorts (n : Nat) : List (Nat × Port) := (List.range n).map fun p => (p, { Port.init with pattern := true })

/-- Training ends at rate `r` (R313, R325, R326): memory holds no defined data, the ports have written their group lines, and a
full training's records are to be written. -/
def trainedAt (r : Nat) (ps : List PortReport) (s : State) : State :=
  let k := trainKindOf s r ps
  let p := ps.headD { config := 0, rawGiB := 0, storedOk := false, best := 0 }
  let ms := if k = 0 then s.free 32 % 200 else s.free 32 % 2501
  { s.used with
    chip := { s.chip with phase := .trained }
    msd := { s.msd with mem := [], lineErr := [], ports := freshPorts ps.length, config := p.config.toNat,
                        rawGiB := p.rawGiB.toNat, rate := r, trainKind := k, trainMs := ms, recWriting := decide (k ≠ 0) } }

/-- PORT_TRAINING (R312, R313, R325). -/
def execPortTraining (ps : List PortReport) (s : State) : Res :=
  whileClocked s (if s.chip.phase ≠ .booted || s.chip.fatal = 1 || s.chip.fatal = 2 || ps.length ≠ s.chip.grade.ports then s
    else if !loadsOk ps then setFatal 1 none (setStatus bitMem s)
    else
      let rates := ratesFrom s.msd.rateNow.toNat
      let trains := fun (r : Nat) => ps.all fun p => decide (r ≤ p.best.toNat)
      let failed := rates.takeWhile fun r => !trains r
      match rates.find? trains with
      | some r => trainedAt r ps (failed.foldl (fun t _ => fallBack t) s)
      | none => setFatal 2 none (setStatus bitMem (failed.dropLast.foldl (fun t _ => fallBack t) s)))

/-- The record of a port after a full training (R325); that of a port that has failed since serves no more (R327). -/
def Msd.record (m : Msd) (p : Nat) : TrainRec :=
  { config := m.config, rawGiB := m.rawGiB, rate := m.rate, ok := !(peek Port.init m.ports p).failed }

/-- The records that a full training writes. -/
def State.newRecords (s : State) : List (Nat × Option TrainRec) :=
  (List.range s.chip.grade.ports).map fun p => (p, some (s.msd.record p))

/-- TRAINING_RECORD_WRITTEN (R325, R483): every port's record is written into the copy that does not hold the current ones, and then the
request for full training is cleared. -/
def execTrainingRecordWritten (s : State) : Res :=
  .next (if s.msd.recWriting then
      State.keep (fun k => { k with recs := k.recs.write s.newRecords, full := k.full.write false })
        { s with msd := { s.msd with recWriting := false } }
    else s)

/-! ### Self-tests and ready (R436, R438, R471) -/

/-- The failed-fold mask after the self-test of fold `f` (R438). -/
def setFailed (f : Nat) (bad : Bool) (s : State) : State :=
  let t := { s with chip := { s.chip with failedFolds := BitVec.ofNat 32 (setBit s.chip.failedFolds.toNat f bad) } }
  let t := t.onFold f fun x => { x with db := { x.db with tested := true } }
  if bad then logWith 9 5 f t else t

/-- FOLD_SELF_TEST (R436, R438, R471): the quads are tested one at a time, in order. -/
def execFoldSelfTest (q : BitVec 3) (failed : BitVec 4) (repairs : BitVec 16) (s : State) : Res :=
  let n := q.toNat
  whileClocked s (if s.chip.phase ≠ .trained || s.chip.grade.quads ≤ n || popCount s.chip.quadsTested.toNat 8 ≠ n then s
    else
      let t := { s with chip := { s.chip with
        quadsTested := BitVec.ofNat 8 (setBit s.chip.quadsTested.toNat n true), repairs := repairs } }
      (List.range 4).foldl (fun u i => setFailed (4 * n + i) (bitOf failed.toNat i) u) t)

/-- DEVICE_READY (R438, R471): the die and path tests complete; a failed one sets FATAL with cause 0xFF and is logged. LOG is set
for the reset's own entry (R479). -/
def execDeviceReady (dies : BitVec 8) (s : State) : Res :=
  whileClocked s (if s.chip.phase ≠ .trained || popCount s.chip.quadsTested.toNat 8 ≠ s.chip.grade.quads then s
    else
      let d := dies &&& 0xBF
      let t := { s with chip := { s.chip with phase := .ready, dieTests := d, gather := false } }
      let t := if d = 0 then t else setFatal 0xFF none (logWith 9 8 d.toNat t)
      if s.chip.resetNoted then setStatus bitLog { t with chip := { t.chip with resetNoted := false } } else t)

/-! ### Block-level reset (R475-R477) -/

/-- A fold is busy (R475, OD 0x3060.06). -/
def State.foldBusy (s : State) (f : Nat) : Bool :=
  let x := s.fold f
  decide (x.dr.outstanding ≠ 0) || !x.dr.taps.isEmpty || (x.qu.queues.any fun q => !q.2.msgs.isEmpty) || bitOf s.chip.blockReset.toNat f
    || s.msd.stages.any fun e =>
      match e.2 with
      | some g => (match s.job with | some j => decide (j.place g.fold = some f) | none => false)
      | none => false

def State.busyFolds (s : State) : BitVec 32 :=
  BitVec.ofNat 32 (sumNat ((List.range s.chip.grade.folds).map fun f => if s.foldBusy f then 2 ^ f else 0))

/-- A block-level reset of the folds in `mask` is refused (R475). -/
def blockRefused (mask : Nat) (s : State) : Bool :=
  decide (s.chip.phase ≠ .ready) || decide (s.chip.fatal ≠ 0) || !s.chip.heldOff.isEmpty || s.job.isSome
    || !s.saved.isEmpty || (setBits mask 32).any s.foldBusy

/-- A block-level reset of the folds in `mask` begins (R476). -/
def beginBlock (mask : Nat) (s : State) : State :=
  { s with chip := { s.chip with blockReset := s.chip.blockReset ||| BitVec.ofNat 32 mask } }

/-- The folds of the quads in a mask (R439). -/
def quadFolds (quads : Nat) : Nat := sumNat ((setBits quads 8).map fun q => 15 * 16 ^ q)

/-- A quad reset also resets its clock generator, power monitor and governor (R453, R476); caps and floors are dictionary
entries outside the folds and stay. -/
def resetGovernor (q : Nat) (s : State) : State :=
  let u := peek Quad.init s.pow.quads q
  let v := { Quad.init with cap := u.cap, floor := u.floor, kTherm := u.kTherm, k := min 32 u.kTherm,
                            avs := u.avs, frame := u.frame }
  { s with pow := { s.pow with quads := put Quad.init s.pow.quads q v } }

/-- BLOCK_RESET_COMPLETE (R445, R476): the fold's state is reset and its self-test result stands in OD 0x1020.01. -/
def execBlockResetComplete (f : FoldId) (pass : Bool) (s : State) : Res :=
  let n := f.toNat
  whileClocked s (if bitOf s.chip.blockReset.toNat n then
      let t := (keepStretched n s).setFold n (s.fold n).kept
      let t := { t with chip := { t.chip with blockReset := BitVec.ofNat 32 (setBit s.chip.blockReset.toNat n false) } }
      setFailed n (!pass) t
    else s)

/-- UNCORRECTABLE_LOOKOUT_ERROR (R419, R480): FATAL with cause 0x04; the job aborts without records. -/
def execUncorrectableLookoutError (s : State) : Res :=
  .next (match s.chip.phase with
    | .held | .noClock => s
    | _ => setFatal70 4 s)

end Sys2Proof.Machine
end

