-- ==== Sys2Proof/Machine/Power.lean ====
section
/-! DEFINITION. Power, clocks and thermal (R446-R461, R481, R505). -/
namespace Sys2Proof.Machine

def State.quad (s : State) (q : Nat) : Quad := peek Quad.init s.pow.quads q
def State.setQuad (s : State) (q : Nat) (u : Quad) : State :=
  { s with pow := { s.pow with quads := put Quad.init s.pow.quads q u } }

/-- An override counter of R457 counts one event: key n is OD 0x4020.n. -/
def overCount (key : Nat) (on : Bool) (s : State) : State :=
  let b := peek 0 s.pow.overCtr key
  if on then logStick b 1 { s with pow := { s.pow with overCtr := put 0 s.pow.overCtr key (ctrAdd b 1) } } else s

/-! ### The window's end (R447, R448) -/

/-- What the running job has declared in the window, against its allowance HEAVY_MAX x 1,024 (R447, R449); the fault names the
fold of R448, or none when no fold of the quad ran in the window's last cycle (log entry 38). -/
def windowCheck (q : Nat) (s : State) : State :=
  let u := s.quad q
  match s.job with
  | some j =>
    let allow := j.prog.heavyMax * 1024
    let detail := at_ 32 32 u.jobSum + at_ 0 32 allow
    if allow < u.jobSum then
      match u.top with
      | some (f, b, t) => s.raiseFold f 0x15 engExec 1 b t detail
      | none => raise (s.repNone 0x15 0 engExec detail) s
    else s
  | none => s

/-! ### The governor (R453) -/

/-- The arithmetic clock F of the mode, in MHz (R450). -/
def State.fMHz (s : State) : Nat := if s.reefed then 640 else 800

/-- The predicted demand: full load without history, else the largest of the last 64 totals, and at least the allowance while
the job is younger than 8 windows (R453). -/
def predicted (windows : Nat) (hist : List Nat) (young : Option Nat) : Nat :=
  let d := if windows < 8 then 16384 else hist.foldl max 0
  match young with
  | some allow => max d allow
  | none => d

/-- The trim that the demand permits, in mV (R453). -/
def trimOf (d : Nat) : Int := if d ≤ 4096 then -30 else if d ≤ 8192 then -20 else if d ≤ 12288 then -10 else 0

/-- est(k) exceeds the cap, in exact integers: `cap8` is eight times the cap in watts (R453). -/
def overCap (d f : Nat) (t : Int) (cap8 k : Nat) : Bool :=
  decide ((cap8 * (1024 * 32 * 100 * 375) : Int) < ((8192 + 3 * d) * k * f : Nat) * (375 + t))

/-- The largest step from `k` down whose estimate is within the cap, and no lower than 8 (R453). -/
def stepWithin (d f : Nat) (t : Int) (cap8 : Nat) : Nat → Nat
  | 0 => 8
  | k + 1 => if 8 ≤ k ∧ overCap d f t cap8 (k + 1) then stepWithin d f t cap8 k else k + 1

/-- The governor's decision at a window's end (R453-R457, R505): a frame goes to the regulator when the target changes, or when that of the
last window end was answered with an error or not answered, as `again` says. -/
def governAs (again : Bool) (q total : Nat) (s : State) : State :=
  let u := s.quad q
  let hist := (total :: u.hist).take 64
  let windows := u.windows + 1
  let young := match s.job with
    | some j => if windows < peek 0 j.winStart q + 8 then some (j.prog.heavyMax * 1024) else none
    | none => none
  let d := predicted windows hist young
  let t0 := trimOf d
  let cool := decide (u.kTherm = 32)
  let t := if cool then max t0 u.floor else t0
  let cap8 := min (8 * u.cap.toNat) (s.pow.pkgCap.toNat - 312)
  let k := stepWithin d s.fMHz t cap8 32
  let target := 750 + t
  let frame := again || decide (target ≠ u.avs.getLastD 750)
  let avs := if frame then u.avs ++ [target] else u.avs
  let v := { u with frame := frame, k := min k u.kTherm, t := t, dpred := d, hist := hist, windows := windows,
                    winSum := 0, jobSum := 0, top := none, winCycles := 0, avs := avs }
  overCount 5 (decide (k = 8) && overCap d s.fMHz t cap8 8)
    (overCount 4 (!cool && decide (t0 < u.floor)) (overCount 3 (decide (k < 32)) (s.setQuad q v)))

/-- The governor's decision (R453, R505): whether the regulator answered a frame of the last window end is a free value (log entry 117); one
that it did not is sent again and logged, which sets LOG. -/
def govern (q total : Nat) (s : State) : State :=
  if (s.quad q).frame then
    if s.free 1 = 1 then governAs true q total (logFree 5 s.used) else governAs false q total s.used
  else governAs false q total s

/-- POWER_WINDOW (R447, R453): quad `q` closes its window. -/
def execPowerWindow (q : BitVec 3) (s : State) : Res :=
  let n := q.toNat
  let u := s.quad n
  whileClocked s (if s.chip.grade.quads ≤ n || u.winCycles < 1024 then s else govern n u.winSum (windowCheck n s))

/-! ### Droop (R452) -/

/-- DROOP: every following cycle of the fold is stretched. -/
def execDroop (f : FoldId) (s : State) : Res :=
  .next (s.onFold f.toNat fun x => { x with db := { x.db with droop := true } })

/-- SUPPLY_RECOVERS: the fold's cycles stop being stretched. -/
def execSupplyRecovers (f : FoldId) (s : State) : Res :=
  .next (s.onFold f.toNat fun x => { x with db := { x.db with droop := false } })

/-! ### Thermal (R458-R460, R481) -/

/-- The sensors that throttle quad `q`: its four junctions and the spine's (R459). -/
def quadSensors (q : Nat) : List Nat := [4 * q, 4 * q + 1, 4 * q + 2, 4 * q + 3, 32, 33, 34, 35]

/-- One evaluation of quad `q` by the thermal loop (R459); the clock step in use never exceeds k_thermal (R456, log entry 101). -/
def throttle (q : Nat) (s : State) : State :=
  let u := s.quad q
  if (quadSensors q).any (hotAt s.look.sensors 100) then
    let k := max 8 (u.kTherm - 2)
    overCount 2 (decide (k < u.kTherm)) (s.setQuad q { u with kTherm := k, k := min u.k k })
  else if (quadSensors q).any (hotAt s.look.sensors 95) then s
  else s.setQuad q { u with kTherm := min 32 (u.kTherm + 1) }

/-- THERMAL_LOOP (R459). -/
def execThermalLoop (s : State) : Res :=
  .next (if s.lookoutRuns then (List.range s.chip.grade.quads).foldl (fun t q => throttle q t) s else s)

/-- The first sensor at its trip limit, with its reading: junctions 0 to 42, then 64 + p for the memory behind port p
(R458, R460). -/
def tripSensor (s : State) : Option (Nat × Int) :=
  match (List.range junctions).find? (hotAt s.look.sensors 110) with
  | some i => some (i, nth 0 s.look.sensors i)
  | none =>
    match (List.range s.chip.grade.ports).find? (hotAt s.look.memTemps 100) with
    | some p => some (64 + p, nth 0 s.look.memTemps p)
    | none => none

/-- Every sensor reads at least 20 °C below its trip limit (R460). -/
def cooled (s : State) : Bool :=
  ((List.range junctions).all fun i => decide (nth 0 s.look.sensors i ≤ 90000)) &&
    (List.range s.chip.grade.ports).all fun p => decide (nth 0 s.look.memTemps p ≤ 80000)

/-- A thermal trip (R460): the job aborts with fatal cause 0x05, the sensor and its reading are logged, and the reset is
raised. -/
def trip (i : Nat) (v : Int) (s : State) : State :=
  takeReset srcTrip (logWith 5 40 (at_ 32 8 i + wrap 32 v) (setFatal70 5 s))

/-- SENSOR_SAMPLE (R460, R481): the lookout reads all sensors; those of absent folds read as zero. -/
def execSensorSample (readings memory : List Int) (s : State) : Res :=
  let rd := (enumFrom 0 readings).map fun p => if p.1 < 32 ∧ s.chip.grade.folds ≤ p.1 then 0 else p.2
  let t := { s with look := { s.look with sensors := rd, memTemps := memory } }
  .next (if s.chip.tripHold then { t with chip := { t.chip with tripHold := !cooled t } }
    else if !s.lookoutRuns then s
    else
      let t := noteWarm s.warm t
      match tripSensor t with
      | some (i, v) => if s.chip.heldOff.contains srcTrip then t else trip i v t
      | none => t)

end Sys2Proof.Machine
end

