-- ==== Sys2Proof/Machine/Jobs.lean ====
section
/-! DEFINITION. Jobs: the submission rings, the checks of a job header, the load of the folds and the start signal (R10-R18, R40-R44,
R366-R372, R423-R428). -/
namespace Sys2Proof.Machine

/-! ### Headers (R11, R14, R369, R370, R423, R424) -/

/-- `n` bytes at address `a` as one little-endian number (R6). -/
def State.readNat (s : State) (a n : Nat) : Nat := leNat (s.readMem a n)

/-- The job header of R11. -/
def jobHdr (w : Nat) : JobHdr :=
  { seed := fld w 448 64, step0 := fld w 384 64, image := fld w 320 64, taps := fld w 256 64, folds := fld w 224 32,
    bwR := fld w 216 8, bwW := fld w 208 8, bwX := fld w 200 8, sign := bitOf w 195, paired := bitOf w 194,
    mode := fld w 192 2, mastLimit := fld w 176 16, npExp := fld w 168 8, tag := fld w 128 32, records := fld w 64 64 }

/-- The submission block of R369. -/
def subBlk (w : Nat) : SubBlk :=
  { rlist := fld w 448 64, rlcount := fld w 432 16, save := fld w 368 64, pasid := fld w 348 20, pv := bitOf w 347 }

/-- The program header. -/
def progHdr (w : Nat) : ProgHdr :=
  { magic := fld w 480 32, verMajor := fld w 472 8, verMinor := fld w 464 8, foldCount := fld w 456 8,
    heavyMax := fld w 448 8, features := fld w 416 32, hdrCrc := fld w 384 32, sectOff := fld w 352 32,
    imageLen := fld w 320 32 }

/-- A fold section record. -/
def sectRec (w : Nat) : Sect :=
  { bundleOff := fld w 480 32, bundleCnt := fld w 464 16, shWords := fld w 448 16, shOff := fld w 416 32,
    datOff := fld w 384 32, datWords := fld w 368 16, liveCount := fld w 352 16, liveOff := fld w 320 32,
    descOff := fld w 288 32, preOff := fld w 256 32, preLines := fld w 232 24, preBase := fld w 208 24,
    crc := fld w 176 32 }

/-- A result-list entry (R370). -/
def resEnt (w : Nat) : ResEnt := { addr := fld w 64 64, len := fld w 20 44, tag := fld w 8 12 }

/-- A tap entry (R424). -/
def tapEnt (w : Nat) : TapEnt :=
  { step := fld w 192 64, fold := fld w 187 5, baddr := fld w 175 12, sk := bitOf w 174, line := fld w 157 17,
    tile := fld w 153 4, span := fld w 151 2, len := fld w 134 17, dest := fld w 70 64, tag := fld w 58 12,
    occ := fld w 50 8 }

/-- The tap list at address `a`; entries beyond the 256 that R423 allows are not read. -/
def State.readTaps (s : State) (a : Nat) : TapList :=
  let h := s.readNat a 64
  let n := fld h 464 16
  { magic := fld h 480 32, count := n, wend := fld h 400 64,
    ents := (List.range (min n 256)).map fun i => tapEnt (s.readNat (a + 64 + 32 * i) 32) }

/-! ### What runs next (R366, R372, R381) -/

def State.ring (s : State) (p : Nat) : Ring := peek Ring.init s.host.rings p
def State.setRing (s : State) (p : Nat) (r : Ring) : State :=
  { s with host := { s.host with rings := put Ring.init s.host.rings p r } }

/-- Entries that a ring holds (R368). -/
def Ring.held (r : Ring) : Nat := (r.tail.toNat + 2 ^ 32 - r.head.toNat) % 2 ^ 32

/-- The enabled ring of the highest priority that holds a job. -/
def State.readyRing (s : State) : Option Nat := (List.range 4).find? fun p => (s.ring p).en && decide ((s.ring p).held ≠ 0)

/-- The preempted job of the highest priority: its ring (R372). -/
def State.savedRing (s : State) : Option Nat :=
  (List.range 4).find? fun p => s.saved.any fun v => decide (v.job.ring = p)

/-- What the scheduler starts next: a preempted job, or the head of a ring (R372). -/
inductive Work where
  | none
  | fresh (ring : Nat)
  | again (ring : Nat)
  deriving DecidableEq, Repr

def State.nextWork (s : State) : Work :=
  match s.savedRing, s.readyRing with
  | some v, some r => if r < v then .fresh r else .again v
  | some v, none => .again v
  | none, some r => .fresh r
  | none, none => .none

/-- The scheduler may start, reject or resume a job: the device is ready and serves, no job runs, no record waits for room, no
block-level reset is under way and no reset is pending (R381, R419, R468, R472, R476). -/
def State.mayStart (s : State) : Bool :=
  decide (s.chip.phase = .ready) && decide (s.chip.fatal = 0) && s.clocked && s.job.isNone &&
    s.host.compWait.isEmpty && decide (s.chip.blockReset = 0)

/-! ### Rejection (R12, R15, R17, R44, R69, R371, R441, R493) -/

/-- `n` bytes at `a` lie wholly or partly beyond the device address limit; host memory has none. -/
def State.beyond (s : State) (a n : Nat) : Bool := !isHost a && decide (s.limit < a + n)

/-- A section at offset `o` of `n` bytes extends beyond the image. -/
def pastImage (len o n : Nat) : Bool := decide (n ≠ 0) && decide (len < o + n)

/-- A fold section breaks R15 (reason 0x0B). A descriptor list is taken to hold its first descriptor at least (log entry 27). -/
def sectBad (len : Nat) (x : Sect) : Bool :=
  decide (x.bundleCnt = 0) || decide (4096 < x.bundleCnt) || decide (16384 < x.shWords) || decide (16384 < x.datWords) ||
    decide (x.descOff % 32 ≠ 0) || pastImage len x.bundleOff (32 * x.bundleCnt) || pastImage len x.shOff (4 * x.shWords) ||
    pastImage len x.datOff (4 * x.datWords) || pastImage len x.liveOff (8 * x.liveCount) || pastImage len x.descOff 32 ||
    pastImage len x.preOff (64 * x.preLines)

/-- What the device reads at a job's start. -/
structure JobIn where
  hdr : JobHdr
  sub : SubBlk
  /-- The program header and its bytes, unless they cannot be read. -/
  prog : Option (ProgHdr × List Byte)
  /-- The fold section table, unless it cannot be read. -/
  table : Option (List Byte)
  results : List ResEnt
  taps : Option TapList
  deriving DecidableEq, Repr

def JobIn.sects (x : JobIn) : List Sect :=
  match x.table with
  | some b => (pieces 64 b).map fun l => sectRec (leNat l)
  | none => []

/-- The descriptor at address `entry`: job header and submission block (R367). -/
def readEntry (s : State) (entry : Nat) : JobHdr × SubBlk := (jobHdr (s.readNat entry 64), subBlk (s.readNat (entry + 64) 64))

/-- An access of the device's own that a job's start makes: address, bytes and no write. -/
abbrev OwnRead := Nat × Nat × Bool

/-- Bytes of device memory that a job's start has read in port slots, and the first line among them that could not be corrected
(R260, R319, R329). -/
def State.startLost (s : State) (a n : Nat) : Option Nat := (s.devRead (.start a n)).bind (·.bad)

/-- What the reads of a job's start bring adds to memory `m`. -/
def addStart (m : List Host.Cell) (d : DevRead) : List Host.Cell :=
  match d.key with
  | .start _ _ => d.mem.foldl (fun m e => put memDefault m e.1 e.2) m
  | _ => m

/-- The device as a job's start sees it: of device memory only what its reads have brought. -/
def State.startView (s : State) : State := { s with msd := { s.msd with mem := s.msd.devReads.foldl addStart [] } }

/-- What a job's start reads at `l` is there: host memory is translated (R362), and reads of device memory have been served (R260). -/
def State.startReady (s : State) (l : List OwnRead) : Bool :=
  s.ownReady l && l.all fun r =>
    isHost r.1 || s.beyond r.1 r.2.1 || (s.devRead (.start r.1 r.2.1)).any fun d => decide (d.left = 0)

/-- A job's start asks for what it lacks of `l`: translations, and lines of device memory. -/
def State.startAsk (l : List OwnRead) (s : State) : State :=
  l.foldl (fun t r =>
    if isHost r.1 || t.beyond r.1 r.2.1 || (t.devRead (.start r.1 r.2.1)).isSome then t
    else t.readFor (.start r.1 r.2.1) [(r.1, r.2.1)]) (s.ownAsk l)

/-- What a job's start has read or asked for is given up. -/
def State.dropStart (s : State) : State :=
  let mine := fun (k : DevKey) => match k with | .start _ _ => true | _ => false
  let t := s.dropReqs fun w => match w with | .dev k => mine k | _ => false
  { t with msd := { t.msd with devReads := t.msd.devReads.filter fun d => !mine d.key } }

/-- A read of a job's start fails: one of host memory as the command says, one of device memory by its lines (R329). -/
def State.startFails (s : State) (a n : Nat) (said : Bool) : Bool := if isHost a then said else (s.startLost a n).isSome

/-- What the start of a job needs to read after its descriptor, as far as it has read (R362): program header, fold section table, result
list and tap list; `v` is the device as the start sees it. -/
def startReads (s v : State) (h : JobHdr) (sub : SubBlk) (bad : JobReads) : List OwnRead :=
  let hdr : List OwnRead := if bad.image then [] else [(h.image, 64, false)]
  let p := progHdr (v.readNat h.image 64)
  let table : List OwnRead := if bad.image || bad.table || !s.startReady hdr then [] else [(h.image + p.sectOff, 64 * p.foldCount, false)]
  let list : List OwnRead := if bad.rlist || decide (4096 < sub.rlcount) then [] else [(sub.rlist, 16 * sub.rlcount, false)]
  let thdr : List OwnRead := if h.taps = 0 then [] else [(h.taps, 64, false)]
  let taps : List OwnRead := if h.taps = 0 || !s.startReady thdr then []
    else [(h.taps + 64, 32 * min 256 (fld (v.readNat h.taps 64) 464 16), false)]
  hdr ++ table ++ list ++ thdr ++ taps

/-- Which reads of a job's start fail, of those that its descriptor names: `said` for host memory. -/
def badReads (s v : State) (desc : Bool) (h : JobHdr) (sub : SubBlk) (said : JobReads) : JobReads :=
  let p := progHdr (v.readNat h.image 64)
  { desc := desc, image := s.startFails h.image 64 said.image
    table := s.startFails (h.image + p.sectOff) (64 * p.foldCount) said.table
    rlist := s.startFails sub.rlist (16 * sub.rlcount) said.rlist }

/-- A line of a job's tap list in device memory that cannot be corrected. -/
def tapsLost (s v : State) (h : JobHdr) : Option Nat :=
  if h.taps = 0 then none
  else (s.startLost h.taps 64).or (s.startLost (h.taps + 64) (32 * min 256 (fld (v.readNat h.taps 64) 464 16)))

/-- Reads a job's image tables and result list. -/
def readJob (s : State) (h : JobHdr) (sub : SubBlk) (bad : JobReads) : JobIn :=
  let prog := if bad.image || s.beyond h.image 64 then none
    else
      let b := s.readMem h.image 64
      some (progHdr (leNat b), b)
  let table := match prog with
    | some (p, _) =>
      if bad.table || s.beyond (h.image + p.sectOff) (64 * p.foldCount) then none
      else some (s.readMem (h.image + p.sectOff) (64 * p.foldCount))
    | none => none
  let res := if 4096 < sub.rlcount || s.beyond sub.rlist (16 * sub.rlcount) then []
    else (List.range sub.rlcount).map fun i => resEnt (s.readNat (sub.rlist + 16 * i) 16)
  { hdr := h, sub := sub, prog := prog, table := table, results := res
    taps := if h.taps = 0 then none else some (s.readTaps h.taps) }

/-- HDR_CRC: CRC-32C over the header with the field taken as zero, followed by the fold section table. -/
def hdrCrcOf (hdr table : List Byte) : Nat := crc32c (hdr.take 48 ++ [0, 0, 0, 0] ++ hdr.drop 52 ++ table)

/-- The rejection reasons that need the program header or the section table, with their codes, ascending. -/
def imageReasons (s : State) (x : JobIn) : List (Nat × Bool) :=
  match x.prog with
  | none => []
  | some (p, b) =>
    [(0x04, decide (p.magic ≠ 0x414B5250)), (0x05, decide (p.verMajor ≠ 2) || decide (1 < p.verMinor)),
      (0x06, decide (p.foldCount = 0) || decide (s.chip.grade.folds < p.foldCount)),
      (0x07, decide (p.foldCount ≠ popCount x.hdr.folds 32)),
      (0x08, decide (p.features &&& s.chip.grade.features ≠ p.features))] ++
    (match x.table with
     | none => []
     | some t =>
       [(0x09, decide (hdrCrcOf b t ≠ p.hdrCrc)), (0x0A, x.sects.any fun e => decide (spLines < e.preBase + e.preLines)),
         (0x0B, x.sects.any (sectBad p.imageLen))]) ++
    [(0x0C, decide (p.foldCount % 4 = 0) &&
        (List.range 8).any fun q => decide (fld x.hdr.folds (4 * q) 4 ≠ 0) && decide (fld x.hdr.folds (4 * q) 4 ≠ 15)),
      (0x0D, x.hdr.paired != bitOf p.features 5)]

/-- RECORDS, RLCOUNT, SAVE, RLIST or a result-list entry is invalid (R371). -/
def recordsBad (s : State) (x : JobIn) (rlist : Bool) : Bool :=
  let h := x.hdr
  let b := x.sub
  let fc := match x.prog with | some (p, _) => p.foldCount | none => 0
  isHost h.records || decide (h.records % 64 ≠ 0) ||
    decide (s.limit < h.records + max 64 (64 * b.rlcount + 640 * b2n h.sign)) || decide (4096 < b.rlcount) ||
    (decide (b.save ≠ 0) && (isHost b.save || decide (b.save % 2 ^ 23 ≠ 0) || decide (s.limit < b.save + fc * 2 ^ 23))) ||
    decide (b.rlist % 16 ≠ 0) || (decide (b.rlcount ≠ 0) && (rlist || s.beyond b.rlist (16 * b.rlcount))) ||
    x.results.any fun e => decide (e.len = 0) || s.beyond e.addr e.len

/-- The image is misaligned, beyond the limit or unreadable (R15). -/
def imageBad (s : State) (x : JobIn) : Bool :=
  decide (x.hdr.image % 4096 ≠ 0) || x.table.isNone ||
    match x.prog with
    | some (p, _) => s.beyond x.hdr.image p.imageLen
    | none => true

/-- The reasons for which the device rejects a job (R371). -/
def reasons (s : State) (x : JobIn) (bad : JobReads) : List (Nat × Bool) :=
  let h := x.hdr
  let shares := h.bwR + h.bwW + h.bwX
  [(0x01, decide (1 < h.mode)), (0x02, decide (h.npExp ≠ 0) && (decide (h.npExp < 16) || decide (31 < h.npExp))),
    (0x03, decide (shares ≠ 0) && decide (shares ≠ 100))] ++ imageReasons s x ++
  [(0x0E, recordsBad s x bad.rlist),
    (0x10, decide (2 ^ s.chip.grade.folds ≤ h.folds) || decide (h.folds &&& s.chip.failedFolds.toNat ≠ 0)),
    (0x11, h.sign && !s.look.keyOk), (0x12, imageBad s x)]

/-- The reason in the completion record: the lowest code (R371); an unreadable descriptor gives 0x0F and nothing else. -/
def rejection (s : State) (x : JobIn) (bad : JobReads) : Option Nat :=
  if bad.desc then some 0x0F else ((reasons s x bad).find? fun r => r.2).map (·.1)

/-- The status bit that a record's kind sets (R403). -/
def CompRec.bit (c : CompRec) : Option Nat :=
  match c.kind with
  | 1 => some bitJobdone
  | 2 | 3 => some bitFault
  | 4 | 5 => some bitPreempt
  | _ => none

/-- The event that a completion record reports sets its status bit, and the record, which shows it, joins those that wait for room
(R381, R403, log entry 29). -/
def queueComp (c : CompRec) (s : State) : State :=
  let t := match c.bit with
    | some b => setStatus b s
    | none => s
  { t with host := { t.host with compWait := t.host.compWait ++ [{ c with status := (t.statusOf 0).toNat }] } }

/-- A job is rejected (R13, R371): nothing starts. The fields that describe a job in progress have no value the spec states for a
job that never started, so they are free values (log entry 27). -/
def reject (ring reason : Nat) (x : JobIn) (s : State) : State :=
  let n := s.freeCtr
  let tag := if reason = 0x0F then Config.free (n + 4) % 2 ^ 32 else x.hdr.tag
  queueComp { kind := 3, status := 0, ring := ring, step := Config.free n % 2 ^ 64, recptr := 0, seq := Config.free (n + 1) % 2 ^ 64,
              tag := tag, glean := Config.free (n + 2) % 2 ^ 32, rcount := 0, reason := reason,
              elapsed := Config.free (n + 3) % 2 ^ 32 } { s with freeCtr := n + 5 }

/-! ### Acceptance (R35, R97, R197, R362, R531) -/

/-- The split of the job's header; all shares zero select the default (R12). -/
def JobHdr.split (h : JobHdr) : Nat × Nat × Nat :=
  if h.bwR + h.bwW + h.bwX = 0 then defaultSplit else (h.bwR, h.bwW, h.bwX)

def newJob (s : State) (ring : Nat) (x : JobIn) (p : ProgHdr) : Job :=
  { ring := ring, hdr := x.hdr, sub := x.sub, prog := p, sects := x.sects, results := x.results,
    taps := x.taps, seq := (s.host.lastSeq + 1) % 2 ^ 64,
    phase := .loading, step := x.hdr.step0, glean := 0, pass := 0, fail := 0, trunc := 0, sat := 0, gpn := [],
    gOwn := [], gLast := [], leaders := [], nStreams := [], reports := [], lastArrive := 0, abort := none, crcs := [],
    satFault := s.dict.satFault, tallyHold := s.dict.tallyHold, wendStop := false,
    winStart := (List.range s.chip.grade.quads).foldl
      (fun m q => put 0 m q (peek Quad.init s.pow.quads q).windows) [] }

/-- The translation table is cleared, with the requests that waited for it (R362, R410). -/
def clearTt (s : State) : State :=
  { s with host := { s.host with tt := [], victim := 0, ats := [], pri := [] } }

/-- Requests of a job that ends for translations and pages are given up; the table itself stays until a job starts or resumes (R362, R410). -/
def dropAsks (s : State) : State :=
  { s with host := { s.host with ats := s.host.ats.filter fun e => decide (e.2.2.2 = ownSlot)
                                 pri := s.host.pri.filter fun e => decide (e.2.2 = ownSlot) } }

/-- A fold of the job begins its load; its debugger registers stay, but for the breakpoint (R517). -/
def beginLoad (prog f : Nat) (s : State) : State :=
  let t := flushRuns (fun r => decide (r.fold = f)) (keepStretched f s)
  let d := (t.fold f).db
  t.setFold f { Fold.init with
    ex := { Exec.init with run := .loading, prog := prog }
    sp := (t.fold f).kept.sp
    db := { Debug.init with recs := d.recs, lost := d.lost, lostB := d.lostB, droop := d.droop, tested := d.tested } }

/-- The head of a ring advances (R368). -/
def takeHead (ring : Nat) (s : State) : State :=
  let r := s.ring ring
  s.setRing ring { r with head := r.head + 1 }

/-- The monitors begin the sum of a job's declarations anew: a window counts those of one job (R447, R449). -/
def freshSums (s : State) : State :=
  { s with pow := { s.pow with quads := s.pow.quads.filterMap fun e =>
      let u := { e.2 with jobSum := 0, top := none }
      if u = Quad.init then none else some (e.1, u) } }

/-- The job starts (R197, R372, R531). The counts of remote-memory streams go on: they belong to this device and its peer (R185,
R346, log entry 91). -/
def acceptJob (ring : Nat) (x : JobIn) (p : ProgHdr) (s : State) : State :=
  let j := newJob s ring x p
  let t := clearTt { freshSums s with job := some j, host := { s.host with lastSeq := j.seq },
                                            look := { s.look with kept := { s.look.kept with seq := s.look.kept.seq.write j.seq } } }
  (enumFrom 0 j.places).foldl (fun t e => beginLoad e.1 e.2 t) (t.newFrames x.hdr.split)

/-- Entry `i` of a ring (R366). -/
def Ring.entry (r : Ring) (size i : Nat) : Nat := r.base.toNat + size * (i % r.size.toNat)

/-- Reads of a job's start carry the job's PASID (R362), those of its ring entry none. -/
def State.readsAs (s : State) (p : Option Nat) : State := { s with host := { s.host with listPasid := p } }

/-- A line of a job's tap list that cannot be corrected is a memory fault of the job, found by the die of its port (R329, log entry
92). -/
def loseTaps (bad : Option Nat) (s : State) : State :=
  match bad with
  | some a =>
    let p := portOf s.chip.grade a
    raise (s.repNone 0x53 (portDie s.chip.grade p + 1) engPort (memDetail 1 p a)) s
  | none => s

/-- The job in the head entry of ring `p`, whose descriptor `d` has been read, is started or rejected once its start has read what it
needs; `desc` says that the descriptor could not be read, and `said` which reads of host memory fail. -/
def startJob (p : Nat) (d : JobHdr × SubBlk) (desc : Bool) (said : JobReads) (s : State) : State :=
  let s := s.readsAs (if d.2.pv then some d.2.pasid else none)
  let v := s.startView
  let bad := badReads s v desc d.1 d.2 said
  let l := startReads s v d.1 d.2 bad
  if !desc && !s.startReady l then s.startAsk l
  else
    let x := readJob v d.1 d.2 bad
    let t := takeHead p s.dropStart
    match rejection s x bad, x.prog with
    | some reason, _ => (reject p reason x t).readsAs none
    | none, some (h, _) => (loseTaps (tapsLost s v d.1) (acceptJob p x h t)).readsAs none
    | none, none => t.readsAs none

/-- JOB_START (R13, R260, R319, R329, R362, R371, R372): an idle device takes the next job of its rings, and starts or rejects it. `bad`
says which reads of host memory fail. The start waits for translations of host addresses and for the port slots of its reads. -/
def execJobStart (bad : JobReads) (s : State) : Res :=
  whileClocked s (if !s.mayStart then s
    else
      match s.nextWork with
      | .fresh p =>
        let r := s.ring p
        let s := s.readsAs none
        let a := r.entry 128 r.head.toNat
        let desc := s.startFails a 128 bad.desc
        if !desc && !s.startReady [(a, 128, false)] then s.startAsk [(a, 128, false)]
        else startJob p (readEntry s.startView a) desc bad s
      | _ => s)

/-! ### The load of a fold (R40, R41, R108, R109, R282-R284) -/

/-- The words of `l`, `n` bytes each, as numbers. -/
def wordsIn (n : Nat) (l : List Byte) : List Nat := (pieces n l).map leNat

/-- A queue entry of the region table (R108). -/
def qEntOf (w : Nat) : QEnt := if fld w 0 15 = 0 then QEnt.none else { base := fld w 15 17, lines := fld w 0 15 }

/-- A space window entry of the region table (R108). -/
def wEntOf (w : Nat) : WEnt :=
  if fld w 30 17 = 0 then WEnt.none
  else { base := fld w 47 17, lines := fld w 30 17, src := fld w 25 5, gpn := fld w 19 6 }

/-- A channel table entry (R283). -/
def cEntOf (w : Nat) : CEnt :=
  if fld w 31 7 = 0 then CEnt.none
  else { rem := bitOf w 63, node := fld w 51 12, dfold := fld w 46 5, dq := fld w 42 4, slotm1 := fld w 38 4,
         ncred := fld w 31 7 }

/-- The region and channel tables that scratchpad lines 0 to 3 declare (R108, R282). -/
def readTables (x : Fold) : Fold :=
  let q := (wordsIn 4 (x.sp.line 0)).map qEntOf
  let w := (wordsIn 8 (x.sp.line 1)).map wEntOf
  let c := (wordsIn 8 (x.sp.line 2 ++ x.sp.line 3)).map cEntOf
  let chan := fun (e : CEnt) => if e.ncred = 0 then Chan.init else { Chan.init with credits := e.ncred }
  { x with qu := { x.qu with qtab := putRun QEnt.none [] 0 q, wtab := putRun WEnt.none [] 0 w,
                             ctab := putRun CEnt.none [] 0 c, chans := putRun Chan.init [] 0 (c.map chan) } }

/-- The present regions of a fold in table order: first line, lines, and queue or window number. -/
def QueueUnit.regions (u : QueueUnit) : List (Nat × Nat × Nat) :=
  (u.qtab.map fun e => (e.2.base, e.2.lines, e.1)) ++ u.wtab.map fun e => (e.2.base, e.2.lines, e.1)

/-- The first region that ends beyond the scratchpad or overlaps one before it: its line and number (R109). -/
def overlapFrom : List (Nat × Nat × Nat) → List (Nat × Nat × Nat) → Option (Nat × Nat)
  | _, [] => none
  | seen, (b, n, i) :: t =>
    if spLines < b + n || seen.any fun r => decide (b < r.1 + r.2.1) && decide (r.1 < b + n) then some (b, i)
    else overlapFrom ((b, n, i) :: seen) t

/-- The region that breaks R109: its line and number. -/
def regionBad (folds own : Nat) (u : QueueUnit) : Option (Nat × Nat) :=
  match overlapFrom [] u.regions with
  | some r => some r
  | none => u.wtab.findSome? fun e =>
      if folds ≤ e.2.src || e.2.src = own || 47 < e.2.gpn then some (e.2.base, e.1) else none

/-- The first channel entry that breaks R284. -/
def channelFrom (folds own : Nat) : List CEnt → List (Nat × CEnt) → Option Nat
  | _, [] => none
  | seen, (c, e) :: t =>
    if 64 < e.ncred || (!e.rem && (decide (e.node ≠ 0) || decide (folds ≤ e.dfold) || decide (e.dfold = own)))
        || seen.any fun o => o.rem == e.rem && decide (o.node = e.node) && decide (o.dfold = e.dfold) && decide (o.dq = e.dq)
    then some c else channelFrom folds own (e :: seen) t

/-- A load fault of fold `f` (R40, R109, R284): the fold issues nothing. -/
def loadFault (f code engine detail : Nat) (s : State) : State :=
  (s.onFold f fun x => { x with ex := { x.ex with run := .stopped } }).raiseFold f code engine 0 0 0 detail

/-- A line of a fold's sections at address `a` cannot be corrected: a memory fault, found by the die of its port (log entry 92). -/
def loadLost (f a : Nat) (s : State) : State :=
  let p := portOf s.chip.grade a
  let t := s.onFold f fun x => { x with ex := { x.ex with run := .stopped } }
  raise { t.rep f 0x53 engPort 0 0 0 (memDetail 1 p a) with die := portDie s.chip.grade p + 1 } t

/-- What the drover reads of the image for a fold (R14, R40): bundles, shepherd code and data, preload and live ranges. -/
structure SectIn where
  bundles : List Byte
  code    : List Byte
  data    : List Byte
  pre     : List Byte
  live    : List Byte
  deriving DecidableEq, Repr

/-- A live range entry: first line and lines (R14). -/
def liveRange (w : Nat) : Nat × Nat := (fld w 40 24, fld w 16 24)

/-- The fold after its sections have been loaded (R40, R41). -/
def loaded (base : Nat) (e : Sect) (i : SectIn) (x : Fold) : Fold :=
  let list := { DList.init with live := true }
  readTables { x with
    ex := { x.ex with bundleCnt := e.bundleCnt,
                      bundles := putRun 0 [] 0 ((wordsIn 32 i.bundles).map (BitVec.ofNat 256)),
                      live := (wordsIn 8 i.live).map liveRange }
    sp := { x.sp with mem := putRun 0 [] (64 * e.preBase) i.pre }
    sh := { x.sh with codeWords := e.shWords, imem := putRun 0 [] 0 ((wordsIn 4 i.code).map (BitVec.ofNat 32)),
                      dmem := putRun 0 [] 0 i.data }
    dr := { x.dr with dl0 := { DList.init with next := base + e.descOff, live := true }, dl2 := list, dl3 := list } }

/-- The load of fold `n` completes with what its drover has read: a SECT_CRC mismatch is a load fault and a bad table a region fault
(R40, R41, R108, R109, R282-R284). -/
def finishLoad (n : Nat) (j : Job) (e : Sect) (i : SectIn) (s : State) : State :=
  let t := s.onFold n (loaded j.hdr.image e i)
  let t := t.onFold n fun x => { x with ti := (List.range 16).foldl (fun m i => m.forget (s.freeCtr + i) i) x.ti }
  let t := { t with freeCtr := s.freeCtr + 16 }
  let x := t.fold n
  let crc := crc32c (i.bundles ++ i.code ++ i.data ++ i.pre)
  if crc ≠ e.crc then loadFault n 0x23 engDrover crc t
  else
    match regionBad j.prog.foldCount x.ex.prog x.qu with
    | some (l, i) => loadFault n 0x1D engQueue (at_ 47 17 l + at_ 0 4 i) t
    | none =>
      match channelFrom j.prog.foldCount x.ex.prog [] x.qu.ctab with
      | some c => loadFault n 0x1D engQueue (at_ 0 4 c) t
      | none => t.onFold n fun x => { x with ex := { x.ex with run := .loaded } }

/-- The ranges of the image that a fold section names: address and bytes. -/
def Sect.ranges (e : Sect) (a : Nat) : List (Nat × Nat) :=
  [(a + e.bundleOff, 32 * e.bundleCnt), (a + e.shOff, 4 * e.shWords), (a + e.datOff, 4 * e.datWords),
    (a + e.preOff, 64 * e.preLines), (a + e.liveOff, 8 * e.liveCount)]

/-- The sections as `read` gives them, from address and bytes. -/
def Sect.get (e : Sect) (a : Nat) (read : Nat → Nat → List Byte) : SectIn :=
  { bundles := read (a + e.bundleOff) (32 * e.bundleCnt), code := read (a + e.shOff) (4 * e.shWords),
    data := read (a + e.datOff) (4 * e.datWords), pre := read (a + e.preOff) (64 * e.preLines),
    live := read (a + e.liveOff) (8 * e.liveCount) }

/-- FOLD_LOAD (R40, R41, R258, R260, R362): the drover of a fold reads its sections, in port slots or from host memory once that is
translated, and with all of them the load completes. A line that cannot be corrected is a memory fault of the fold (log entry 92). -/
def execFoldLoad (f : FoldId) (s : State) : Res :=
  let n := f.toNat
  whileClocked s (match s.job with
    | none => s
    | some j =>
      if j.phase ≠ .loading || (s.fold n).ex.run ≠ .loading then s
      else
        match j.sects[(s.fold n).ex.prog]? with
        | none => s
        | some e =>
          let a := j.hdr.image
          let rs := e.ranges a
          if isHost a then
            let l := rs.map fun r => (r.1, r.2, false)
            if s.ownReady l then finishLoad n j e (e.get a s.readMem) s else s.jobAsk l
          else
            match s.devRead (.load n) with
            | none => s.readFor (.load n) rs
            | some d =>
              if d.left ≠ 0 then s
              else
                let t := s.dropDevRead (.load n)
                match d.bad with
                | some b => loadLost n b t
                | none => finishLoad n j e (e.get a (peekRun memDefault d.mem)) t)

/-! ### The start signal (R42, R428) -/

/-- A tap entry breaks R428. -/
def tapEntBad (s : State) (j : Job) (e : TapEnt) : Bool :=
  match j.place e.fold with
  | none => true
  | some f =>
    let x := s.fold f
    let w := peek 0 x.ex.bundles e.baddr
    decide (x.ex.bundleCnt ≤ e.baddr) || !(ctlStall w || qpStall w) || (!e.sk && decide (spLines < e.line + e.len + 1))

/-- The tap list breaks R428: what the fault's detail word names. -/
def tapListBad (s : State) (j : Job) (l : TapList) : Option Nat :=
  if l.magic ≠ 0x414B5450 || l.count = 0 || 256 < l.count then some 0xFFFF
  else ((enumFrom 0 l.ents).find? fun e => tapEntBad s j e.2).map (·.1)

/-- The first address of a tap list in device memory that lies beyond the device address limit (R314, R442). -/
def tapsBeyond (s : State) (j : Job) : Option Nat :=
  match j.taps with
  | some l => if s.beyond j.hdr.taps (64 + 32 * min 256 l.count) then some (max j.hdr.taps s.limit) else none
  | none => none

/-- A fold begins to run (R42). -/
def startFold (f : Nat) (s : State) : State :=
  s.onFold f fun x => { x with
    ex := { x.ex with run := .running }
    sh := { x.sh with run := if x.sh.codeWords = 0 then .halted else .running } }

/-- START_SIGNAL (R42, R428): every fold has loaded and passed its checks, and all begin to run together. -/
def execStartSignal (s : State) : Res :=
  whileClocked s (match s.job with
    | none => s
    | some j =>
      if j.phase ≠ .loading || !j.reports.isEmpty ||
          !(j.places.all fun f => decide ((s.fold f).ex.run = .loaded) && (s.fold f).qu.bound) then s
      else
        match tapsBeyond s j, j.taps.bind (tapListBad s j) with
        | some a, _ => raise (s.repNone 0x12 5 engNone a) s
        | none, some n => raise (s.repNone 0x24 5 engNone n) s
        | none, none => j.places.foldl (fun t f => startFold f t) (s.onJob fun j => { j with phase := .running }))

end Sys2Proof.Machine
end

