-- ==== Sys2Proof/Machine/Records.lean ====
section
/-! DEFINITION. The end of a job and what the device writes: check records, digest, completion records and heartbeats
(R43, R191-R197, R378-R381, R412). -/
namespace Sys2Proof.Machine

/-! ### Records (R191, R196, R379) -/

/-- A 64-byte record without a check value. -/
def record (w : Nat) : List Byte := leBytes 64 w

/-- A 64-byte record whose 32-bit RCRC field at bit `lo` is the CRC-32C of the record with the field zero (R191, R416). -/
def sealed (lo w : Nat) : List Byte := leBytes 64 (w + at_ lo 32 (crc32c (leBytes 64 w)))

/-- What a check record says of its buffer: CRC-64, address, length, tag, index and step (R191, R425). -/
structure CheckOf where
  crc : Nat
  addr : Nat
  len : Nat
  tag : Nat
  index : Nat
  step : Nat
  deriving DecidableEq, Repr

/-- A check record with the job's verdict counts and glean counter as they stand (R191, R193). -/
def Job.checkRecord (j : Job) (c : CheckOf) : List Byte :=
  sealed 48 (at_ 448 64 c.crc + at_ 384 64 c.addr + at_ 340 44 c.len + at_ 328 12 c.tag + at_ 327 1 (b2n j.hdr.paired) +
    at_ 326 1 (b2n j.reefed) + at_ 304 16 c.index + at_ 240 64 c.step + at_ 208 32 j.pass + at_ 176 32 j.fail +
    at_ 144 32 j.trunc + at_ 112 32 j.sat + at_ 80 32 j.glean + at_ 40 8 1)

/-- The check records of a committed job, in list order (R191). -/
def Job.checkRecords (j : Job) : List Byte :=
  (enumFrom 0 j.results).flatMap fun e =>
    j.checkRecord { crc := (peek none j.crcs e.1).getD 0, addr := e.2.addr, len := e.2.len, tag := e.2.tag, index := e.1,
                    step := j.step }

/-- The digest header (R196). -/
def Job.digestHeader (j : Job) : List Byte :=
  record (at_ 480 32 0x414B4A44 + at_ 448 32 j.results.length + at_ 384 64 j.seq + at_ 320 64 j.hdr.step0 +
    at_ 256 64 j.step + at_ 224 32 j.hdr.tag + at_ 192 32 j.glean + at_ 160 32 j.prog.hdrCrc + at_ 158 2 j.hdr.mode +
    at_ 157 1 (b2n j.hdr.paired))

/-- The bytes that the digest signs (R195). -/
def Job.digestBytes (j : Job) : List Byte := j.digestHeader ++ j.checkRecords

/-- A completion record of the job; its elapsed wall time is a free value (R379, log entry 7). -/
def Job.comp (j : Job) (kind recptr rcount elapsed : Nat) : CompRec :=
  { kind := kind, status := 0, ring := j.ring, step := j.step, recptr := recptr, seq := j.seq, tag := j.hdr.tag, glean := j.glean,
    rcount := rcount, reason := 0, elapsed := elapsed }

/-- The bytes of a completion record (R379). -/
def CompRec.bytes (c : CompRec) (phase : Bool) : List Byte :=
  record (at_ 448 64 c.step + at_ 384 64 c.recptr + at_ 320 64 c.seq + at_ 288 32 c.tag + at_ 256 32 c.glean +
    at_ 240 16 c.status + at_ 236 4 c.kind + at_ 234 2 c.ring + at_ 233 1 (b2n phase) + at_ 217 16 c.rcount +
    at_ 209 8 c.reason + at_ 177 32 c.elapsed)

/-! ### The completion ring (R378-R381) -/

/-- The ring is enabled and has room (R378, R381). -/
def State.compRoom (s : State) : Bool :=
  s.host.comp.en && decide (s.host.comp.size ≠ 0) && decide (s.host.comp.held ≠ s.host.comp.size.toNat)

/-- The write at the tail of the completion ring. -/
def State.compWrite (s : State) : OwnRead := (s.host.comp.entry 64 s.host.comp.tail.toNat, 64, true)

/-- Writes a record at the tail, with the pass marker, which turns at each wrap (R379, R380). -/
def writeComp (c : CompRec) (s : State) : State :=
  let r := s.host.comp
  let t := s.writeOut s.compWrite.1 (c.bytes s.host.compPhase)
  let tail := r.tail + 1
  { t with host := { t.host with
      comp := { r with tail := tail }
      compPhase := if tail.toNat % r.size.toNat = 0 then !t.host.compPhase else t.host.compPhase } }

/-- COMPLETION_RECORD (R362, R380, R381): the record at the front of those that wait is written once the ring has room and is
translated, after every record it points to. -/
def execCompletionRecord (s : State) : Res :=
  whileClocked s (match s.host.compWait with
    | [] => s
    | c :: rest =>
      if !s.compRoom || s.writing then s
      else if !s.ownReady [s.compWrite] then s.ownAsk [s.compWrite]
      else writeComp c { s with host := { s.host with compWait := rest } })

/-- The heartbeat record (R379): fields that describe a job are free values while none runs. -/
def heartbeatRec (s : State) : CompRec :=
  let n := s.freeCtr
  match s.job with
  | some j => { j.comp 6 0 0 (Config.free n % 2 ^ 32) with seq := s.host.lastSeq, status := (s.statusOf 0).toNat }
  | none => { kind := 6, status := (s.statusOf 0).toNat, ring := Config.free (n + 1) % 4, step := Config.free (n + 2) % 2 ^ 64, recptr := 0,
              seq := s.host.lastSeq, tag := 0, glean := Config.free (n + 3) % 2 ^ 32, rcount := 0, reason := 0,
              elapsed := Config.free n % 2 ^ 32 }

/-- The IOD, which writes the records, is released (R471). -/
def State.iodRuns (s : State) : Bool := s.chip.phase.iodUp && s.clocked

/-- HEARTBEAT (R362, R381): a record is written, or skipped and counted when the ring is full or disabled; one whose place is not
translated asks for its translation and waits. -/
def execHeartbeat (s : State) : Res :=
  .next (if !s.iodRuns || s.host.heartbeat = 0 then s
    else if s.compRoom then
      if s.ownReady [s.compWrite] then writeComp (heartbeatRec s) { s with freeCtr := s.freeCtr + 4 } else s.ownAsk [s.compWrite]
    else
      let b := s.host.skipped
      logStick b 1 { s with host := { s.host with skipped := ctrAdd b 1 } })

/-! ### The end of a job (R43, R192, R412, R531) -/

/-- A fold whose job has ended or been saved: it holds no transfer, message or wait of the job. -/
def Fold.retire (x : Fold) : Fold :=
  { x with
    ex := { x.ex with run := .idle, wait := none, tally := none, due := [], issued := false, ctlDue := false }
    mx := { x.mx with verdicts := [], vOpen := [] }
    qu := { x.qu with outMsg := [], inMsgs := [], credIn := [], revIn := [], outPn := [], queues := [], popNow := none,
                      ending := [], pnSet := [] }
    sh := { x.sh with run := .halted, wait := none, acc := none }
    dr := { x.dr with dl0 := .init, dl1 := .init, dl2 := .init, dl3 := .init, xfers := [], tokens := [], taps := [],
                      tasks := [], tapping := none, tapSent := false }
    db := x.db.release }

/-- The job leaves the device: its folds are free, its streams and stages are gone, and debugger writes in progress are logged, as a halt
ends with the job (R525). -/
def leaveJob (s : State) : State :=
  match s.job with
  | none => s
  | some j =>
    let t := j.places.foldl (fun t f => t.onFold f Fold.retire) (flushRuns (fun _ => true) s)
    let t := dropAsks (clearMast t)
    { freshSums t with job := none }

/-- A job ends with a completion record of `kind` that points to RECORDS (R379). -/
def endJob (kind rcount : Nat) (s : State) : State :=
  match s.job with
  | none => s
  | some j => queueComp (j.comp kind j.hdr.records rcount (Config.free s.freeCtr % 2 ^ 32)) (leaveJob s).used

/-- Every fold has issued ctl.end, its transfers are complete and every verdict is delivered (R43, R233, R412). -/
def jobOver (s : State) (j : Job) : Bool :=
  j.reports.isEmpty && j.places.all fun f =>
    let x := s.fold f
    decide (x.ex.run = .ended) && x.dr.xfers.isEmpty && x.mx.verdicts.isEmpty && x.mx.vOpen.isEmpty

/-- The folds may be read back: writes into coherent windows have been released (R192, R361). -/
def State.readsBack (s : State) (j : Job) : Bool :=
  (decide (j.phase = .running) || decide (j.phase = .readback)) && jobOver s j && s.host.snoop.isEmpty

/-- The CRC-64 of result buffer `n` has been computed. -/
def setCrc (n crc : Nat) (s : State) : State := s.onJob fun j => { j with crcs := put none j.crcs n (some crc) }

/-- CRC64_READBACK (R192, R258, R260, R329, R362): the device reads result buffer `n`, at `addr`, back, in port slots or from host memory once that
is translated, and computes its CRC-64; a line that cannot be corrected is a memory fault. -/
def execCrc64Readback (n : BitVec 12) (addr : BitVec 64) (s : State) : Res :=
  let k := n.toNat
  whileClocked s (match s.job with
    | none => s
    | some j =>
      match j.results[k]? with
      | none => s
      | some e =>
        if !s.readsBack j || (peek none j.crcs k).isSome || addr.toNat ≠ e.addr then s
        else
          let t := s.onJob fun j => { j with phase := .readback }
          if isHost e.addr then
            let l : List OwnRead := [(e.addr, e.len, false)]
            if s.ownReady l then setCrc k (crc64 (s.readMem e.addr e.len)) t else t.jobAsk l
          else
            match s.devRead (.result k) with
            | none => t.readFor (.result k) [(e.addr, e.len)]
            | some d =>
              if d.left ≠ 0 then s
              else
                let t := t.dropDevRead (.result k)
                match d.bad with
                | some a =>
                  let p := portOf s.chip.grade a
                  raise (t.repNone 0x53 (portDie s.chip.grade p + 1) engPort (memDetail 1 p a)) t
                | none => setCrc k (crc64 (peekRun memDefault d.mem e.addr e.len)) t)

/-- A digest goes ahead of every waiting operation, behind one that has begun (R495). -/
def queueDigest : List RsaJob → List RsaJob
  | [] => [.digest]
  | h :: t => h :: .digest :: t

/-- JOB_COMMIT (R191, R195, R412, R531): the check records are written, in device memory (R371); a signed job also gets its digest header
and SHA-512 value, and waits for its signature. -/
def execJobCommit (s : State) : Res :=
  whileClocked s (match s.job with
    | none => s
    | some j =>
      if !s.readsBack j || !((List.range j.results.length).all fun n => (peek none j.crcs n).isSome) then s
      else
        let t := (s.writeOut j.hdr.records j.checkRecords).newFrames defaultSplit
        if j.hdr.sign then
          let a := j.hdr.records + 64 * j.results.length
          let t := t.writeOut a (j.digestHeader ++ sha512 j.digestBytes)
          { t with job := some { j with phase := .signing }, look := { t.look with rsa := queueDigest t.look.rsa } }
        else endJob 1 j.results.length (t.onJob fun j => { j with phase := .committed }))

/-- The digest's signature is written, with a fresh salt, and the job is done (R195, R197). -/
def signDigest (s : State) : State :=
  match s.job with
  | some j =>
    if j.phase = .signing then
      let sig := s.signature j.digestBytes
      endJob 1 j.results.length ((s.writeOut (j.hdr.records + 64 * j.results.length + 128) sig).used)
    else s
  | none => s

end Sys2Proof.Machine
end

