-- ==== Sys2Proof/Machine/Preempt.lean ====
section
/-! DEFINITION. Preemption and resume (R257, R298, R373-R377, R521). -/
namespace Sys2Proof.Machine

/-! ### Preemption (R373, R374) -/

/-- The device is a member of an enabled abort group or assigns a global pennant to a group, in the rigged role (R373). -/
def State.grouped (s : State) : Bool :=
  s.chip.rigged && (s.rig.abEn || s.rig.groups.any fun e => bitOf e.2.toNat 31)

/-- The running job is preemptible (R373). -/
def preemptible (s : State) (j : Job) : Bool :=
  decide (j.sub.save ≠ 0) && !bitOf j.prog.features 8 && !s.grouped &&
    !(j.places.any fun f => (s.fold f).qu.ctab.any fun e => e.2.rem && decide (e.2.ncred ≠ 0))

/-- PREEMPTION (R372-R374, R377, R381, R521): a job of higher priority is ready and the running job is preemptible; staged blocks of
the job are dropped (R271). -/
def execPreemption (s : State) : Res :=
  whileClocked s (match s.job, s.readyRing with
    | some j, some r =>
      if j.phase ≠ .running || j.ring ≤ r || !j.reports.isEmpty || !preemptible s j || !s.host.compWait.isEmpty
          || s.chip.fatal ≠ 0 || s.paused || j.places.all fun f => decide ((s.fold f).ex.run = .ended) then s
      else
        let t := s.msd.stages.foldl (fun t e => dropStage e.1 t) s
        t.onJob fun j => { j with phase := .preempting }
    | _, _ => s)

/-- Operations already issued have run to their ends, every message sent has arrived or been refused, and those that reached the fold
have landed (R298, R374). -/
def drained (x : Fold) : Bool :=
  x.ex.due.isEmpty && x.mx.verdicts.isEmpty && x.mx.vOpen.isEmpty && x.qu.outPn.isEmpty && x.qu.inMsgs.isEmpty && x.sh.acc.isNone &&
    !(x.qu.outMsg.any fun m => m.ready)

/-- FOLD_PREEMPT_STOP (R25, R374): the fold takes the preemption at its stall point, before its condition is evaluated; a waiting
shepherd instruction is repeated on resume. -/
def execFoldPreemptStop (f : FoldId) (s : State) : Res :=
  let n := f.toNat
  let x := s.fold n
  whileClocked s (if !s.preempting || !x.executes || x.ex.ctlDue || !atStall x || !drained x then s
    else
      let x := if x.ex.issued then x.advance s.paused else x
      s.setFold n { x with
        ex := { x.ex with run := .saved, wait := none }
        sh := { x.sh with run := (match x.sh.run with | .halted => .halted | _ => .running), wait := none } })

/-! ### The save area (R374, R375) -/

/-- Lines that the context of a fold takes in: the live ranges of its section, its queue regions and its space windows (R298): first
line and lines. -/
def Fold.savedLines (x : Fold) : List (Nat × Nat) := x.ex.live ++ x.qu.regions.map fun r => (r.1, r.2.1)

/-- Bytes of the context of a fold: the context block, its tiles in use, its accumulator banks that are not empty, and its lines. -/
def Fold.contextBytes (x : Fold) : Nat :=
  let tiles := ((List.range 16).filter x.ti.used).map fun t => cfgRows (x.ti.word t) * (cfgRB (x.ti.word t) + 8)
  let banks := (List.range 8).filter fun k => !(x.mx.bank (k / 2) (k % 2)).empty
  98304 + sumNat tiles + 131072 * banks.length + 64 * sumNat (x.savedLines.map (·.2))

/-- The bytes of a saved context: its layout is private to the device, so they are free values (R375, log entry 28). -/
def contextImage (len seed : Nat) : List Byte := (List.range len).map fun i => Config.freeBits 8 (2 ^ 100 + 2 ^ 23 * seed + i)

/-- A fold that stopped at ctl.end is not saved (R377): what remains of it is that it has ended, and the tables and closed queues by
which its peers still meet it. -/
def Fold.endStub (x : Fold) : Fold :=
  { Fold.init with ex := { Exec.init with run := .ended, prog := x.ex.prog, cycle := x.ex.cycle }, qu := x.qu }

/-- The context of a fold is written to its place (R374), in the slots that R260 gives the device's own writes; its CRC-32C is computed
as it is written (R375). -/
def writeContext (j : Job) (a : List SavedArea × State) (f : Nat) : List SavedArea × State :=
  let s := a.2
  let x := s.fold f
  if x.ex.run = .ended then a
  else
    let l := contextImage x.contextBytes s.freeCtr
    let addr := j.sub.save + 2 ^ 23 * x.ex.prog
    (a.1 ++ [{ prog := x.ex.prog, addr := addr, len := l.length, crc := crc32c l }], (s.writeFor .jobOut addr l).used)

/-- Every fold has stopped and what it sent has arrived: the save starts. -/
def beginSave (j : Job) (s : State) : State :=
  let w := j.places.foldl (writeContext j) ([], s)
  let v : Saved :=
    { job := j, streams := s.msd.streams, claims := s.msd.claims, areas := w.1
      folds := j.places.map fun f => (f, if (s.fold f).ex.run = .ended then (s.fold f).endStub else s.fold f) }
  { w.2 with moving := some v }

/-- The save has completed: the job leaves the device, and a record of kind 0x4 follows (R374, R531). -/
def endSave (v : Saved) (s : State) : State :=
  let n := s.host.preempts
  let t := ((leaveJob s).newFrames defaultSplit).used
  let t := logStick n 1 { t with saved := t.saved ++ [v], moving := none, host := { t.host with preempts := ctrAdd n 1 } }
  queueComp (v.job.comp 4 0 0 (Config.free s.freeCtr % 2 ^ 32)) t

/-- CONTEXT_SAVE_COMPLETE (R298, R374, R375, R377): once every fold has stopped, each that has not ended writes its context; once the
writes have taken their slots, the save is complete. -/
def execContextSaveComplete (s : State) : Res :=
  whileClocked s (match s.job with
    | none => s
    | some j =>
      if j.phase ≠ .preempting || !j.reports.isEmpty then s
      else
        match s.moving with
        | some v => if s.writing then s else endSave v s
        | none =>
          if j.places.all fun f => let x := s.fold f
              (decide (x.ex.run = .saved) || decide (x.ex.run = .ended)) && drained x then beginSave j s
          else s)

/-! ### Resume (R257, R375) -/

/-- A source that is read again from line `first` on. -/
def Src.restart (x : Src) (first : Nat) : Src := { x with asked := first, raw := x.raw.take (64 * first), early := [] }

/-- The first image line that a landing has still to take: those below it are not fetched again (R90, R257). -/
def Xfer.nextLine (y : Xfer) : Nat :=
  if y.land.tiles then y.landed / y.geom.rows * y.geom.tileLines + y.landed % y.geom.rows * y.geom.rb / 64 else y.landed

/-- A landing whose source is delivered again from line `first` on, with the running CRC-32C that it has then (R180, R257). -/
def Xfer.restart (y : Xfer) (first : Nat) : Xfer :=
  let kept := if y.land.tiles then y.ready.take first else []
  { y with ready := kept, got := first, had := first, asked := [], src := y.src.restart first,
           crc := if y.land.tiles then crc32cRun 0xFFFFFFFF (kept.flatMap id) else y.crc
           resid := none }

/-- A transfer as it is restored (R257): a plain READ continues from its saved line; any other READ, and a tap of an unfinished stream,
takes the whole image again, of which only lines at and above the saved one land. -/
def restoreXfer (streams : List Stream) (taps : List Tap) (y : Xfer) : Xfer :=
  if y.held then y
  else if y.desc.kind = kMtap then
    let live := taps.any fun u => decide (u.xfer = y.slot) && streams.any fun v => decide (u.stream = some (v.die, v.id))
    if live then y.restart 0 else y
  else if y.desc.kind = kRead then
    if y.allLanded then y else if y.geom.dcf = 0 && !y.geom.ck then y.restart y.nextLine else y.restart 0
  else y

/-- Scratchpad lines of a saved fold return to their places; the other lines, and the count of corrected errors (R430), are as the jobs in
between left them. -/
def restoreLines (lines : List (Nat × Nat)) (v now : Spm) : Spm :=
  let m := lines.foldl (fun m r => putRun 0 m (64 * r.1) (v.bytes (64 * r.1) (64 * r.2))) now.mem
  let mine := fun (w : Nat) => lines.any fun r => decide (8 * r.1 ≤ w) && decide (w < 8 * (r.1 + r.2))
  { v with mem := m
           eccCount := now.eccCount
           err := (v.err.filter fun e => mine e.1).foldl (fun a e => put 0 a e.1 e.2) (now.err.filter fun e => !mine e.1)
           wback := v.wback.filter mine ++ now.wback.filter fun w => !mine w }

/-- A fold as it is restored; one that had ended is ended again (R377), with the task list and route history that the fold holds at the resume
(log entry 28), and the debugger and trace registers are no part of a context.
The configuration word, INCOMPLETE and START_ROW of a tile that is not in use return as they were: the manual saves none of them (R90,
log entry 28). -/
def restoreFold (streams : List Stream) (now x : Fold) : Fold :=
  if x.ex.run = .ended then { now with ex := x.ex, qu := x.qu }
  else
    let again := fun (l : DList) => { l with asked := false }
    { x with
      ex := { x.ex with run := .running }
      sp := restoreLines x.savedLines x.sp now.sp
      dr := { x.dr with
        dl0 := again x.dr.dl0
        dl1 := again x.dr.dl1
        xfers := x.dr.xfers.map (restoreXfer streams x.dr.taps)
        taps := x.dr.taps.map fun u =>
          if streams.any fun v => decide (u.stream = some (v.die, v.id)) then { u with buf := [] } else u }
      db := now.db }

/-- The lines of a WRITE that had not all been written are sent again; writing one twice leaves it as it was. -/
def resendWrite (f : Nat) (y : Xfer) (s : State) : State :=
  if isHost y.src.addr then (if y.arrived then pumpWrite (y.geom.len + 1) f y.slot s else s)
  else
    (writeRuns y y.ready).foldl (fun t r => t.ask .write
      { who := .xfer f y.slot, off := r.1, addr := r.2.1, n := r.2.2.length / 64, wr := true, data := r.2.2 })
      (s.onFold f fun x => x.setXfer { y with left := y.geom.len })

/-- A restored transfer is requested again (R257). -/
def resendXfer (f : Nat) (y : Xfer) (s : State) : State :=
  if y.held || y.done then s
  else if y.desc.kind = kRead then
    if y.allLanded then s
    else if y.desc.peer then
      askPeer f y y.got (s.onFold f fun x => x.setXfer { y with src := { y.src with asked := y.geom.len } })
    else if isHost y.src.addr then pumpRead (y.geom.len + 1) f y.slot s
    else
      match askSrc (.xfer f y.slot) (y.geom.ck || decide (y.geom.dcf ≠ 0)) y.src s with
      | .ok (src, t) => t.onFold f fun x => x.setXfer { y with src := src }
      | .error a => descFault f 0 y.desc 0x12 engDrover a s
  else if decide (y.desc.kind = kWrite) && y.sent && !y.desc.peer then resendWrite f y s
  else s

/-- An unfinished stream stands where its leader's MSRC put it, to be read again whole from memory (R257); one whose CLAIM was not
served is served in turn (R270). -/
def restoreStream (claims : List (Nat × List Claim)) (v : Stream) : Stream :=
  { v with go := !(claims.any fun e => decide (e.1 = v.die) && e.2.any fun c => decide (c.stream = v.id)), lane := none, ready := false,
           image := [], resid := [], sent := 0, stall := [], limit := none, src := v.src.restart 0 }

/-- The contexts of a preempted job are back in place, and it runs (R375). -/
def restoreJob (v : Saved) (s : State) : State :=
  let t := { s with job := some { v.job with phase := .running } }
  let t := v.folds.foldl (fun t e => t.setFold e.1 (restoreFold v.streams (t.fold e.1) e.2)) t
  let t := { t with msd := { t.msd with streams := v.streams.map (restoreStream v.claims)
                                        claims := v.claims.map fun e => (e.1, e.2.map fun c => { c with hit := none }) } }
  let t := [0, 1, 2, 3].foldl (fun t d => grantLanes d t) t
  v.folds.foldl (fun t e => (t.fold e.1).dr.xfers.foldl (fun u y => resendXfer e.1 y u) t) t

/-- The resumed job raises a fault before any bundle issues: none of its folds runs. -/
def restoreStop (v : Saved) (r : FaultRep) (s : State) : State :=
  let t := s.onJob fun j => { j with phase := .running }
  let t := v.folds.foldl (fun t e => t.onFold e.1 fun x => { x with ex := { x.ex with run := .stopped, prog := e.2.ex.prog } }) t
  raise r t

/-- The work of a resume begins (R372, R531): the job occupies the device, and its contexts are read back. -/
def beginResume (v : Saved) (s : State) : State :=
  let t := { s with job := some { v.job with phase := .restoring }, moving := some v
                    saved := s.saved.filter fun w => decide (w.job.ring ≠ v.job.ring) }
  v.areas.foldl (fun t a => t.readFor (.restore a.prog) [(a.addr, a.len)]) (clearTt (t.newFrames v.job.hdr.split))

/-- What the device has read of an area. -/
def areaRead (s : State) (a : SavedArea) : Option (SavedArea × DevRead) := (s.devRead (.restore a.prog)).map fun d => (a, d)

/-- The contexts have been read: each is compared with its CRC-32C, and the job runs again (R375); a mismatch is a tally CRC fault, and
a line that cannot be corrected a memory fault. -/
def endResume (v : Saved) (s : State) : State :=
  let got := v.areas.filterMap (areaRead s)
  let n := s.host.resumes
  let t := v.areas.foldl (fun t a => t.dropDevRead (.restore a.prog)) { s with moving := none }
  let t := logStick n 1 { t with host := { t.host with resumes := ctrAdd n 1 } }
  let t := queueComp (v.job.comp 5 0 0 (Config.free t.freeCtr % 2 ^ 32)) t.used
  let crc := fun (e : SavedArea × DevRead) => crc32c (peekRun memDefault e.2.mem e.1.addr e.1.len)
  match got.findSome? fun e => e.2.bad, got.find? fun e => decide (crc e ≠ e.1.crc) with
  | some a, _ =>
    let p := portOf t.chip.grade a
    restoreStop v (t.repNone 0x53 (portDie t.chip.grade p + 1) engPort (memDetail 1 p a)) t
  | none, some e => restoreStop v (t.repNone 0x42 0 engTally (at_ 32 32 e.1.crc + crc e)) (checkCount 5 1 t)
  | none, none => restoreJob v t

/-- RESUME (R372, R375): the preempted job of the highest priority, that of number `seq`, is restored: its contexts are read back, and with all of them it
runs again, and a record of kind 0x5 follows. -/
def execResume (ring : BitVec 2) (seq : BitVec 64) (s : State) : Res :=
  whileClocked s (match s.job, s.moving with
    | some j, some v =>
      if j.phase ≠ .restoring || j.ring ≠ ring.toNat || j.seq ≠ seq.toNat || !j.reports.isEmpty ||
          !(v.areas.all fun a => (s.devRead (.restore a.prog)).any fun d => decide (d.left = 0)) then s
      else endResume v s
    | _, _ =>
      if !s.mayStart || s.nextWork ≠ .again ring.toNat then s
      else
        match s.saved.find? fun v => decide (v.job.ring = ring.toNat) with
        | none => s
        | some v => if v.job.seq = seq.toNat then beginResume v s else s)

end Sys2Proof.Machine
end

