-- ==== Sys2Proof/Machine/Abort.lean ====
section
/-! DEFINITION. Abort, fault record, host abort and replay taps (R383, R409-R416, R419, R425). -/
namespace Sys2Proof.Machine

/-! ### The abort controller (R410, R414, R415) -/

/-- The report that the fault record describes: the first, and among the reports of its fold and cycle the lowest code (R414). What raises
faults of several folds at once raises them in the order of their program folds, so the first is that of the lowest (log entry 20). -/
def firstReport (r : FaultRep) (rest : List FaultRep) : FaultRep :=
  rest.foldl (fun a b =>
    if a.lv && b.lv && decide (b.lfold = a.lfold) && decide (b.cycle = a.cycle) && decide (b.code < a.code) then b else a) r

/-- What the abort does to a fold (R276, R410): a fold that waits, is halted or held stops at once; nothing leaves it any more, its
shepherd and drover stop, and its transfers and tasks are discarded with it. -/
def abortFold (x : Fold) : Fold :=
  let still := x.ex.wait.isSome || x.db.held || x.ex.tally.isSome || x.dr.tapping.isSome || decide (x.ex.run ≠ .running)
  { x with
    ex := { x.ex with run := if x.ex.run = .ended then .ended else if still then .stopped else x.ex.run, wait := none,
                      tally := none }
    qu := { x.qu with outMsg := [], outPn := x.qu.outPn.filter (·.own) }
    sh := { x.sh with run := .halted, wait := none, acc := none }
    dr := { x.dr with xfers := [], taps := [], tasks := [], tapping := none, tapSent := false }
    db := x.db.release }

/-- A fold of the job is in a tally hold, whose fault the abort counts (R415). -/
def tallyHolds (s : State) (j : Job) : Nat := (j.places.filter fun f => (s.fold f).ex.tally.isSome).length

/-- The save areas of a job hold no defined data (R383). -/
def scramble (v : Saved) (s : State) : State :=
  v.areas.foldl (fun t a => (t.pokeMem a.addr (contextImage a.len t.freeCtr)).used) s

/-- A restore that the abort ends leaves no defined data in the save area. -/
def abandonMove (j : Job) (s : State) : State :=
  let t := { s with moving := none }
  match s.moving with
  | some v => if j.phase = .restoring then scramble v t else t
  | none => t

/-- The abort of the job with fault `r` reaches every unit (R352, R410); a save in progress saves nothing (R377). -/
def abortJob (r : FaultRep) (nsec : Nat) (s : State) : State :=
  match s.job with
  | none => s
  | some j =>
    let t := flushRuns (fun _ => true) s
    let t := t.onJob fun j => { j with phase := .aborting, reports := [], abort := some (r, nsec) }
    let t := j.places.foldl (fun t f => t.onFold f abortFold) t
    let t := abandonMove j (dropAsks (clearMast t))
    if r.code = 0x62 || r.code = 0x63 then t else t.sendGroupAbort r.code

/-- ABORT (R410): the first fault report reaches the abort controller. -/
def execAbort (s : State) : Res :=
  whileClocked s (match s.job with
    | none => s
    | some j =>
      match j.reports with
      | [] => s
      | r :: rest => if j.open_ then abortJob (firstReport r rest) (rest.length + tallyHolds s j) s else s)

/-! ### The fault record (R411, R416) -/

/-- The fields of a fault record without its check value. -/
def FaultRep.word (r : FaultRep) (nsec : Nat) : Nat :=
  at_ 496 16 r.code + at_ 493 3 r.die + at_ 492 1 (b2n r.lv) + at_ 489 3 (r.lfold / 4) + at_ 484 5 r.fold +
    at_ 479 5 r.lfold + at_ 475 4 r.engine + at_ 472 3 r.akind + at_ 408 64 r.addr + at_ 396 12 r.tag.toNat +
    at_ 332 64 r.step + at_ 284 48 r.cycle + at_ 220 64 r.detail + at_ 204 16 (min nsec 0xFFFF) + at_ 192 12 r.origin +
    at_ 152 8 1

/-- The fault record (R416). -/
def FaultRep.bytes (r : FaultRep) (nsec : Nat) : List Byte := sealed 160 (r.word nsec)

/-- The log entry of a fault (R484): class 0x01, its code, and bits 511:192 of its record (log entry 26). -/
def logFault (r : FaultRep) (nsec : Nat) (s : State) : State := logEntry 1 r.code (r.word nsec / 2 ^ 192 % 2 ^ 320) s

/-- The fault record is written at RECORDS (R411). -/
def writeFault (j : Job) (r : FaultRep) (nsec : Nat) (s : State) : State := s.writeOut j.hdr.records (r.bytes nsec)

/-- No unit holds work of the job (R411). -/
def workGone (s : State) (j : Job) : Bool :=
  s.host.snoop.isEmpty && j.places.all fun f =>
    let x := s.fold f
    decide (x.ex.run ≠ .running) && x.ex.due.isEmpty && x.mx.verdicts.isEmpty

/-- ABORT_COMPLETE (R411, R419, R531): the fault record and then the completion record; fatal cause 0x04 writes neither. -/
def execAbortComplete (s : State) : Res :=
  whileClocked s (match s.job with
    | none => s
    | some j =>
      match j.abort with
      | none => s
      | some (r, nsec) =>
        if !workGone s j then s
        else
          let t := s.newFrames defaultSplit
          if s.chip.fatal = 4 then leaveJob t else logFault r nsec (endJob 2 0 (writeFault j r nsec t)))

/-! ### Host abort (R383) -/

/-- The report of a host abort that comes on access path `path` (R383, R417): AKIND 5, the path in ADDR. -/
def abortRep (path : Nat) (s : State) : FaultRep := { s.repNone 0x61 5 engNone 0 with akind := 5, addr := path }

/-- A preempted job is aborted: its record names the host abort, and its save area holds nothing (R383). -/
def abortSaved (path : Nat) (v : Saved) (s : State) : State :=
  let r := { abortRep path s with step := v.job.step }
  let t := { s with saved := s.saved.filter fun w => decide (w.job.seq ≠ v.job.seq) }
  let t := writeFault v.job r 0 (scramble v t)
  logFault r 0 (queueComp (v.job.comp 2 v.job.hdr.records 0 (Config.free t.freeCtr % 2 ^ 32)) t.used)

/-- A write on `path` aborts the jobs whose tag is `tag`; no match is ignored (R383). -/
def abortTag (path tag : Nat) (s : State) : State :=
  let t := match s.job with
    | some j => if j.hdr.tag = tag then raise (abortRep path s) s else s
    | none => s
  (s.saved.filter fun v => decide (v.job.hdr.tag = tag)).foldl (fun t v => abortSaved path v t) t

/-! ### Taps (R178, R238, R423-R428) -/

/-- The layout of a tapped tile span: rows 0 to ROWSM1 (R425). -/
def spanGeom (w : BitVec 32) (spanC : Nat) : Geom :=
  { len := 0, gstr := 1, fmt := cfgFmt w, rbc := cfgRbc w, rows := cfgRows w, wt := false, spl := 0, ck := false, dcf := 0,
    spanC := spanC }

/-- Tiles of a tapped span. -/
def TapEnt.tiles (e : TapEnt) : List Nat := (List.range (spanTiles e.span)).map fun k => e.tile + k

/-- TAP_FIRE (R425, R428): the fold reaches the tapped stall point and waits there while the copy is made. -/
def execTapFire (f : FoldId) (s : State) : Res :=
  let n := f.toNat
  let x := s.fold n
  whileClocked s (match s.job with
    | none => s
    | some j =>
      if j.phase ≠ .running || !x.executes || x.ex.ctlDue || x.ex.wait.isSome || x.db.req || !atStall x
          || (if x.ex.issued then x.ex.unsettled else x.ex.overdue) || x.late x.ex.upTo then s
      else
        match tapDue s x x.ex.nextBundle, j.taps with
        | some i, some l =>
          match l.ents[i]? with
          | none => s
          | some e =>
            let x := if x.ex.issued then x.advance s.paused else x
            let x := { x with dr := { x.dr with fired := i :: x.dr.fired } }
            if e.sk && e.tiles.any fun t => decide (16 ≤ t) || !x.ti.used t then
              let b := x.ex.nextBundle
              (s.setFold n (x.failAt 0)).raiseFold n 0x24 engDrover 1 b (bundleTag (peek 0 x.ex.bundles b)) i
            else s.setFold n { x with dr := { x.dr with tapping := some i } }
        | _, _ => s)

/-- The bytes that a tap copies, and the state after reading them (R93, R107, R425). -/
def tapBytes (f baddr : Nat) (tag : BitVec 12) (e : TapEnt) (s : State) : State × List Byte :=
  if e.sk then
    let x := (s.fold f).ti
    let g := spanGeom (x.word e.tile) e.span
    let cells := e.tiles.flatMap fun t => (List.range g.rows).map fun r => (t, r)
    let s := cells.foldl (fun s c => touchRow f baddr tag c.1 c.2 s) s
    (s, (tileImage g (cells.map fun c => x.row c.1 c.2 g.rb ++ x.rowExps c.1 c.2)).flatMap id)
  else
    let s := spTouch f 1 baddr tag (64 * e.line) (64 * (e.len + 1)) s
    (s, (s.fold f).sp.bytes (64 * e.line) (64 * (e.len + 1)))

/-- The copy of tap entry `i` leaves the fold (R425): it and its tap record are written, unless the tally units disagree on its data, which
the drain-out unit reports at the bundle (R181); then nothing is written. A destination beyond the device address limit is an address
fault (R314). -/
def sendTap (n i : Nat) (j : Job) (e : TapEnt) (crcOk : Bool) (s : State) : State :=
  let b := (s.fold n).ex.nextBundle
  let tag := bundleTag (peek 0 (s.fold n).ex.bundles b)
  let (t, bytes) := tapBytes n b tag e s
  let own : List OwnRead := [(e.dest, bytes.length + 64, true)]
  if t.beyond e.dest (bytes.length + 64) then (t.setFold n ((t.fold n).failAt 0)).raiseFold n 0x12 engDrover 1 b tag e.dest
  else if !s.ownReady own then s.jobAsk own
  else if !crcOk then
    let t := t.onFold n fun y => { y with dr := { y.dr with tapping := none } }
    tallyFault n 4 none (t.rep n 0x42 engTally 1 b tag (at_ 32 32 (crc32c bytes) + Config.free t.freeCtr % 2 ^ 32)) t.used
  else
    let c : CheckOf := { crc := crc64 bytes, addr := e.dest, len := bytes.length, tag := e.tag, index := i, step := e.step }
    let t := t.onFold n fun y => { y with dr := { y.dr with tapSent := true } }
    (t.writeFor .jobOut e.dest bytes).writeFor .jobOut (e.dest + bytes.length) (j.checkRecord c)

/-- TAP_COPY_COMPLETE (R178, R181, R260, R362, R425): the copy and its tap record leave the fold once every verdict has been delivered and
a host destination is translated; when they have been written, the fold goes on. -/
def execTapCopyComplete (c : TapCopy) (s : State) : Res :=
  let n := c.fold.toNat
  let x := s.fold n
  whileClocked s (match s.job, x.dr.tapping with
    | some j, some i =>
      match j.taps.bind fun l => l.ents[i]? with
      | none => s
      | some e =>
        if j.phase ≠ .running then s
        else if x.dr.tapSent then
          (if s.host.snoop.isEmpty && !s.holdsOut .jobOut then
            s.onFold n fun y => { y with dr := { y.dr with tapping := none, tapSent := false } }
          else s)
        else if !x.mx.vOpen.isEmpty || !x.mx.verdicts.isEmpty || verdictFaulted n s then s
        else sendTap n i j e c.crcOk s
    | _, _ => s)

end Sys2Proof.Machine
end

