-- ==== Sys2Proof/Machine/HostLink.lean ====
section
/-! DEFINITION. What the host answers and asks over CXL (R359-R364, R472). -/
namespace Sys2Proof.Machine

/-! ### Translations (R362, R363) -/

/-- An entry that an ATS completion gives. -/
def entOf (s : State) (a : AtsAnswer) : TtEnt :=
  { ubase := a.ubase.toNat % 2 ^ 63, tbase := a.tbase.toNat, size := 2 ^ a.sizeLog.toNat, rd := a.rd, wr := a.wr,
    pasid := s.jobPasid, valid := true }

/-- ATS_TRANSLATION_COMPLETION (R362): it answers outstanding requests for its pages, fills an entry, and the waiting accesses proceed. -/
def execAtsTranslationCompletion (a : AtsAnswer) (s : State) : Res :=
  let e := entOf s a
  whileClocked s (if a.sizeLog.toNat < 12 || 30 < a.sizeLog.toNat || !(s.host.ats.any fun r => e.covers s.jobPasid r.1) then s
    else
      let t := fillEntry e s
      pumpAll { t with host := { t.host with ats := t.host.ats.filter fun r => !e.covers s.jobPasid r.1 } })

/-- Entries that an invalidation matches are marked invalid (R363). -/
def invalidate (base size : Nat) (pasid : Option Nat) (s : State) : State :=
  let hit := fun (e : TtEnt) =>
    e.valid && decide (e.pasid = pasid) && decide (e.ubase < base + size) && decide (base < e.ubase + e.size)
  let off := fun (e : TtEnt) => if hit e then { e with valid := false } else e
  { s with host := { s.host with tt := s.host.tt.map off } }

/-- ATS_INVALIDATE (R363): an access under an entry is made at once, so none that was issued is still to complete, and the Invalidate
Completion is sent with the command. -/
def execAtsInvalidate (base : BitVec 64) (sizeLog : BitVec 6) (pasid : Option (BitVec 20)) (s : State) : Res :=
  let b := base.toNat % 2 ^ 63
  let n := 2 ^ sizeLog.toNat
  let p := pasid.map (·.toNat)
  let t := invalidate b n p s
  whileClocked s { t with host := { t.host with invDone := t.host.invDone ++ [(b, n, p)] } }

/-! ### Page requests (R364) -/

/-- A host page fault of the access in slot `t` of fold `f`: a transfer, with 64 and 65 the bursts of DL0 and DL1, or an access that the
device makes for the job itself. The device's other accesses have no job to fault, and ask again (log entry 92). -/
def pageFault (f t page : Nat) (s : State) : State :=
  let x := s.fold f
  match x.xfer t with
  | some y => descFault f 5 y.desc 0x60 engDrover page (holdXfer f y s)
  | none =>
    if t = jobSlot then raise (s.repNone 0x60 5 engNone page) s
    else if t = 64 ∨ t = 65 then listFault f (t - 64) (blankDesc (x.dr.list (t - 64)).next) 0x60 5 engDrover page s
    else s

/-- The requests for a page are answered or given up. -/
def dropPage (page : Nat) (s : State) : State :=
  { s with host := { s.host with pri := s.host.pri.filter fun r => decide (r.1 ≠ page) } }

/-- The accesses that wait on a page request for `page`, fold and slot, in the order of their program folds (R414), those of no fold
last. -/
def pageWaiters (page : Nat) (s : State) : List (Nat × Nat) :=
  let l := (s.host.pri.filter fun r => decide (r.1 = page)).map (·.2)
  match s.job with
  | some j => (j.places.flatMap fun f => l.filter fun r => decide (r.1 = f) && decide (r.2 < jobSlot)) ++
      l.filter fun r => decide (jobSlot ≤ r.2)
  | none => []

/-- Every access that waits on a page request for `page` faults. -/
def failPage (page : Nat) (s : State) : State :=
  (pageWaiters page s).foldl (fun t r => pageFault r.1 r.2 page t) (dropPage page s)

/-- PAGE_RESPONSE (R364): success resumes the transfers with a new translation; any other response is a host page fault. A response
without an outstanding request is discarded (R377, R410). -/
def execPageResponse (page : BitVec 64) (a : PriAnswer) (s : State) : Res :=
  let p := pageOf page.toNat
  whileClocked s (if !(s.host.pri.any fun r => decide (r.1 = p)) then s
    else
      match a with
      | .success => pumpAll (invalidate p 4096 s.jobPasid (dropPage p s))
      | .invalid | .failure => failPage p s)

/-- PAGE_REQUEST_TIMEOUT (R364). -/
def execPageRequestTimeout (page : BitVec 64) (s : State) : Res := whileClocked s (failPage (pageOf page.toNat) s)

/-! ### Coherent windows and CXL.mem (R359, R361, R472) -/

/-- BIRSP (R361): the writes that wait for the line take effect, in order. -/
def execBirsp (line : BitVec 64) (s : State) : Res :=
  let mine := fun (e : Nat × List Byte) => decide (e.1 / 64 = line.toNat / 64)
  let t := { s with host := { s.host with snoop := s.host.snoop.filter fun e => !mine e } }
  whileClocked s ((s.host.snoop.filter mine).foldl (fun t e => t.store e.1 e.2) t)

/-- Memory_Active is 1 (R472). -/
def State.memoryActive (s : State) : Bool := decide (s.chip.phase = .trained) || decide (s.chip.phase = .ready)

/-- A CXL.mem access to host physical address `h` joins the remote class of its port (R359); before Memory_Active it completes with
poison (R472). The HDM decoder covers device addresses 0 to the limit, from its base on. -/
def cxlAccess (h : Nat) (wr poison : Bool) (data : List Byte) (s : State) : State :=
  let a := (h - s.host.hdmBase.toNat) / 64 * 64
  if !s.chip.cxlUp || h < s.host.hdmBase.toNat then s
  else if !s.memoryActive then { s with host := { s.host with cxlOut := s.host.cxlOut ++ [.poison a] } }
  else if s.limit ≤ a then s
  else s.ask .remote { who := .cxl poison, off := 0, addr := a, n := 1, wr := wr, data := padTo 64 (data.take 64) }

/-- CXL_MEM_REQUEST (R357, R359). -/
def execCxlMemRequest (r : CxlReq) (s : State) : Res :=
  whileClocked s (match r with
    | .read a => cxlAccess a.toNat false false [] s
    | .write a d p => cxlAccess a.toNat true p d s)

end Sys2Proof.Machine
end

