-- ==== Sys2Proof/Machine/Lookout.lean ====
section
/-! DEFINITION. The lookout at work: its log in flash, firmware programming, the RSA engine and the SPDM responder (R484-R495). -/
namespace Sys2Proof.Machine

/-! ### The event log (R484, R485) -/

/-- Entries of 64 bytes that the log area of flash holds, 98,304, and those of one sector, 1,024 (R483, R485). -/
def logRoom : Nat := flashBytes .log / 64
def logSector : Nat := sectorBytes / 64

/-- The log with one entry more; the sector with the oldest entries is erased when the area is full (R485). -/
def logKeep (log : List LogEnt) (e : LogEnt) : List LogEnt :=
  (if logRoom ≤ log.length then log.drop logSector else log) ++ [e]

/-- LOG_FLUSH (R485): the oldest buffered entry is written to flash. -/
def execLogFlush (s : State) : Res :=
  .next (match s.look.buf with
    | [] => s
    | e :: rest =>
      if s.lookoutRuns then { s with look := { s.look with log := logKeep s.look.log e, buf := rest } } else s)

/-! ### Firmware programming (R483, R490) -/

/-- Bytes written to a slot, in the order they were taken. -/
def programBytes (m : List Host.Cell) (l : List (Nat × Byte)) : List Host.Cell :=
  l.foldl (fun m b => put erased m b.1 b.2) m

/-- Programs into the inactive slot the buffered bytes that `p` selects. -/
def program (p : Nat × Byte → Bool) (x : Lookout) : Lookout :=
  let i := 1 - x.active
  { x.setImage i (programBytes (x.image i) (x.fwBuf.filter p)) with fwBuf := x.fwBuf.filter fun b => !p b }

/-- SECTOR_PROGRAMMED (R490): the sector of the oldest buffered byte is programmed and read back. -/
def execSectorProgrammed (s : State) : Res :=
  .next (match s.look.fwBuf with
    | [] => s
    | (a, _) :: _ =>
      { s with look := program (fun b => decide (b.1 / sectorBytes = a / sectorBytes)) s.look })

/-! ### SPDM (R494, R495) -/

/-- The mailbox of function 0 is reached, and firmware answers it. -/
def State.mailbox (s : State) : Bool := s.clocked && s.chip.cxlUp && s.look.wdog

/-- The responder sends a response. -/
def respond (r : Spdm) (s : State) : State := { s with look := { s.look with spdm := some r } }

/-- A request that needs a signature waits for the engine; without the key it is answered with ERROR (R493, R495). -/
def sign (j : RsaJob) (s : State) : State :=
  if s.look.keyOk then { s with look := { s.look with rsa := s.look.rsa ++ [j] } } else respond (.error .unspecified) s

/-- Measurement `n` (R494): what it covers; the layout of its parts is the model's (log entry 18). -/
def measurement (s : State) (n : Nat) : List Byte :=
  match n with
  | 1 => sha512 Config.bootRom
  | 2 => sha512 (s.look.signedBytes s.look.active) ++ leBytes 1 s.look.svn ++ leBytes 4 s.look.fwVersion.toNat
  | 3 => leBytes 1 s.chip.grade.code ++ leBytes 1 s.look.rollback ++ beBytes 64 s.look.rootHash.toNat
  | _ => leBytes 1 (b2n s.look.lock) ++ leBytes 2 s.rig.mgr.toNat ++ leBytes 1 s.look.active

/-- The measurement blocks that a request names: one of 1 to 4, all of them (0xFF), or their number (0). -/
def blocks (s : State) (index : Nat) : Option (List (Nat × List Byte)) :=
  if index = 0 then some [(0, [4])]
  else if index = 0xFF then some ([1, 2, 3, 4].map fun n => (n, measurement s n))
  else if index < 5 then some [(index, measurement s index)]
  else none

/-- Bytes of measurement blocks that a signature covers. -/
def blockBytes (l : List (Nat × List Byte)) : List Byte := l.flatMap fun b => leBytes 1 b.1 ++ b.2

/-- GET_VERSION (R494): SPDM 1.2. -/
def execGetVersion (s : State) : Res := .next (if s.mailbox then respond (.version 1 2) s else s)

/-- What R494 supports: CTExponent 17, the requests for certificates, challenge and measurements, and none of the rest. -/
def spdmCaps : SpdmCaps :=
  { ctExponent := 17, certificates := true, challenge := true, measurements := true, keyExchange := false, pskExchange := false,
    mutualAuth := false, setCertificate := false }

/-- GET_CAPABILITIES (R494). -/
def execGetCapabilities (s : State) : Res := .next (if s.mailbox then respond (.capabilities spdmCaps) s else s)

/-- NEGOTIATE_ALGORITHMS (R494): TPM_ALG_RSAPSS_4096, TPM_ALG_SHA_512, and SHA-512 for measurements. -/
def execNegotiateAlgorithms (s : State) : Res := .next (if s.mailbox then respond (.algorithms .rsapss4096 .sha512 .sha512) s else s)

/-- GET_DIGESTS (R494): the hash of the chain in slot 0. -/
def execGetDigests (s : State) : Res := .next (if s.mailbox then respond (.digests (sha512 s.look.chain)) s else s)

/-- GET_CERTIFICATE (R494): a part of the chain in slot 0, and the bytes that remain behind it. -/
def execGetCertificate (slot : BitVec 4) (offset len : BitVec 16) (s : State) : Res :=
  let n := s.look.chain.length
  .next (if !s.mailbox then s
    else if slot ≠ 0 || n < offset.toNat then respond (.error .invalidRequest) s
    else
      let part := (s.look.chain.drop offset.toNat).take len.toNat
      respond (.certificate part (n - offset.toNat - part.length)) s)

/-- CHALLENGE (R494, R495). -/
def execChallenge (slot : BitVec 4) (nonce : List Byte) (s : State) : Res :=
  .next (if !s.mailbox then s else if slot ≠ 0 then respond (.error .invalidRequest) s else sign (.challenge nonce) s)

/-- GET_MEASUREMENTS (R494, R495). -/
def execGetMeasurements (index : BitVec 8) (signed : Bool) (nonce : List Byte) (s : State) : Res :=
  .next (if !s.mailbox then s
    else
      match blocks s index.toNat with
      | none => respond (.error .invalidRequest) s
      | some l => if signed then sign (.measurements index.toNat nonce) s else respond (.measurements l []) s)

/-- RSA_OPERATION (R495): the engine ends the operation in front. What an SPDM signature covers beside the nonce is the standard's, which
the manual does not repeat (log entry 18). -/
def execRsaOperation (s : State) : Res :=
  .next (match s.look.rsa with
    | [] => s
    | j :: rest =>
      let t := { s with look := { s.look with rsa := rest } }
      match j with
      | .digest => if s.clocked then signDigest t else s
      | .challenge nonce => respond (.challengeAuth (s.signature (s.look.chain ++ nonce))) t.used
      | .measurements i nonce =>
        let l := (blocks s i).getD []
        respond (.measurements l (s.signature (blockBytes l ++ nonce))) t.used)

end Sys2Proof.Machine
end

