-- ==== Sys2Proof/Machine/Debug.lean ====
section
/-! DEFINITION. The debugger and the trace buffer (R308, R309, R516-R529): what the 0xA000 range of the dictionary does. -/
namespace Sys2Proof.Machine

/-! ### Halting and stepping (R517-R521) -/

/-- The fold belongs to the running job. -/
def State.inJob (s : State) (f : Nat) : Bool := match s.job with | some j => j.places.contains f | none => false

/-- The increment was issued before the fold's cycle `c` (R301). -/
def PnMsg.before (m : PnMsg) (c : Nat) : Bool := decide (m.due < c + (if m.own then 2 else 32))

/-- Operations that issued before the halt have made their last writes (R518). -/
def Fold.atRest (x : Fold) : Bool :=
  x.ex.due.isEmpty && x.mx.verdicts.isEmpty && !(x.qu.outPn.any fun m => m.before x.db.since)

/-- The state of a fold that OD 0xA010+f.02 gives (R517). -/
def debugState (s : State) (f : Nat) : Nat :=
  let x := s.fold f
  if !s.inJob f then 4
  else if x.db.stepping then (if x.db.stepped then 1 else 3)
  else if x.db.held then (if x.atRest then 2 else 1)
  else if x.db.req then 1 else 0

/-- A halt request (R517, R518, R521): without effect on a fold that is not in a job or issues nothing more. -/
def haltFold (f : Nat) (all : Bool) (s : State) : State :=
  if s.inJob f && decide ((s.fold f).ex.run ≠ .ended) then
    s.onFold f fun x => { x with db := { x.db with req := !x.db.held, all := x.db.all || all } }
  else s

/-- The runs of debugger writes of fold `f` are logged: its halt begins or ends (R525). -/
def endRuns (f : Nat) (s : State) : State := flushRuns (fun r => decide (r.fold = f)) s

/-- A halted fold issues `n` bundles (R517, R525); the breakpoint lets its present bundle pass. -/
def stepFold (f n : Nat) (s : State) : State :=
  endRuns f (s.onFold f fun x => { x with db := { x.db with held := false, stepping := true, steps := n },
                                          ex := { x.ex with brkPass := true } })

/-- A tally hold is released: its fault is raised (R182). -/
def releaseTally (f : Nat) (s : State) : State :=
  match (s.fold f).ex.tally with
  | none => s
  | some h =>
    (raise h.rep (s.onFold f fun x => { x with ex := { x.ex with tally := none } })).tr f 9 engTally h.rep.tag h.rep.code

/-- A fold is resumed (R182, R517, R525, R527); the breakpoint at which it was held lets its bundle pass. -/
def resumeFold (f : Nat) (s : State) : State :=
  let s := releaseTally f s
  if (s.fold f).db.busy then
    let t := s.onFold f fun x => { x with db := x.db.release, ex := { x.ex with brkPass := x.ex.brkPass || x.db.held } }
    endRuns f (t.tr f 0x0A engExec (s.fold f).ex.lastTag 1)
  else s

/-- The fold halts (R518, R525, R527). -/
def holdFold (f : Nat) (s : State) : State :=
  let t := s.onFold f fun x =>
    let y := if x.ex.issued then x.advance s.paused else x
    { y with db := { y.db with req := false, held := true, since := y.ex.cycle, stepping := false, steps := 0 } }
  endRuns f (t.tr f 0x0A engExec (s.fold f).ex.lastTag 0)

/-- The next bundle would reach issue now: nothing that is due before it is left. -/
def Fold.comes (s : State) (x : Fold) : Bool :=
  x.executes && !x.ex.ctlDue && !s.aborting && !x.late x.ex.upTo &&
    !(if x.ex.issued then x.ex.unsettled else x.ex.overdue)

/-- FOLD_HALT (R518): a requested halt takes effect at the next stall point, and the end of a step before the next bundle. -/
def execFoldHalt (f : FoldId) (s : State) : Res :=
  let x := s.fold f.toNat
  whileClocked s (if x.comes s && ((x.db.req && atStall x) || x.db.stepped) then holdFold f.toNat s else s)

/-- BREAKPOINT (R518): the fold halts before its breakpoint's bundle reaches issue. -/
def execBreakpoint (f : FoldId) (s : State) : Res :=
  let x := s.fold f.toNat
  whileClocked s (if x.comes s && x.ex.wait.isNone && x.atBreak then holdFold f.toNat s else s)

/-! ### Fold state (R522-R525) -/

/-- Length of DOMAIN entry `sub` of OD 0xA100+f (R522). -/
def stateLen (sub : Nat) : Nat :=
  match sub with
  | 1 => 278656
  | 2 => 6291456
  | 3 => 1048576
  | 4 => 16384
  | 5 => 2048
  | _ => 352

/-- The state word of a tile (R86). -/
def Tiles.stateWord (x : Tiles) (t : Nat) : Nat :=
  at_ 31 1 (b2n (x.used t)) + at_ 30 1 (b2n (x.incomplete t)) + (if x.incomplete t then at_ 0 7 (peek 0 x.start t) else 0)

/-- Bytes of a tile in OD 0xA100+f.01, and of one of its rows. -/
def tileBytesOD : Nat := 17416
def rowBytesOD : Nat := 136

/-- Eight bytes of the tiles at offset `o`. -/
def readTiles (x : Tiles) (o : Nat) : List Byte :=
  let t := o / tileBytesOD
  let r := o % tileBytesOD
  if r < 8 then leBytes 4 (x.word t).toNat ++ leBytes 4 (x.stateWord t)
  else
    let i := (r - 8) / rowBytesOD
    let c := (r - 8) % rowBytesOD
    if c < 128 then ((x.row t i 128).drop c).take 8 else x.rowExps t i

/-- Bytes `c` onward of a list replaced. -/
def splice (l : List Byte) (c : Nat) (b : List Byte) : List Byte := l.take c ++ b ++ l.drop (c + b.length)

/-- Writes eight bytes of the tiles, with fresh parity for these (R93, R524); configuration and state words ignore it (R523). -/
def writeTiles (o : Nat) (b : List Byte) (x : Tiles) : Tiles :=
  let t := o / tileBytesOD
  let r := o % tileBytesOD
  if r < 8 then x
  else
    let i := (r - 8) / rowBytesOD
    let c := (r - 8) % rowBytesOD
    let y := (if c < 128 then x.putRow t i (splice (x.row t i 128) c b) (x.rowExps t i) else x.putRow t i (x.row t i 128) b)
    { y with bad := x.bad }.fresh t i (c / 4) 2

/-- The running value of the message that queue `q` is receiving (R183). -/
def Fold.msgRun (x : Fold) (q : Nat) : Nat := match x.qu.inMsgs.find? fun m => decide (m.q = q) with | some m => m.crc | none => 0

def Fold.setMsgRun (x : Fold) (q v : Nat) : Fold :=
  match x.qu.inMsgs.findIdx? fun m => decide (m.q = q) with
  | some i => { x with qu := { x.qu with inMsgs := x.qu.inMsgs.modify i fun m => { m with crc := v } } }
  | none => x

/-- Eight bytes of the tally context (R183, R522). -/
def readTally (x : Fold) (o : Nat) : List Byte :=
  let run := fun (t : Nat) => match x.xfer t with | some y => y.crc | none => 0
  if o < 256 then leBytes 4 (run (o / 4)) ++ leBytes 4 (run (o / 4 + 1))
  else if o < 320 then leBytes 4 (x.msgRun ((o - 256) / 4)) ++ leBytes 4 (x.msgRun ((o - 256) / 4 + 1))
  else if o < 336 then (List.range 8).map fun i => (x.chan (o - 320 + i)).sendCnt
  else (List.range 8).map fun i => (x.queue (o - 336 + i)).expect

/-- Writes eight bytes of the tally context. -/
def writeTally (o : Nat) (b : List Byte) (x : Fold) : Fold :=
  let run := fun (t v : Nat) (x : Fold) => match x.xfer t with | some y => x.setXfer { y with crc := v } | none => x
  if o < 256 then run (o / 4 + 1) (leNat (b.drop 4)) (run (o / 4) (leNat (b.take 4)) x)
  else if o < 320 then
    (x.setMsgRun ((o - 256) / 4) (leNat (b.take 4))).setMsgRun ((o - 256) / 4 + 1) (leNat (b.drop 4))
  else if o < 336 then
    (enumFrom (o - 320) b).foldl (fun x e => x.setChan e.1 { x.chan e.1 with sendCnt := e.2 }) x
  else (enumFrom (o - 336) b).foldl (fun x e => x.setQueue e.1 { x.queue e.1 with expect := e.2 }) x

/-- Eight bytes at offset `o` of state entry `sub` (R522). -/
def readState (x : Fold) (sub o : Nat) : List Byte :=
  match sub with
  | 1 => readTiles x.ti o
  | 2 => x.sp.bytes o 8
  | 3 => leBytes 8 (peek 0 x.mx.acc (o / 8)).toNat
  | 4 => leBytes 4 (peek 0 x.ve.reg (o / 4)).toNat ++ leBytes 4 (peek 0 x.ve.reg (o / 4 + 1)).toNat
  | 5 => ((leBytes 32 (peek 0 x.dr.rht (o / 32)).toNat).drop (o % 32)).take 8
  | _ => readTally x o

/-- Writes eight bytes of a state entry, with fresh parity and SECDED (R524). -/
def writeState (sub o : Nat) (b : List Byte) (x : Fold) : Fold :=
  match sub with
  | 1 => { x with ti := writeTiles o b x.ti }
  | 2 => { x with sp := x.sp.write o b }
  | 3 => { x with mx := { x.mx with acc := put 0 x.mx.acc (o / 8) (BitVec.ofNat 64 (leNat b)) } }
  | 4 =>
    let k := o / 4
    let reg := put 0 (put 0 x.ve.reg k (BitVec.ofNat 32 (leNat (b.take 4)))) (k + 1) (BitVec.ofNat 32 (leNat (b.drop 4)))
    { x with ve := { x.ve with reg := reg, bad := put false (put false x.ve.bad k false) (k + 1) false } }
  | 5 => x
  | _ => writeTally o b x

/-- Reads `n` bytes from offset `o`, in units of eight bytes; bytes beyond the end read as zero. -/
def readStateRun (x : Fold) (sub o n : Nat) : List Byte :=
  padTo n ((List.range (ceilDiv n 8)).flatMap fun i =>
    if o + 8 * i < stateLen sub then readState x sub (o + 8 * i) else [])

/-- Writes bytes from offset `o`, in units of eight bytes; a last unit that is short keeps its other bytes, and bytes beyond the end
are dropped. -/
def writeStateRun (sub o : Nat) (data : List Byte) (x : Fold) : Fold :=
  (enumFrom 0 (pieces 8 data)).foldl (fun x e =>
    let a := o + 8 * e.1
    if a < stateLen sub then writeState sub a (e.2 ++ (readState x sub a).drop e.2.length) x else x) x

/-- A write of `n` bytes at `off` of a DOMAIN entry joins the run of its path, or begins one (R525). Without a job the JOBSEQ and the
step are free values. -/
def noteRun (path f index sub off n : Nat) (s : State) : State :=
  let mine := fun (r : DbgRun) => decide (r.path = path)
  match s.dict.runs.find? mine with
  | some r =>
    if r.index = index ∧ r.sub = sub ∧ r.next ≤ off then
      let r2 := { r with next := off + n, count := r.count + n }
      { s with dict := { s.dict with runs := s.dict.runs.map fun q => if mine q then r2 else q } }
    else s
  | none =>
    let c := s.freeCtr
    let r : DbgRun := match s.job with
      | some j => { path := path, fold := f, index := index, sub := sub, first := off, next := off + n, count := n,
                    seq := j.seq, step := j.step }
      | none => { path := path, fold := f, index := index, sub := sub, first := off, next := off + n, count := n,
                  seq := Config.free c % 2 ^ 64, step := Config.free (c + 1) % 2 ^ 64 }
    { s with freeCtr := c + 2, dict := { s.dict with runs := s.dict.runs ++ [r] } }

/-- The run of path `path` ends when the path writes another entry, or the same one at a lower offset (R525). -/
def closeRun (path index sub off : Nat) (s : State) : State :=
  flushRuns (fun r => decide (r.path = path) && !(decide (r.index = index) && decide (r.sub = sub) && decide (r.next ≤ off))) s

/-- A debugger's write of fold state (R522-R525). -/
def debugWrite (path f sub off : Nat) (data : List Byte) (s : State) : State :=
  let index := 0xA100 + f
  let t := noteRun path f index sub off data.length s
  let t := t.onFold f (writeStateRun sub off data)
  t.tr f 0x0B engExec (s.fold f).ex.lastTag (at_ 8 16 index + at_ 0 8 sub)

/-! ### Pennants (R308, R309) -/

/-- The write of a pennant is logged with the path, the fold or global pennant, the pennant, the value before, the value
written, the job tag and the step (R309). -/
def logPennant (path : Nat) (global : Bool) (f pn before v : Nat) (s : State) : State :=
  let tag := match s.job with | some j => j.hdr.tag | none => 0
  logWith 7 143 (at_ 141 2 path + at_ 140 1 (b2n global) + at_ 134 6 f + at_ 128 6 pn + at_ 112 16 before + at_ 96 16 v +
    at_ 64 32 tag + at_ 0 64 s.stepNo) s

/-- A fold's pennant is set at the next cycle boundary of the fold (R308); a fold that is in no job has no cycles, and takes it at once.
The value before is that of the write's arrival (log entry 93). -/
def setPennant (path f pn : Nat) (v : BitVec 16) (s : State) : State :=
  let before := (s.fold f).qu.pennant pn
  let t := s.onFold f fun x =>
    if s.inJob f then { x with qu := { x.qu with pnSet := x.qu.pnSet ++ [(pn, v)] } }
    else { x with qu := { x.qu with pn := put 0 x.qu.pn pn v } }
  let t := logPennant path false f pn before v.toNat t
  t.tr f 0x0B engExec (s.fold f).ex.lastTag (at_ 8 16 (0xA200 + f) + at_ 0 8 (pn + 1))

/-- This device's copy of a global pennant: the job's, or the one that the dictionary keeps without a job. -/
def State.gpnCopy (s : State) (g : Nat) : BitVec 16 :=
  match s.job with
  | some j => peek 0 j.gpn g
  | none => peek 0 s.dict.gpnIdle g

/-- This device's copy of a global pennant is set (R308). The trace unit of the fold bound to it records the write (R304, R527, log entry
57). -/
def setGlobal (path g : Nat) (v : BitVec 16) (s : State) : State :=
  let t := match s.job with
    | some _ => s.onJob fun j => { j with gpn := put 0 j.gpn g v }
    | none => { s with dict := { s.dict with gpnIdle := put 0 s.dict.gpnIdle g v } }
  let t := logPennant path true 0 g (s.gpnCopy g).toNat v.toNat t
  match s.job.bind fun j => (peek none j.gOwn g).bind j.place with
  | some f => t.tr f 0x0B engExec (s.fold f).ex.lastTag (at_ 8 16 0xA300 + at_ 0 8 (g + 1))
  | none => t

/-! ### The trace buffer (R528, R529) -/

/-- Records in the buffer that have not been read. -/
def Trace.held (t : Trace) : Nat := (t.widx.toNat + 2 ^ 32 - t.ridx.toNat) % 2 ^ 32

/-- The buffer takes `k` records more. -/
def Trace.room (t : Trace) (k : Nat) : Bool :=
  decide (t.size ≠ 0) && (t.mode || decide (t.held + k ≤ t.size.toNat))

/-- Writes a record to the buffer, with the write class (R260, R529). -/
def putRecord (r : BitVec 256) (s : State) : State :=
  let t := s.writeOut (s.trace.base.toNat + 32 * (s.trace.widx.toNat % s.trace.size.toNat)) (leBytes 32 r.toNat)
  { t with trace := { t.trace with widx := t.trace.widx + 1 } }

/-- The record of KIND 0x0C that precedes record `r` after `n` lost ones. -/
def lostRecord (n : Nat) (r : BitVec 256) : BitVec 256 :=
  BitVec.ofNat 256 (at_ 248 8 0x0C + at_ 98 150 (fld r.toNat 98 150) + at_ 0 32 n)

/-- The oldest event of a trace unit: the records that were lost in the unit before it, its record, and the records behind it. A record of
KIND 0x0C stands before the event that it precedes (R529). -/
def nextEvent : List (BitVec 256) → Option (Nat × BitVec 256 × List (BitVec 256))
  | [] => none
  | r :: rest =>
    match decide (fld r.toNat 248 8 = 0x0C), rest with
    | true, e :: t => some (fld r.toNat 0 32, e, t)
    | _, _ => some (0, r, rest)

/-- TRACE_BUFFER_WRITE (R529): the oldest event of the fold's trace unit is written, preceded by one record of KIND 0x0C for all that were
lost before it, or is lost. -/
def execTraceBufferWrite (f : FoldId) (s : State) : Res :=
  let n := f.toNat
  whileClocked s (match nextEvent (s.fold n).db.recs with
    | none => s
    | some (lost, r, rest) =>
      let k := (s.fold n).db.lostB + lost
      let fits := s.trace.room (if k = 0 then 1 else 2)
      let t := s.onFold n fun x => { x with db := { x.db with recs := rest, lostB := if fits then 0 else k + 1 } }
      if !fits then
        logStick s.trace.lost 1 { t with trace := { t.trace with lost := ctrAdd t.trace.lost 1 } }
      else if k = 0 then putRecord r t
      else putRecord r (putRecord (lostRecord k r) t))

end Sys2Proof.Machine
end

