-- ==== Sys2Proof/Machine/Catalogue.lean ====
section
/-! DEFINITION. The object dictionary's catalogue and reads (R384-R391, R407, R444): which entries there are, who may use them, and
what they read as. -/
namespace Sys2Proof.Machine

/-! ### Types, rights and codes (R385, R388, R391) -/

/-- Entry types; a DOMAIN has its length. -/
inductive Ty where
  | u8 | u16 | u32 | u64 | i32 | bool | str
  | domain (len : Nat)
  deriving DecidableEq, Repr

inductive Right where
  | const | ro | wo | rw | none
  deriving DecidableEq, Repr

structure Entry where
  ty : Ty
  right : Right
  deriving DecidableEq, Repr

/-- Result codes (R391). -/
def codeNoEntry : Nat := 0x01
def codeRight : Nat := 0x02
def codeRange : Nat := 0x03
def codeState : Nat := 0x04
def codeOffset : Nat := 0x05
def codeLocked : Nat := 0x06
def codePending : Nat := 0x80
def codeBusy : Nat := 0x81

/-- Access paths (R388). -/
def pathH : Nat := 0
def pathF : Nat := 1
def pathM : Nat := 2

def cU8 : Entry := { ty := .u8, right := .const }
def cU16 : Entry := { ty := .u16, right := .const }
def cU32 : Entry := { ty := .u32, right := .const }
def cStr : Entry := { ty := .str, right := .const }
def rU8 : Entry := { ty := .u8, right := .ro }
def rU16 : Entry := { ty := .u16, right := .ro }
def rU32 : Entry := { ty := .u32, right := .ro }
def rU64 : Entry := { ty := .u64, right := .ro }
def rI32 : Entry := { ty := .i32, right := .ro }
def rBool : Entry := { ty := .bool, right := .ro }
def wU8 : Entry := { ty := .u8, right := .wo }
def wU16 : Entry := { ty := .u16, right := .wo }
def wU32 : Entry := { ty := .u32, right := .wo }
def wBool : Entry := { ty := .bool, right := .wo }
def vU8 : Entry := { ty := .u8, right := .rw }
def vU16 : Entry := { ty := .u16, right := .rw }
def vU32 : Entry := { ty := .u32, right := .rw }
def vU64 : Entry := { ty := .u64, right := .rw }
def vI32 : Entry := { ty := .i32, right := .rw }
def vBool : Entry := { ty := .bool, right := .rw }
def dom (n : Nat) (r : Right) : Entry := { ty := .domain n, right := r }

/-! ### The catalogue (R408): the entries of an index, from subindex 1 on -/

/-- 0x1000 to 0x2FFF (R406, R407, R444). -/
def rowsIdentity (i : Nat) : List Entry :=
  match i with
  | 0x1000 => [cStr, cStr, cU16]
  | 0x1001 => [cStr]
  | 0x1002 => [rU32, rU8]
  | 0x1010 => [cU8, cU8, cU32, cU8, cU8]
  | 0x1011 => [cU8, cU8]
  | 0x1012 => [cU32, cU16, cU16, cU32, cU8, cU8, cU8, cU8, cU8, cU8, cU8, cU16, cU16, cU32, cU32]
  | 0x1013 => [cU32, cU32]
  | 0x1020 => [rU32, rU8, rU16]
  | 0x2000 => [rU16, wU16, vU16]
  | 0x2001 => [rU8, rU8]
  | 0x2002 => List.replicate 10 rU64
  | _ => []

/-- 0x3000 to 0x3FFF (R382, R478). -/
def rowsHost (i : Nat) : List Entry :=
  match i with
  | 0x3000 => [rU8, wU32, rU32]
  | 0x3001 => [vU32, rU64]
  | 0x3010 | 0x3011 | 0x3012 | 0x3013 => [vU64, vU32, vBool, wU32, rU32]
  | 0x3020 => [vU64, vU32, vBool, vU32, rU32]
  | 0x3030 => [rU64, rU64]
  | 0x3040 => List.replicate 16 vU64
  | 0x3050 => [vU32, rU64, rU64]
  | 0x3060 => [rU16, vBool, wU8, wU32, wU8, rU32, rU32, rU8]
  | _ => []

/-- 0x4000 to 0x5FFF (R331, R461, R481); an absent quad has no entries. -/
def rowsPower (quads i : Nat) : List Entry :=
  if 0x4010 ≤ i ∧ i < 0x4010 + quads then [vU8, vI32, rU8, rI32, rU32, rU8]
  else
    match i with
    | 0x4000 => [vU16, rU32, vU8]
    | 0x4020 => List.replicate 5 rU64
    | 0x4030 => [vU8, vU8]
    | 0x4040 => List.replicate 64 rI32
    | 0x4041 => List.replicate 24 rI32
    | 0x5000 => [rU8, rU8, rU8, rU64, vU8, rU8]
    | 0x5001 => [rU8, vBool, rU32]
    | 0x5002 => [rU64, rU64, vU32, rU64]
    | 0x5003 => List.replicate 24 rU64
    | 0x5004 => [rU64, rU64]
    | 0x5005 => [rU64, rU64]
    | _ => []

/-- 0x6000 to 0x8FFF (R198, R280, R341, R347, R350, R352, R356). -/
def rowsRigging (i : Nat) : List Entry :=
  if 0x6200 ≤ i ∧ i < 0x6240 then [vU32, vU8, vBool, vU16]
  else if 0x6400 ≤ i ∧ i < 0x6420 then [rU8, rU64, rU64, rU64, rU16, rU8]
  else
    match i with
    | 0x6000 => [rU16, vU16, rU8, rU8, vU32]
    | 0x6001 => [vU16]
    | 0x6002 => [vU32, vU32]
    | 0x6010 => [vBool, vU16, vU8]
    | 0x6100 => [dom 16384 .rw]
    | 0x6300 => List.replicate 64 vU32
    | 0x6500 => [rU64, rU64]
    | 0x7000 => [vBool, vBool]
    | 0x7001 | 0x7002 => List.replicate 4 rU64
    | 0x7003 => [rU64]
    | 0x8010 => List.replicate 4 rU64
    | _ => []

/-- 0x9000 to 0xBFFF (R498, R517, R522, R528); an absent fold has no entries. -/
def rowsSecurity (chain folds i : Nat) : List Entry :=
  if 0xA010 ≤ i ∧ i < 0xA010 + folds then [wU8, rU8, wU16, wBool, rU16, rU64, vU16]
  else if 0xA100 ≤ i ∧ i < 0xA100 + folds then
    [dom (stateLen 1) .rw, dom (stateLen 2) .rw, dom (stateLen 3) .rw, dom (stateLen 4) .rw, dom (stateLen 5) .ro,
      dom (stateLen 6) .rw]
  else if 0xA200 ≤ i ∧ i < 0xA200 + folds then List.replicate 48 vU16
  else
    match i with
    | 0x9000 => [rBool, rBool]
    | 0x9001 => [dom chain .ro, rU32]
    | 0x9010 => [rU8, dom 4194304 .wo, rU32, rU8, wU8, rU8, rU8, rU8]
    | 0x9030 => [vBool]
    | 0xA000 => [vU32, vU32, vU64, vU32, rU32, vU32, vU8, rU64]
    | 0xA300 => List.replicate 64 vU16
    | 0xB000 => [rU64, rU64, vU64, dom 64 .ro, rU64]
    | _ => []

/-- The entries of index `i`. -/
def State.rows (s : State) (i : Nat) : List Entry :=
  let g := s.chip.grade
  if i < 0x3000 then rowsIdentity i
  else if i < 0x4000 then rowsHost i
  else if i < 0x6000 then rowsPower g.quads i
  else if i < 0x9000 then rowsRigging i
  else rowsSecurity s.look.chain.length g.folds i

/-- An entry (R384): subindex 0 of an implemented index is a U8 CONST. -/
def State.entry (s : State) (i sub : Nat) : Option Entry :=
  let l := s.rows i
  if l.isEmpty then none else if sub = 0 then some cU8 else l[sub - 1]?

/-- The right on a path (R388, R498). -/
def rightOn (path i : Nat) (r : Right) : Right :=
  let narrowed := match r with | .rw => Right.ro | o => o
  if path = pathH then r
  else if 0x3000 ≤ i ∧ i < 0x4000 then (match r with | .wo => Right.none | _ => narrowed)
  else if path = pathM ∧ 0x5000 ≤ i ∧ i < 0x8000 then narrowed
  else if path = pathM ∧ 0xA000 ≤ i ∧ i < 0xB000 then .none
  else r

def Right.reads : Right → Bool
  | .const | .ro | .rw => true
  | .wo | .none => false

def Right.writes : Right → Bool
  | .wo | .rw => true
  | .const | .ro | .none => false

/-- Entries that the lookout keeps (R396): its ranges, and what the catalogues say is kept in flash. -/
def lookoutKeeps (i sub : Nat) : Bool :=
  (decide (0x4000 ≤ i) && decide (i < 0x5000)) || (decide (0x9000 ≤ i) && decide (i < 0xA000)) ||
    (decide (0xB000 ≤ i) && decide (i < 0xC000)) || (decide (i = 0x5000) && decide (sub = 5)) ||
    (decide (i = 0x5001) && decide (sub = 2)) || (decide (i = 0x6000) && (decide (sub = 2) || decide (sub = 5)))

/-- In recovery mode, what the boot ROM answers on paths H and M (R488). -/
def recoveryKnows (i : Nat) : Bool :=
  (decide (0x1000 ≤ i) && decide (i ≤ 0x1011)) || (decide (0x2000 ≤ i) && decide (i < 0x3000)) || decide (i = 0x9010)

/-- The fold whose own entries an index holds (R516). -/
def foldOf (i : Nat) : Option Nat :=
  if 0xA010 ≤ i ∧ i < 0xA030 then some (i - 0xA010)
  else if 0xA100 ≤ i ∧ i < 0xA120 then some (i - 0xA100)
  else if 0xA200 ≤ i ∧ i < 0xA220 then some (i - 0xA200)
  else none

/-- The entry is one of the memory-side dies' (R331, R265). -/
def msdEntry (i : Nat) : Bool := (decide (0x5002 ≤ i) && decide (i < 0x5006)) || decide (i = 0x8010)

/-- Logical quad `q` has been released: those before it have been tested (R471). -/
def State.quadUp (s : State) (q : Nat) : Bool :=
  (decide (s.chip.phase = .trained) || decide (s.chip.phase = .ready)) && decide (q ≤ popCount s.chip.quadsTested.toNat 8)

/-- The entry's memory-side die or quad has not been released (R472), its fold is under block-level reset or has not passed its self-test
(R445), or its state may not be accessed now (R523). -/
def State.shut (s : State) (i : Nat) : Bool :=
  (msdEntry i && !s.chip.phase.msdUp) || (decide (0x4010 ≤ i) && decide (i < 0x4018) && !s.quadUp (i - 0x4010)) ||
  match foldOf i with
  | some f =>
    bitOf s.chip.blockReset.toNat f || !bitOf s.chip.quadsTested.toNat (f / 4) ||
      (decide (0xA100 ≤ i) && decide (i < 0xA120) && decide (debugState s f ≠ 2) && decide (debugState s f ≠ 4))
  | none => false

/-! ### Checks that every access meets -/

/-- The length that OFFSET must stay below (R385, R391). -/
def Ty.span : Ty → Option Nat
  | .str => some 256
  | .domain n => some n
  | _ => none

/-- OFFSET breaks R391. -/
def offsetBad (t : Ty) (off : Nat) : Bool :=
  match t.span with
  | some n => decide (off % 8 ≠ 0) || decide (n ≤ off)
  | none => false

/-- The code with which an access is refused whatever it would move, first match first (log entry 30): the entry must exist, the
path must have the right, and OFFSET must fit. -/
def State.refuses (s : State) (path : Nat) (write admitted : Bool) (i sub off : Nat) : Option Nat :=
  if s.chip.phase = .recovery && !recoveryKnows i then some codeState
  else
    match s.entry i sub with
    | none => some codeNoEntry
    | some e =>
      let r := rightOn path i e.right
      if write && !(r.writes && admitted) then some codeRight
      else if !write && !r.reads then some codeRight
      else if offsetBad e.ty off then some codeOffset
      else none

/-! ### Values (R385) -/

/-- OD 0x1012 (R444). -/
def parameters : List Nat :=
  [98304, 4096, 16384, 65536, 4, 128, 16, 48, 64, 64, 4, 256, 1024, 800000, 640000]

/-- Values of 0x1000 to 0x2FFF. -/
def State.valIdentity (s : State) (path i sub : Nat) : Nat :=
  let g := s.chip.grade
  match i with
  | 0x1000 => s.chip.stepping.toNat
  | 0x1002 => if sub = 1 then s.look.fwVersion.toNat else s.look.active
  | 0x1010 => nth 0 [g.code, g.folds, g.features, g.links, g.ports] (sub - 1)
  | 0x1011 => nth 0 [2, 1] (sub - 1)
  | 0x1012 => nth 0 parameters (sub - 1)
  | 0x1013 => if sub = 1 then s.chip.quadMap.toNat else 2 ^ g.links - 1
  | 0x1020 => nth 0 [s.chip.failedFolds.toNat, s.chip.dieTests.toNat, s.chip.repairs.toNat] (sub - 1)
  | 0x2000 => if sub = 1 then (s.statusOf path).toNat else (s.maskOf path).toNat
  | 0x2001 =>
    if sub = 1 then s.chip.fatal else if s.chip.fatal ≠ 0 then 2 else if s.chip.phase = .ready then 1 else 0
  | 0x2002 => ctrRead (peek 0 s.dict.setCount sub)
  | _ => 0

/-- The scheduler's state (OD 0x3000.01). -/
def State.scheduler (s : State) : Nat :=
  match s.job with
  | none => 0
  | some j => match j.phase with | .preempting => 2 | .restoring => 3 | _ => 1

/-- Values of a ring's entries (OD 0x3010+p, OD 0x3020). -/
def Ring.vals (r : Ring) (head tail : Nat) : List Nat := [r.base.toNat, r.size.toNat, b2n r.en, head, tail]

/-- Values of 0x3000 to 0x3FFF. -/
def State.valHost (s : State) (i sub : Nat) : Nat :=
  let h := s.host
  match i with
  | 0x3000 => nth 0 [s.scheduler, 0, match s.job with | some j => j.hdr.tag | none => 0] (sub - 1)
  | 0x3001 => if sub = 1 then h.heartbeat.toNat else ctrRead h.skipped
  | 0x3010 | 0x3011 | 0x3012 | 0x3013 =>
    nth 0 ((s.ring (i - 0x3010)).vals 0 (s.ring (i - 0x3010)).head.toNat) (sub - 1)
  | 0x3020 => nth 0 (h.comp.vals h.comp.head.toNat h.comp.tail.toNat) (sub - 1)
  | 0x3030 => if sub = 1 then ctrRead h.preempts else ctrRead h.resumes
  | 0x3040 => (peek 0 h.windows (sub - 1)).toNat
  | 0x3050 => nth 0 [h.pageTimeout.toNat, ctrRead h.pageReqs, ctrRead h.misses] (sub - 1)
  | 0x3060 =>
    nth 0 [s.chip.cause.toNat, b2n s.chip.ldownArm, 0, 0, 0, s.busyFolds.toNat, s.chip.blockReset.toNat, s.saved.length] (sub - 1)
  | _ => 0

/-- The stretched fold cycles counted since reset (OD 0x4020.01). -/
def State.stretches (s : State) : Nat := ctrAdd (peek 0 s.pow.overCtr 1) (sumNat (s.folds.map fun p => p.2.db.stretched))

/-- Values of 0x4000 to 0x5FFF; OD 0x4000.02 is a measurement, so it is a free value. -/
def State.valPower (s : State) (i sub : Nat) : Nat :=
  let m := s.msd
  if 0x4010 ≤ i ∧ i < 0x4018 then
    let u := s.quad (i - 0x4010)
    nth 0 [u.cap.toNat, wrap 32 u.floor, u.k, wrap 32 u.t, u.dpred, u.kTherm] (sub - 1)
  else
    match i with
    | 0x4000 => nth 0 [s.pow.pkgCap.toNat, s.free 32, (s.look.kept.spread.now 2).toNat] (sub - 1)
    | 0x4020 => ctrRead (if sub = 1 then s.stretches else peek 0 s.pow.overCtr sub)
    | 0x4030 => if sub = 1 then s.pow.warnJ.toNat else s.pow.warnM.toNat
    | 0x4040 => wrap 32 (nth 0 s.look.sensors (sub - 1))
    | 0x4041 => if sub ≤ s.chip.grade.ports then wrap 32 (nth 0 s.look.memTemps (sub - 1)) else 0
    | 0x5000 => nth 0 [s.chip.grade.ports, m.config, m.rawGiB, s.limit, (s.look.kept.rate.now 48).toNat, m.rate] (sub - 1)
    | 0x5001 => nth 0 [m.trainKind, b2n (s.look.kept.full.now false), m.trainMs] (sub - 1)
    | 0x5002 => nth 0 [ctrRead m.corrected, ctrRead m.uncorrected, m.threshold.toNat, ctrRead m.scrubPass] (sub - 1)
    | 0x5003 => ctrRead (peek Port.init m.ports (sub - 1)).corrected
    | 0x5004 => if sub = 1 then m.lastAddr else m.lastDetail
    | 0x5005 => if sub = 1 then ctrRead m.eccSingle else ctrRead m.eccDouble
    | _ => 0

/-- Links that the grade has. -/
def State.linkMask (s : State) : BitVec 32 := BitVec.ofNat 32 (2 ^ s.chip.grade.links - 1)

/-- Values of 0x6000 to 0x8FFF; links that the grade does not have read as disabled, with zero counters (R356). -/
def State.valRigging (s : State) (i sub : Nat) : Nat :=
  let r := s.rig
  if 0x6200 ≤ i ∧ i < 0x6240 then
    let t := peek Tree.init r.trees (i - 0x6200)
    nth 0 [t.children.toNat, t.parent.toNat, b2n t.loc, t.source.toNat] (sub - 1)
  else if 0x6400 ≤ i ∧ i < 0x6420 then
    let k := if i - 0x6400 < s.chip.grade.links then peek Link.init r.links (i - 0x6400) else Link.init
    nth 0 [k.st, ctrRead k.corrCw, ctrRead k.badCw, ctrRead k.replays, k.farNode, k.farLink] (sub - 1)
  else
    match i with
    | 0x6000 =>
      nth 0 [r.nodeId.toNat, (s.look.kept.node.now 0).toNat, b2n s.chip.rigged, r.epoch.toNat,
        (s.look.kept.links.now 0xFFFFFFFF &&& s.linkMask).toNat] (sub - 1)
    | 0x6001 => r.mgr.toNat
    | 0x6002 => if sub = 1 then r.treeLimit.toNat else r.stallLimit.toNat
    | 0x6010 => nth 0 [b2n r.abEn, r.abRoot.toNat, r.abTree.toNat] (sub - 1)
    | 0x6300 => (peek 0 r.groups (sub - 1)).toNat
    | 0x6500 => if sub = 1 then ctrRead r.dropped else ctrRead r.notices
    | 0x7000 => if sub = 1 then b2n s.dict.satFault else b2n s.dict.tallyHold
    | 0x7001 => ctrRead (peek 0 s.dict.checkCtr sub)
    | 0x7002 => ctrRead (peek 0 s.dict.checkCtr (4 + sub))
    | 0x7003 => s.host.lastSeq
    | 0x8010 => ctrRead (nth 0 [s.msd.specHit, s.msd.specMiss, s.msd.specDrop, s.msd.specErr] (sub - 1))
    | _ => 0

/-- Entries of the log that are held, oldest first (R485). -/
def Lookout.entries (x : Lookout) : List LogEnt := x.log ++ x.buf

/-- The 64 bytes of a log entry (R484). -/
def LogEnt.bytes (e : LogEnt) : List Byte :=
  sealed 0 (at_ 448 64 e.seq + at_ 440 8 e.epoch.toNat + at_ 392 48 e.time + at_ 384 8 e.cls + at_ 368 16 e.code +
    at_ 32 320 e.data)

/-- OD 0xA010+f.05: the address of the next bundle, valid in state 2 (R517); a fold that has run nothing since reset reads the default 0,
and any other as a free value (log entry 55). -/
def State.nextAddr (s : State) (f : Nat) : Nat :=
  let e := (s.fold f).ex
  if debugState s f = 2 then e.nextBundle else if e = Exec.init then 0 else s.free 16

/-- Values of 0x9000 to 0xBFFF. -/
def State.valSecurity (s : State) (i sub : Nat) : Nat :=
  let x := s.look
  if 0xA010 ≤ i ∧ i < 0xA030 then
    let f := i - 0xA010
    let e := (s.fold f).ex
    nth 0 [0, debugState s f, 0, 0, s.nextAddr f, e.cycle % 2 ^ 64,
           (s.fold f).db.brk.toNat] (sub - 1)
  else if 0xA200 ≤ i ∧ i < 0xA220 then (s.fold (i - 0xA200)).qu.pennant (sub - 1)
  else
    match i with
    | 0x9000 => if sub = 1 then b2n x.ident.provisioned else b2n x.keyOk
    | 0x9001 => x.chain.length
    | 0x9010 => nth 0 [x.active, 0, x.fwBytes, x.rollback, 0, x.fwState, x.fwResult, x.nextBoot] (sub - 1)
    | 0x9030 => b2n x.lock
    | 0xA000 =>
      let t := s.trace
      nth 0 [t.enable.toNat, t.folds.toNat, t.base.toNat, t.size.toNat, t.widx.toNat, t.ridx.toNat, b2n t.mode,
             ctrRead t.lost] (sub - 1)
    | 0xA300 => (s.gpnCopy (sub - 1)).toNat
    | 0xB000 =>
      nth 0 [(x.entries.getLast?.map LogEnt.seq).getD 0, (x.entries.head?.map LogEnt.seq).getD 0, x.cursor.toNat, 0,
             ctrRead x.logDropped] (sub - 1)
    | _ => 0

/-- The value of an entry that is neither STR nor DOMAIN; an I32 in 32 bits. -/
def State.value (s : State) (path i sub : Nat) : Nat :=
  if sub = 0 then (s.rows i).length
  else if i < 0x3000 then s.valIdentity path i sub
  else if i < 0x4000 then s.valHost i sub
  else if i < 0x6000 then s.valPower i sub
  else if i < 0x9000 then s.valRigging i sub
  else s.valSecurity i sub

/-- A value in a 64-bit data word (R385). -/
def dataWord (t : Ty) (v : Nat) : Nat := match t with | .i32 => wrap 64 (sext 32 v) | _ => v

/-- Bytes of the route table from offset `o` (R341). -/
def routeBytes (s : State) (o n : Nat) : List Byte :=
  padTo n (((List.range (ceilDiv n 4)).flatMap fun k =>
    leBytes 4 (peek 0 s.rig.route (o / 4 + k)).toNat).take (16384 - o))

/-- `n` bytes from offset `off` of a STR or DOMAIN entry; bytes beyond its end read as zero. -/
def State.bytesOf (s : State) (i sub off n : Nat) : List Byte :=
  let cut := fun (l : List Byte) => padTo n (l.drop off)
  match i with
  | 0x1000 => cut (ascii (if sub = 1 then "Hokuser" else "Glecy AK960"))
  | 0x1001 => cut s.chip.serial
  | 0x6100 => routeBytes s off n
  | 0x9001 => cut s.look.chain
  | 0xB000 =>
    cut (match s.look.entries.find? fun e => decide (e.seq = s.look.cursor.toNat) with
      | some e => e.bytes
      | none => [])
  | _ => readStateRun (s.fold (i - 0xA100)) sub off n

/-- An entry is read: the code, `n` bytes of data, and the state, whose free values the read may have used. A WO entry reads as 0 with
code 0x02 (R390). -/
def State.readEntry (s : State) (path i sub off n : Nat) : Nat × List Byte × State :=
  match s.refuses path false true i sub off, s.entry i sub with
  | some c, some e => (c, if e.right = .wo then leBytes n 0 else [], s)
  | some c, none => (c, [], s)
  | none, some e =>
    if s.shut i then (codeState, [], s)
    else if e.ty.span.isSome then (0, s.bytesOf i sub off n, s.used)
    else (0, leBytes n (dataWord e.ty (s.value path i sub)), s.used)
  | none, none => (codeNoEntry, [], s)

end Sys2Proof.Machine
end

