-- ==== Sys2Proof/Machine/DictWrite.lean ====
section
/-! DEFINITION. What a write of a dictionary entry does (R386, R387, R496) and firmware update (R489, R490). -/
namespace Sys2Proof.Machine

/-- What a write answers: a result code that refuses it, or the state after it. -/
abbrev Wr := Except Nat State

/-- The data word holds a value of the type (R386). -/
def Ty.fits (t : Ty) (v : Nat) : Bool :=
  match t with
  | .u8 => decide (v < 2 ^ 8)
  | .u16 => decide (v < 2 ^ 16)
  | .u32 => decide (v < 2 ^ 32)
  | .u64 => decide (v < 2 ^ 64)
  | .i32 => decide (v = wrap 64 (sext 32 v))
  | .bool => decide (v < 2)
  | .str | .domain _ => true

/-- A power of two between two bounds. -/
def pow2In (lo hi v : Nat) : Bool := decide (lo ≤ v) && decide (v ≤ hi) && decide (popCount v 33 = 1)

/-- Refuses with a code when a condition holds. -/
def guardWr (bad : Bool) (code : Nat) (k : Wr) : Wr := if bad then .error code else k

/-! ### 0x2000 and 0x7000 (R177, R182, R404, R406) -/

def writeStatus (path i sub v : Nat) (s : State) : Wr :=
  match i, sub with
  | 0x2000, 2 => .ok (clearStatus path (BitVec.ofNat 16 v) s)
  | 0x2000, 3 => .ok { s with dict := { s.dict with
      attMask := put 0x7FE0 s.dict.attMask path (BitVec.ofNat 16 v &&& 0x7FE0) } }
  | 0x7000, 1 => .ok { s with dict := { s.dict with satFault := decide (v = 1) } }
  | 0x7000, 2 => .ok { s with dict := { s.dict with tallyHold := decide (v = 1) } }
  | _, _ => .error codeNoEntry

/-! ### 0x3000 (R360, R366-R368, R378, R382, R383, R478) -/

/-- Sizes that R382 allows a ring. -/
def ringSizeOk (v : Nat) : Bool := pow2In 16 65536 v

/-- A ring of `n` records of `w` bytes at `base` in device memory extends beyond the limit (R366, R378). -/
def ringBeyond (s : State) (base w n : Nat) : Bool := !isHost base && decide (s.limit < base + w * n)

/-- Base, size or enable of a ring; `idle` says that base and size may be written. -/
def ringWrite (align w : Nat) (idle : Bool) (sub v : Nat) (s : State) (r : Ring) : Except Nat Ring :=
  match sub with
  | 1 =>
    if !idle then .error codeState
    else if v % align ≠ 0 || ringBeyond s v w r.size.toNat then .error codeRange
    else .ok { r with base := BitVec.ofNat 64 v }
  | 2 =>
    if !idle then .error codeState
    else if !ringSizeOk v || ringBeyond s r.base.toNat w v then .error codeRange
    else .ok { r with size := BitVec.ofNat 32 v }
  | _ => if v = 1 && !ringSizeOk r.size.toNat then .error codeState else .ok { r with en := decide (v = 1) }

/-- Difference of two free-running indices. -/
def ringDiff (a b : Nat) : Nat := (a + 2 ^ 32 - b) % 2 ^ 32

/-- The doorbell of ring `p` is refused (R368). -/
def bellRefused (r : Ring) (v : Nat) : Bool :=
  !r.en || decide (r.size.toNat < ringDiff v r.head.toNat) || decide (r.size.toNat < ringDiff v r.tail.toNat)

/-- A coherent window's entry (R360). -/
def writeWindow (n v : Nat) (s : State) : Wr :=
  guardWr (s.job.isSome || !s.saved.isEmpty) codeState
    (guardWr (bitOf v 0 && decide (fld v 6 29 = 0)) codeRange
      (.ok { s with host := { s.host with windows := put 0 s.host.windows n (BitVec.ofNat 64 v &&& 0xFFFFFFFFFFFFFFC1) } }))

/-- Folds named by a block-level reset of quads. -/
def writeQuadReset (v : Nat) (s : State) : Wr :=
  guardWr (blockRefused (quadFolds v) s) codeState
    (guardWr (decide (2 ^ s.chip.grade.quads ≤ v)) codeRange
      (.ok ((setBits v 8).foldl (fun t q => resetGovernor q t) (beginBlock (quadFolds v) s))))

/-- Folds named by a block-level reset of folds. -/
def writeFoldReset (v : Nat) (s : State) : Wr :=
  guardWr (blockRefused v s) codeState
    (guardWr (decide (2 ^ s.chip.grade.folds ≤ v)) codeRange (.ok (beginBlock v s)))

/-- Writes of 0x3000 to 0x3FFF; a refused doorbell is logged (R368). -/
def writeHost (path i sub v : Nat) (s : State) : Wr :=
  let h := s.host
  match i, sub with
  | 0x3000, _ => .ok (abortTag path v s)
  | 0x3001, _ => guardWr (decide (1 ≤ v) && decide (v < 100)) codeRange (.ok { s with host := { h with heartbeat := BitVec.ofNat 32 v } })
  | 0x3020, 4 =>
    guardWr (decide (ringDiff h.comp.tail.toNat h.comp.head.toNat < ringDiff v h.comp.head.toNat)) codeRange
      (.ok { s with host := { h with comp := { h.comp with head := BitVec.ofNat 32 v } } })
  | 0x3020, _ => (ringWrite 64 64 (!h.comp.en) sub v s h.comp).map fun r => { s with host := { h with comp := r } }
  | 0x3040, _ => writeWindow (sub - 1) v s
  | 0x3050, _ => .ok { s with host := { h with pageTimeout := BitVec.ofNat 32 v } }
  | 0x3060, 2 => .ok { s with chip := { s.chip with ldownArm := decide (v = 1) } }
  | 0x3060, 3 => guardWr (decide (v ≠ 0x5A)) codeRange (.ok (takeReset srcCommand s))
  | 0x3060, 4 => writeFoldReset v s
  | 0x3060, 5 => writeQuadReset v s
  | _, 4 =>
    let p := i - 0x3010
    guardWr (bellRefused (s.ring p) v) codeState (.ok (s.setRing p { s.ring p with tail := BitVec.ofNat 32 v }))
  | _, _ =>
    let p := i - 0x3010
    let r := s.ring p
    (ringWrite 512 128 (!r.en && decide (r.head = r.tail)) sub v s r).map fun r => s.dropStart.setRing p r

/-! ### 0x4000 and 0x5000 (R331, R454-R461) -/

/-- A new warning limit can begin to hold THERM (R403, R458). -/
def writeWarn (p : Power) (s : State) : Wr := .ok (noteWarm s.warm { s with pow := p })

/-- Trim floors that R456 allows. -/
def floorOk (v : Int) : Bool := decide (-30 ≤ v) && decide (v ≤ 20) && decide (v % 5 = 0)

def writePower (i sub v : Nat) (s : State) : Wr :=
  if 0x4010 ≤ i ∧ i < 0x4018 then
    let q := i - 0x4010
    let u := s.quad q
    if sub = 1 then
      guardWr (decide (v < 14) || decide (56 < v)) codeRange (.ok (s.setQuad q { u with cap := BitVec.ofNat 8 v }))
    else guardWr (!floorOk (sext 64 v)) codeRange (.ok (s.setQuad q { u with floor := sext 64 v }))
  else
    match i, sub with
    | 0x4000, 1 =>
      guardWr (decide (v < 424) || decide (760 < v)) codeRange (.ok { s with pow := { s.pow with pkgCap := BitVec.ofNat 16 v } })
    | 0x4000, _ => guardWr (decide (2 < v)) codeRange (.ok (s.keep fun k => { k with spread := k.spread.write (BitVec.ofNat 8 v) }))
    | 0x4030, 1 => guardWr (decide (v < 80) || decide (100 < v)) codeRange (writeWarn { s.pow with warnJ := BitVec.ofNat 8 v } s)
    | 0x4030, _ => guardWr (decide (v < 70) || decide (95 < v)) codeRange (writeWarn { s.pow with warnM := BitVec.ofNat 8 v } s)
    | 0x5000, _ =>
      guardWr (!([32, 40, 48].contains v)) codeRange (.ok (s.keep fun k => { k with rate := k.rate.write (BitVec.ofNat 8 v) }))
    | 0x5001, _ => .ok (s.keep fun k => { k with full := k.full.write (decide (v = 1)) })
    | 0x5002, _ => .ok { s with msd := { s.msd with threshold := BitVec.ofNat 32 v } }
    | _, _ => .error codeNoEntry

/-! ### 0x6000 (R341, R347, R350, R352, R356) -/

/-- Bits of SOURCE that the manual names; the others are reserved and read as zero (R347). -/
def sourceMask : BitVec 16 := 0x83EF

def writeTree (t sub v : Nat) (s : State) : State :=
  let e := peek Tree.init s.rig.trees t
  let e := match sub with
    | 1 => { e with children := BitVec.ofNat 32 v }
    | 2 => { e with parent := BitVec.ofNat 8 v }
    | 3 => { e with loc := decide (v = 1) }
    | _ => { e with source := BitVec.ofNat 16 v &&& sourceMask }
  { s with rig := { s.rig with trees := put Tree.init s.rig.trees t e } }

def writeRigging (i sub v : Nat) (s : State) : Wr :=
  let r := s.rig
  if 0x6200 ≤ i ∧ i < 0x6240 then .ok (writeTree (i - 0x6200) sub v s)
  else
    match i, sub with
    | 0x6000, 2 => guardWr (decide (4096 ≤ v)) codeRange (.ok (s.keep fun k => { k with node := k.node.write (BitVec.ofNat 12 v) }))
    | 0x6000, _ => .ok (s.keep fun k => { k with links := k.links.write (BitVec.ofNat 32 v &&& s.linkMask) })
    | 0x6001, _ => .ok { s with rig := { r with mgr := BitVec.ofNat 16 v } }
    | 0x6002, 1 => .ok { s with rig := { r with treeLimit := BitVec.ofNat 32 v } }
    | 0x6002, _ => .ok { s with rig := { r with stallLimit := BitVec.ofNat 32 v } }
    | 0x6010, 1 => .ok { s with rig := { r with abEn := decide (v = 1) } }
    | 0x6010, 2 => .ok { s with rig := { r with abRoot := BitVec.ofNat 16 v } }
    | 0x6010, _ => .ok { s with rig := { r with abTree := BitVec.ofNat 8 v } }
    | 0x6300, _ => .ok { s with rig := { r with groups := put 0 r.groups (sub - 1) (BitVec.ofNat 32 v &&& 0xFFFFE000) } }
    | _, _ => .error codeNoEntry

/-- A write of the route table from offset `off` (R341); a newly routable node gets its reset notice (R343). A piece of fewer than four
bytes keeps the entry's other bytes. -/
def writeRoutes (off : Nat) (data : List Byte) (s : State) : State :=
  let one := fun (m : List (Nat × BitVec 32)) (e : Nat × List Byte) =>
    let n := off / 4 + e.1
    if n < 4096 then
      let old := leBytes 4 (peek 0 m n).toNat
      put 0 m n (BitVec.ofNat 32 (leNat (e.2 ++ old.drop e.2.length)) &&& 0xFFFFC000)
    else m
  State.sendNotices { s with rig := { s.rig with route := (enumFrom 0 (pieces 4 data)).foldl one s.rig.route } }

/-! ### 0x9000 and 0xB000 (R489, R490, R496, R498) -/

/-- The inactive slot holds no valid image, and the session ends (R490). -/
def Lookout.closeSession (x : Lookout) (st : Nat) : Lookout := { x with session := none, fwState := st, fwBuf := [] }

/-- Bytes that the two buffers hold (R490). -/
def fwRoom : Nat := 131072

/-- A write of the inactive slot (R490); the first at OFFSET 0 opens a session and erases the slot. One after a verify leaves a slot that is
no longer the verified one (log entry 113). -/
def writeImage (path off : Nat) (data : List Byte) (s : State) : Wr :=
  let x := s.look
  let take := fun (y : Lookout) =>
    let l := (enumFrom off data).filter fun b => decide (b.1 < 4194304)
    if fwRoom < y.fwBuf.length + l.length then Except.error codeState
    else .ok { s with look := { y with fwBuf := y.fwBuf ++ l, fwBytes := y.fwBytes + l.length } }
  match x.session with
  | some p => if p = path then take { x with fwState := 1 } else .error codeState
  | none =>
    if off = 0 ∧ [0, 4, 5].contains x.fwState then
      take { x.setImage (1 - x.active) [] with session := some path, fwState := 1, fwBytes := 0, fwBuf := [] }
    else .error codeState

/-- Command 0x01: the slot is programmed and verified (R490). -/
def verifyImage (s : State) : State :=
  let x := program (fun _ => true) s.look
  let r := x.verify (1 - x.active)
  if r = 0 then { s with look := { x with fwResult := r, fwState := 3 } }
  else secEvent { s with look := { x.closeSession 5 with fwResult := r } }

/-- The rollback count that a commit burns up to: 63 fuse bits (R489). -/
def Lookout.committed (x : Lookout) : Nat := min 63 (max x.rollback x.svn)

/-- A commit (R489, R490). Path H's command has waited for the lookout while it burnt the bits; that of another path burns them from now on
(log entry 115). -/
def commit (path : Nat) (s : State) : State :=
  let x := s.look
  { s with look := if path = pathH then { x with rollback := x.committed } else { x with burn := some x.committed } }

/-- A command of OD 0x9010.05 (R489, R490): while a session is open, every write of another path is refused. -/
def writeCommand (path v : Nat) (s : State) : Wr :=
  let x := s.look
  let mine := decide (x.session = some path)
  guardWr (x.session.isSome && !mine) codeState <|
  match v with
  | 1 => guardWr (!mine) codeState (.ok (verifyImage s))
  | 2 =>
    guardWr (!(mine && decide (x.fwState = 3))) codeState
      (.ok { s with look := { x.closeSession 4 with nextBoot := 1 - x.active } })
  | 3 => guardWr (!mine) codeState (.ok { s with look := (x.setImage (1 - x.active) []).closeSession 0 })
  | 4 => guardWr x.session.isSome codeState (.ok (commit path s))
  | _ => .error codeRange

def writeSecurity (path i sub v : Nat) (s : State) : Wr :=
  match i, sub with
  | 0x9010, _ => writeCommand path v s
  | 0x9030, _ => .ok { s with look := { s.look with lock := s.look.lock || decide (v = 1) } }
  | 0xB000, _ => .ok { s with look := { s.look with cursor := BitVec.ofNat 64 v } }
  | _, _ => .error codeNoEntry

/-! ### 0xA000 (R308, R517, R528) -/

/-- The buffer extends beyond the device address limit (R528). -/
def traceBeyond (s : State) (base size : Nat) : Bool := decide (s.limit < base + 32 * size)

def writeTrace (sub v : Nat) (s : State) : Wr :=
  let t := s.trace
  let on := decide (t.enable ≠ 0)
  match sub with
  | 1 => .ok { s with trace := { t with enable := BitVec.ofNat 32 v &&& 0x1FFE } }
  | 2 => .ok { s with trace := { t with folds := BitVec.ofNat 32 v } }
  | 3 =>
    guardWr on codeState (guardWr (decide (v % 4096 ≠ 0) || traceBeyond s v t.size.toNat) codeRange
      (.ok { s with trace := { t with base := BitVec.ofNat 64 v } }))
  | 4 =>
    guardWr on codeState (guardWr (!pow2In 1024 (2 ^ 26) v || traceBeyond s t.base.toNat v) codeRange
      (.ok { s with trace := { t with size := BitVec.ofNat 32 v } }))
  | 6 => .ok { s with trace := { t with ridx := BitVec.ofNat 32 v } }
  | _ => guardWr on codeState (guardWr (decide (1 < v)) codeRange (.ok { s with trace := { t with mode := decide (v = 1) } }))

/-- Fold control (R517). -/
def writeControl (f sub v : Nat) (s : State) : Wr :=
  match sub with
  | 1 => guardWr (decide (v ≠ 1) && decide (v ≠ 2)) codeRange (.ok (haltFold f (decide (v = 2)) s))
  | 3 =>
    guardWr (decide (debugState s f ≠ 2)) codeState
      (guardWr (decide (v = 0) || decide (4096 < v)) codeRange (.ok (stepFold f v s)))
  | 4 => .ok (if v = 1 then resumeFold f s else s)
  | _ => .ok (s.onFold f fun x => { x with db := { x.db with brk := BitVec.ofNat 16 v &&& 0x8FFF } })

def writeDebug (path i sub v : Nat) (s : State) : Wr :=
  if 0xA010 ≤ i ∧ i < 0xA030 then writeControl (i - 0xA010) sub v s
  else if 0xA200 ≤ i ∧ i < 0xA220 then .ok (setPennant path (i - 0xA200) (sub - 1) (BitVec.ofNat 16 v) s)
  else if i = 0xA300 then .ok (setGlobal path (sub - 1) (BitVec.ofNat 16 v) s)
  else writeTrace sub v s

/-! ### Every entry -/

/-- A write of an entry that is neither STR nor DOMAIN. -/
def writeValue (path i sub v : Nat) (s : State) : Wr :=
  if i < 0x3000 then writeStatus path i sub v s
  else if i < 0x4000 then writeHost path i sub v s
  else if i < 0x6000 then writePower i sub v s
  else if i < 0x7000 then writeRigging i sub v s
  else if i < 0x8000 then writeStatus path i sub v s
  else if 0xA000 ≤ i ∧ i < 0xB000 then writeDebug path i sub v s
  else writeSecurity path i sub v s

/-- A write of a DOMAIN entry. -/
def writeDomain (path i sub off : Nat) (data : List Byte) (s : State) : Wr :=
  if i = 0x6100 then .ok (writeRoutes off data s)
  else if i = 0x9010 then writeImage path off data s
  else .ok (debugWrite path (i - 0xA100) sub off data s)

/-- Entries that the lock covers (R496). -/
def lockCovers (path i sub : Nat) : Bool :=
  (decide (i = 0x6000) && (decide (sub = 2) || decide (sub = 5))) || decide (i = 0x6001) || decide (i = 0x6010) ||
    decide (i = 0x6100) || (decide (0x6200 ≤ i) && decide (i < 0x6240)) || decide (i = 0x6300) ||
    (decide (path = pathF) && ((decide (i = 0x9010) && (decide (sub = 2) || decide (sub = 5))) ||
      (decide (0xA000 ≤ i) && decide (i < 0xB000))))

/-- The lock refuses a write of value `v` (R496). -/
def State.lockRefuses (s : State) (path i sub v : Nat) : Bool :=
  s.look.lock && (lockCovers path i sub || (decide (i = 0x9030) && decide (v = 0)))

/-- The value that written bytes give a scalar entry; an I32 of fewer than eight bytes is sign-extended. -/
def valueOf (t : Ty) (data : List Byte) : Nat :=
  match t with
  | .i32 => if data.length < 8 then wrap 64 (sext (8 * data.length) (leNat data)) else leNat data
  | _ => leNat data

/-- What the entry itself does with a write. -/
def storeEntry (path i sub off : Nat) (t : Ty) (data : List Byte) (s : State) : Wr :=
  match t with
  | .domain _ => writeDomain path i sub off data s
  | _ => writeValue path i sub (valueOf t data) s

/-- A refused doorbell is logged (R368). -/
def logRefusal (i sub code : Nat) (s : State) : State :=
  if 0x3010 ≤ i ∧ i < 0x3014 ∧ sub = 4 ∧ code = codeState then logFree 9 s else s

/-- A write that has passed the checks of every access is performed: the code and the state (R391, R496, R525). -/
def State.perform (s : State) (path i sub off : Nat) (t : Ty) (data : List Byte) : Nat × State :=
  if s.lockRefuses path i sub (valueOf t data) then (codeLocked, secEvent s)
  else if s.shut i then (codeState, s)
  else
    match storeEntry path i sub off t data (closeRun path i sub off s) with
    | .ok u => (0, u)
    | .error c => (c, logRefusal i sub c s)

/-- The code with which a write is refused before it can be performed (R386, R391). -/
def State.refusesWrite (s : State) (path : Nat) (admitted : Bool) (i sub off : Nat) (data : List Byte) : Option Nat :=
  match s.refuses path true admitted i sub off with
  | some c => some c
  | none =>
    match s.entry i sub with
    | some e => if e.ty.fits (valueOf e.ty data) then none else some codeRange
    | none => some codeNoEntry

/-- An entry is written: the code and the state. -/
def State.writeEntry (s : State) (path : Nat) (admitted : Bool) (i sub off : Nat) (data : List Byte) : Nat × State :=
  match s.refusesWrite path admitted i sub off data, s.entry i sub with
  | some c, _ => (c, s)
  | none, some e => s.perform path i sub off e.ty data
  | none, none => (codeNoEntry, s)

end Sys2Proof.Machine
end

