-- ==== Sys2Proof/Machine/Dict.lean ====
section
/-! DEFINITION. The three access paths of the dictionary (R353, R354, R392-R400), and the commands that are accesses to entries with
rows of their own. -/
namespace Sys2Proof.Machine

/-! ### Path H: the window (R392-R396) -/

def State.slotOf (s : State) (n : Nat) : Slot := peek Slot.init s.dict.slots n
def State.setSlot (s : State) (n : Nat) (u : Slot) : State :=
  { s with dict := { s.dict with slots := put Slot.init s.dict.slots n u } }

def Slot.index (u : Slot) : Nat := fld u.sel.toNat 48 16
def Slot.sub (u : Slot) : Nat := fld u.sel.toNat 40 8
def Slot.offset (u : Slot) : Nat := fld u.sel.toNat 8 32

/-- SEL for an entry and an OFFSET (R393). -/
def selOf (i sub off : Nat) : BitVec 64 := BitVec.ofNat 64 (at_ 48 16 i + at_ 40 8 sub + at_ 8 32 off)

/-- OFFSET advances by 8 (R393). -/
def Slot.advance (u : Slot) : Slot := { u with sel := selOf u.index u.sub (u.offset + 8) }

/-- The selected entry is STR or DOMAIN. -/
def State.blockEntry (s : State) (i sub : Nat) : Bool := match s.entry i sub with | some e => e.ty.span.isSome | none => false

/-- An access of slot `n` ends with code `c` (R394): a reset that it raised has cleared the slot. OFFSET advances when data of a STR or
DOMAIN entry has moved. -/
def endAccess (n c : Nat) (moved : Bool) (g : Slot → Slot) (s : State) : State :=
  if s.chip.phase = .held then s
  else
    let u := g (s.slotOf n)
    let u := if moved && decide (c = 0) then u.advance else u
    s.setSlot n { u with code := BitVec.ofNat 8 c, status := s.statusOf pathH }

/-- A write of SEL (R393, R395). -/
def writeSel (n : Nat) (v : BitVec 64) (s : State) : State :=
  s.setSlot n { s.slotOf n with sel := v &&& 0xFFFFFFFFFFFFFF00 }

/-- A write of WDATA (R395, R396): performed, refused, or accepted for the lookout to perform; discarded while one waits. -/
def writeData (n : Nat) (v : DWord) (s : State) : State :=
  let u := s.slotOf n
  if u.wait.isSome then s
  else
    let data := leBytes 8 v.toNat
    let moved := s.blockEntry u.index u.sub
    match s.refusesWrite pathH true u.index u.sub u.offset data, s.entry u.index u.sub with
    | some c, _ => endAccess n c false id s
    | none, some e =>
      if lookoutKeeps u.index u.sub then
        endAccess n codePending false (fun x => { x with wait := some (u.index, u.sub, u.offset, v.toNat) }) s
      else
        let r := s.perform pathH u.index u.sub u.offset e.ty data
        endAccess n r.1 moved id r.2
    | none, none => s

/-- Bytes that a write of `data` at window offset `o` carries for the eight bytes from `a`: position and byte. -/
def carried (o : Nat) (data : List Byte) (a : Nat) : List (Nat × Byte) :=
  ((enumFrom o data).filter fun e => decide (a ≤ e.1) && decide (e.1 < a + 8)).map fun e => (e.1 - a, e.2)

/-- One register of the window, the eight bytes from `a`, receives what a write carries for it (R392, R395). -/
def writeReg (o : Nat) (data : List Byte) (s : State) (a : Nat) : State :=
  let l := carried o data a
  let n := (a - 0x1000) / 32
  if a < 0x1000 || 0x3000 ≤ a || l.isEmpty then s
  else
    match a % 32 with
    | 0 =>
      let old := leBytes 8 (s.slotOf n).sel.toNat
      writeSel n (BitVec.ofNat 64 (leNat (l.foldl (fun m e => setNth m e.1 e.2) old))) s
    | 8 => if l.length = 8 then writeData n (BitVec.ofNat 64 (leNat (l.map (·.2)))) s else s
    | _ => s

/-- DICT_WRITE (R387, R392, R395): a host write of bytes at an offset of BAR0, for the entries that have no row of their own. -/
def execDictWrite (offset : BitVec 24) (data : List Byte) (s : State) : Res :=
  let o := offset.toNat
  whileClocked s (if s.chip.cxlUp then
      ((List.range (data.length / 8 + 2)).map fun i => o / 8 * 8 + 8 * i).foldl (writeReg o data) s
    else s)

/-- A read that includes RDATA of slot `n` reads the entry that SEL selects; while a write waits in the slot it is not performed (R395,
R396). -/
def readSlot (n : Nat) (s : State) : State :=
  let u := s.slotOf n
  if u.wait.isSome then s.setSlot n { u with rdata := 0, ans := BitVec.ofNat 8 codeBusy }
  else
    let r := s.readEntry pathH u.index u.sub u.offset 8
    endAccess n r.1 (s.blockEntry u.index u.sub)
      (fun x => { x with rdata := BitVec.ofNat 64 (leNat r.2.1), ans := BitVec.ofNat 8 r.1 }) r.2.2

/-- RESULT as a read returns it (R394): that of the RDATA read by the same access, or of the slot's last access. -/
def Slot.result (u : Slot) (same : Bool) : List Byte := leBytes 8 (at_ 16 8 (if same then u.ans else u.code).toNat + at_ 0 16 u.status.toNat)

/-- One register of the window, the eight bytes from `a`, is read (R392, R395); `same` says that the read includes the register before. -/
def readReg (same : Bool) (s : State) (a : Nat) : List Byte × State :=
  let n := (a - 0x1000) / 32
  if a = 0 then (leBytes 8 (s.statusOf pathH).toNat, s)
  else if a < 0x1000 || 0x3000 ≤ a then (leBytes 8 0, s)
  else
    match a % 32 with
    | 0 => (leBytes 8 (s.slotOf n).sel.toNat, s)
    | 16 => let t := readSlot n s; (leBytes 8 (t.slotOf n).rdata.toNat, t)
    | 24 => ((s.slotOf n).result same, s)
    | _ => (leBytes 8 0, s)

/-- DICT_READ (R392, R395, R396): a host read of the dictionary window. -/
def execDictRead (r : WinRead) (s : State) : Res :=
  let o := r.offset.toNat
  let len := r.len
  let lo := o / 8 * 8
  let regs := if len = 0 then [] else (List.range ((o + len.toNat + 7) / 8 - o / 8)).map fun i => lo + 8 * i
  whileClocked s (if s.chip.cxlUp then
      let r := regs.foldl (fun (a : List Byte × State) b =>
        let v := readReg (decide (lo < b)) a.2 b
        (a.1 ++ v.1, v.2)) ([], s)
      { r.2 with dict := { r.2.dict with winOut := (r.1.drop (o % 8)).take len.toNat } }
    else s)

/-- LOOKOUT_WRITE_COMPLETE (R396): the lookout performs the write that a slot holds. -/
def execLookoutWriteComplete (slot : BitVec 8) (s : State) : Res :=
  let n := slot.toNat
  .next (match (s.slotOf n).wait with
    | none => s
    | some (i, sub, off, v) =>
      match s.entry i sub with
      | none => s
      | some e =>
        let r := s.perform pathH i sub off e.ty (leBytes 8 v)
        endAccess n r.1 (s.blockEntry i sub) (fun x => { x with wait := none }) r.2)

/-- The host selects an entry in slot `n` and writes its data word (R395). -/
def hostWrite (n i sub off : Nat) (v : DWord) (s : State) : State :=
  if s.chip.cxlUp then writeData n v (writeSel n (selOf i sub off) s) else s

/-! ### Accesses that have rows of their own -/

/-- DOORBELL (R368). -/
def execDoorbell (slot : BitVec 8) (ring : BitVec 2) (value : DWord) (s : State) : Res :=
  whileClocked s (hostWrite slot.toNat (0x3010 + ring.toNat) 4 0 value s)

/-- HOST_ABORT (R383). -/
def execHostAbort (slot : BitVec 8) (value : DWord) (s : State) : Res := whileClocked s (hostWrite slot.toNat 0x3000 2 0 value s)

/-- STATUS_CLEAR (R404). -/
def execStatusClear (slot : BitVec 8) (value : DWord) (s : State) : Res := whileClocked s (hostWrite slot.toNat 0x2000 2 0 value s)

/-- SUBMISSION_RING_CONFIG (R366). -/
def execSubmissionRingConfig (slot : BitVec 8) (ring : BitVec 2) (sub : BitVec 8) (value : DWord) (s : State) : Res :=
  whileClocked s (hostWrite slot.toNat (0x3010 + ring.toNat) sub.toNat 0 value s)

/-- COMPLETION_RING_CONFIG (R378). -/
def execCompletionRingConfig (slot : BitVec 8) (sub : BitVec 8) (value : DWord) (s : State) : Res :=
  whileClocked s (hostWrite slot.toNat 0x3020 sub.toNat 0 value s)

/-- COMPLETION_RING_HEAD (R378). -/
def execCompletionRingHead (slot : BitVec 8) (value : DWord) (s : State) : Res :=
  whileClocked s (hostWrite slot.toNat 0x3020 4 0 value s)

/-- COHERENT_WINDOW_WRITE (R360). -/
def execCoherentWindowWrite (slot : BitVec 8) (n : BitVec 4) (value : DWord) (s : State) : Res :=
  whileClocked s (hostWrite slot.toNat 0x3040 (n.toNat + 1) 0 value s)

/-- ROUTE_TABLE_WRITE (R341, R343). -/
def execRouteTableWrite (slot : BitVec 8) (offset : BitVec 32) (value : DWord) (s : State) : Res :=
  whileClocked s (hostWrite slot.toNat 0x6100 1 offset.toNat value s)

/-- FIRMWARE_SLOT_WRITE (R396, R490). -/
def execFirmwareSlotWrite (slot : BitVec 8) (offset : BitVec 32) (value : DWord) (s : State) : Res :=
  whileClocked s (hostWrite slot.toNat 0x9010 2 offset.toNat value s)

/-- FIRMWARE_VERIFY (R396, R490): command 0x01. -/
def execFirmwareVerify (slot : BitVec 8) (s : State) : Res := whileClocked s (hostWrite slot.toNat 0x9010 5 0 1 s)

/-- FIRMWARE_ACTIVATE (R396, R490): command 0x02. -/
def execFirmwareActivate (slot : BitVec 8) (s : State) : Res := whileClocked s (hostWrite slot.toNat 0x9010 5 0 2 s)

/-- FIRMWARE_ABORT (R396, R490): command 0x03. -/
def execFirmwareAbort (slot : BitVec 8) (s : State) : Res := whileClocked s (hostWrite slot.toNat 0x9010 5 0 3 s)

/-- FIRMWARE_COMMIT (R396, R489, R490): command 0x04. -/
def execFirmwareCommit (slot : BitVec 8) (s : State) : Res := whileClocked s (hostWrite slot.toNat 0x9010 5 0 4 s)

/-- SECURITY_LOCK (R396, R496). -/
def execSecurityLock (slot : BitVec 8) (s : State) : Res := whileClocked s (hostWrite slot.toNat 0x9030 1 0 1 s)

/-- HALT_EXECUTE (R517): value 1. -/
def execHaltExecute (slot : BitVec 8) (f : FoldId) (s : State) : Res :=
  whileClocked s (hostWrite slot.toNat (0xA010 + f.toNat) 1 0 1 s)

/-- HALT_ALL (R517): value 2. -/
def execHaltAll (slot : BitVec 8) (f : FoldId) (s : State) : Res :=
  whileClocked s (hostWrite slot.toNat (0xA010 + f.toNat) 1 0 2 s)

/-- DEBUG_STEP (R517). -/
def execDebugStep (slot : BitVec 8) (f : FoldId) (n : DWord) (s : State) : Res :=
  whileClocked s (hostWrite slot.toNat (0xA010 + f.toNat) 3 0 n s)

/-- DEBUG_RESUME (R517). -/
def execDebugResume (slot : BitVec 8) (f : FoldId) (s : State) : Res :=
  whileClocked s (hostWrite slot.toNat (0xA010 + f.toNat) 4 0 1 s)

/-- FOLD_STATE_WRITE (R522-R525). -/
def execFoldStateWrite (slot : BitVec 8) (f : FoldId) (sub : BitVec 8) (offset : BitVec 32) (value : DWord) (s : State) : Res :=
  whileClocked s (hostWrite slot.toNat (0xA100 + f.toNat) sub.toNat offset.toNat value s)

/-- Index and subindex of a pennant (R522). -/
def pnEntry (t : PnTarget) : Nat × Nat :=
  match t with
  | .pennant f pn => (0xA200 + f.toNat, pn.toNat + 1)
  | .global g => (0xA300, g.toNat + 1)

/-- PENNANT_WRITE (R308, R309). -/
def execPennantWrite (slot : BitVec 8) (t : PnTarget) (value : DWord) (s : State) : Res :=
  whileClocked s (hostWrite slot.toNat (pnEntry t).1 (pnEntry t).2 0 value s)

/-- DEVICE_RESET_COMMAND (R462, R478): 0x5A to OD 0x3060.03. -/
def execDeviceResetCommand (slot : BitVec 8) (s : State) : Res := whileClocked s (hostWrite slot.toNat 0x3060 3 0 0x5A s)

/-- FOLD_BLOCK_RESET (R475, R476). -/
def execFoldBlockReset (slot : BitVec 8) (value : DWord) (s : State) : Res := whileClocked s (hostWrite slot.toNat 0x3060 4 0 value s)

/-- QUAD_BLOCK_RESET (R475, R476). -/
def execQuadBlockReset (slot : BitVec 8) (value : DWord) (s : State) : Res := whileClocked s (hostWrite slot.toNat 0x3060 5 0 value s)

/-! ### Path F (R353, R354, R389, R397) -/

/-- One access of path F or M: the code, the data read and the state. -/
def segment (path : Nat) (admitted write : Bool) (i sub off len : Nat) (data : List Byte) (s : State) : Nat × List Byte × State :=
  if write then
    let r := s.writeEntry path admitted i sub off (padTo len data)
    (r.1, [], r.2)
  else s.readEntry path i sub off len

/-- Path F writes come from the manager node, or from any while none is named (R354). -/
def State.admits (s : State) (node : Nat) : Bool := decide (s.rig.mgr = 0xFFFF) || decide (s.rig.mgr.toNat = node)

/-- The replies kept: the last 16 of each source node (R354). -/
def keepReply (r : MgReply) (l : List MgReply) : List MgReply :=
  let mine := l.filter fun q => decide (q.node = r.node)
  match mine with
  | [] => l ++ [r]
  | old :: _ => if mine.length < 16 then l ++ [r] else (l.erase old) ++ [r]

/-- A reply leaves for the requester (R354, R397): that to a directed request on the link on which the request came (R353). -/
def sendReply (r : MgReply) (s : State) : State :=
  let fl := s.flit r.node clsMG 0 0 (.reply r)
  match r.back with
  | some l => s.sendLink l fl
  | none => s.sendFlit fl 0

/-- A directed request has hops left: it goes on at link HOPS[hop] (R353), and its way is kept for the reply. One whose hop is a link that
the grade does not have is answered with result code 0x01 (R442, log entry 107). -/
def passOn (r : MgReq) (out : BitVec 5) (s : State) : State :=
  let n := r.h.src.toNat
  if s.chip.grade.links ≤ out.toNat then
    sendReply { node := n, back := some r.h.link.toNat, rid := r.rid.toNat, code := 0x01, status := s.statusOf pathF, data := [] } s
  else
    State.sendLink { s with dict := { s.dict with passed := s.dict.passed ++ [(n, r.rid.toNat, r.h.link.toNat)] } } out.toNat
      (relay r.h clsMG (.request { r with hop := r.hop + 1 }))

/-- The target answers a request: by the access, or by its earlier reply to a repeated RID (R354, R397). -/
def answer (r : MgReq) (s : State) : State :=
  let n := r.h.src.toNat
  let back := if r.directed then some r.h.link.toNat else none
  match s.dict.replies.find? fun q => decide (q.node = n) && decide (q.rid = r.rid.toNat) with
  | some q => sendReply { q with back := back } s
  | none =>
    let a := segment pathF (s.admits n) (decide (r.opc = 1)) r.index.toNat r.sub.toNat r.offset.toNat (min r.len.toNat 192) r.data s
    let t := a.2.2
    let q : MgReply := { node := n, back := back, rid := r.rid.toNat, code := a.1, status := t.statusOf pathF, data := a.2.1 }
    sendReply q { t with dict := { t.dict with replies := keepReply q t.dict.replies } }

/-- MANAGEMENT_REQUEST (R336, R343, R353, R354, R397): a directed frame with hops left goes on; any other is answered. Path F is absent in
the standalone role (R389), and the lookout's firmware answers it. -/
def execManagementRequest (r : MgReq) (s : State) : Res :=
  if !s.clocked || !s.chip.rigged || (!r.directed && decide (r.h.dst ≠ s.rig.nodeId)) then .next s
  else
    match s.acceptFlit r.h clsMG 1, (if r.directed then r.hops[r.hop.toNat]? else none) with
    | none, _ => .next (s.discard r.h.link.toNat)
    | some t, some out => .next (passOn r out t)
    | some t, none =>
      if !s.look.wdog then .next t
      else if 2 ≤ r.opc.toNat then .refused .reservedOpc
      else .next (answer r t)

/-! ### Path M (R398, R399) -/

/-- The I3C target answers: the lookout is released from reset (R398). -/
def State.target (s : State) : Bool :=
  match s.chip.phase with
  | .held | .noClock => false
  | _ => true

/-- Static address of SETDASA (R398). -/
def staticAddr : BitVec 7 := 0x3A

/-- SETDASA (R398). -/
def execSetdasa (static dynamic : BitVec 7) (s : State) : Res :=
  .next (if s.target && decide (static = staticAddr) then
      { s with dict := { s.dict with i3c := { s.dict.i3c with dyn := some dynamic } } }
    else s)

/-- Data bytes that one path M access moves at most (R399). -/
def i3cBytes : Nat := 64

/-- I3C_PRIVATE_WRITE (R399): a header, with write data, starts an access and discards a reply not yet read. R399 gives OPC 0x00 and 0x01: of
another value the reply's CODE is a free value, and nothing else changes (log entry 68). -/
def execI3cPrivateWrite (data : List Byte) (s : State) : Res :=
  let h := leNat (data.take 12)
  if !s.target || data.length < 12 then .next s
  else if 2 ≤ fld h 0 8 then
    let t := s.used
    .next { t with dict := { t.dict with i3c := { t.dict.i3c with
      reply := some (t.statusOf pathM, Config.free s.freeCtr % 256, []) } } }
  else
    let a := segment pathM true (decide (fld h 0 8 = 1)) (fld h 8 16) (fld h 24 8) (fld h 32 32) (min (fld h 64 8) i3cBytes)
      (data.drop 12) s
    let t := a.2.2
    .next { t with dict := { t.dict with i3c := { t.dict.i3c with reply := some (t.statusOf pathM, a.1, a.2.1) } } }

/-- I3C_PRIVATE_READ (R399): the reply header and its data; without a reply the header is not acknowledged. -/
def execI3cPrivateRead (s : State) : Res :=
  .next (match s.dict.i3c.reply with
    | none => s
    | some (st, code, data) =>
      { s with dict := { s.dict with i3c := { s.dict.i3c with
          reply := none, out := leBytes 2 st.toNat ++ leBytes 1 code ++ leBytes 1 data.length ++ data } } })

end Sys2Proof.Machine
end

