-- ==== Sys2Proof/Machine/VecMath.lean ====
section
/-! DEFINITION. What the vector engine computes from element bit patterns (R205, R208-R213, R220-R224). -/
namespace Sys2Proof.Machine

/-! ### Arithmetic on decoded values (R209-R211) -/

def FpV.neg : FpV → FpV
  | .nan => .nan
  | .inf n => .inf (!n)
  | .fin n m x => .fin (!n) m x

/-- Signed mantissa. -/
def signed (neg : Bool) (m : Nat) : Int := if neg then -(m : Int) else m

/-- The exact sum; two zeros of one sign keep it, other zero sums are +0 (R209). -/
def FpV.add : FpV → FpV → FpV
  | .inf a, .inf b => if a = b then .inf a else .nan
  | .inf a, .fin _ _ _ => .inf a
  | .fin _ _ _, .inf b => .inf b
  | .fin a m x, .fin b n y =>
    let e := min x y
    let t := signed a m * (2 ^ (x - e).toNat : Nat) + signed b n * (2 ^ (y - e).toNat : Nat)
    .fin (if t = 0 then decide (m = 0) && decide (n = 0) && a && b else decide (t < 0)) t.natAbs e
  | _, _ => .nan

/-- The exact product; 0 × ∞ is invalid (R209). -/
def FpV.mul : FpV → FpV → FpV
  | .inf a, .inf b => .inf (a != b)
  | .inf a, .fin b n _ => if n = 0 then .nan else .inf (a != b)
  | .fin a m _, .inf b => if m = 0 then .nan else .inf (a != b)
  | .fin a m x, .fin b n y => .fin (a != b) (m * n) (x + y)
  | _, _ => .nan

/-- One rounding to a format, ties to even; overflow gives ±∞ and every NaN is canonical (R209, R210). -/
def FpSpec.enc (p : FpSpec) : FpV → Nat
  | .nan => p.nan
  | .inf n => p.inf n
  | .fin n m x => p.round none n (signed n m) x

/-- Order of two values that are not NaN, −0 equal to +0. -/
def FpV.less : FpV → FpV → Bool
  | .inf a, .inf b => a && !b
  | .inf a, .fin _ _ _ => a
  | .fin _ _ _, .inf b => !b
  | .fin a m x, .fin b n y =>
    let e := min x y
    decide (signed a m * (2 ^ (x - e).toNat : Nat) < signed b n * (2 ^ (y - e).toNat : Nat))
  | _, _ => false

def FpV.isNan : FpV → Bool
  | .nan => true
  | _ => false

/-- −0. -/
def FpV.negZero : FpV → Bool
  | .fin true 0 _ => true
  | _ => false

/-- +0. -/
def FpV.posZero : FpV → Bool
  | .fin false 0 _ => true
  | _ => false

/-- The total order of R211 and R224: −0 below +0, NaN below −∞. -/
def FpV.below (x y : FpV) : Bool :=
  if x.isNan then !y.isNan else !y.isNan && (x.less y || (x.negZero && y.posZero))

/-- Minimum and maximum (R211). -/
def FpSpec.least (p : FpSpec) (a b : Nat) : Nat :=
  let x := p.decode a
  let y := p.decode b
  if x.isNan || y.isNan then p.nan else if y.below x then b else a

def FpSpec.most (p : FpSpec) (a b : Nat) : Nat :=
  let x := p.decode a
  let y := p.decode b
  if x.isNan || y.isNan then p.nan else if x.below y then b else a

/-- The conditions of vx.cmp (R205, R211). -/
def FpSpec.cond (p : FpSpec) (c a b : Nat) : Bool :=
  let x := p.decode a
  let y := p.decode b
  if x.isNan || y.isNan then c = 1 || c = 6
  else
    let eq := !x.less y && !y.less x
    match c with
    | 0 => eq
    | 1 => !eq
    | 2 => x.less y
    | 3 => x.less y || eq
    | 4 => y.less x
    | 5 => y.less x || eq
    | _ => false

/-! ### Conversions (R205, R211) -/

/-- FP32 to I32, saturating; NaN gives 0. -/
def toI32 (w : Nat) : Nat :=
  match fp32.decode w with
  | .nan => 0
  | .inf n => if n then 0x80000000 else 0x7FFFFFFF
  | .fin n m x => wrap 32 (max (-(2 ^ 31 : Int)) (min (2 ^ 31 - 1) (rneInt (signed n m) x)))

/-- I32 to FP32. -/
def ofI32 (w : Nat) : Nat := fp32.round none false (sext 32 w) 0

def convert (sub a : Nat) : Nat :=
  match sub with
  | 0 => fpBF16.enc (fp32.decode a)
  | 1 => fp16.enc (fp32.decode a)
  | 2 => fp32.enc (fpBF16.decode a)
  | 3 => fp32.enc (fp16.decode a)
  | 4 => toI32 a
  | _ => ofI32 a

/-! ### Transcendental unit (R212, R213, log entry 16) -/

/-- Integer square root, from bit `n` down. -/
def isqrtFrom (v : Nat) : Nat → Nat → Nat
  | 0, r => r
  | n + 1, r => isqrtFrom v n (if (r + 2 ^ n) * (r + 2 ^ n) ≤ v then r + 2 ^ n else r)

/-- ⌊√v⌋. -/
def isqrt (v : Nat) : Nat := isqrtFrom v (Nat.log2 v / 2 + 1) 0

/-- The FP32 value at or next below m × 2^k. -/
def fp32Below (m : Nat) (k : Int) : Nat := fp32.round (some (2 ^ 32)) false m k

/-- 2^(f / 2^n) in fixed point with 128 fraction bits, bit by bit: `c` is 2^(2^-i) and `acc` the product so far. -/
def exp2Bits : Nat → Nat → Nat → Nat → Nat
  | 0, _, _, acc => acc
  | n + 1, f, c, acc =>
    let c := isqrt (c * 2 ^ 128)
    exp2Bits n (f % 2 ^ n) c (if 2 ^ n ≤ f then acc * c / 2 ^ 128 else acc)

/-- 2^v for v = k + f / 2^54: the value at or next below it. -/
def exp2Below (k : Int) (f : Nat) : Nat := fp32Below (exp2Bits 54 f (2 * 2 ^ 128) (2 ^ 128)) (k - 128)

def exp2 (w : Nat) : Nat :=
  match fp32.decode w with
  | .nan => fp32.nan
  | .inf n => if n then 0 else fp32.inf false
  | .fin n m x =>
    let up := b2n (Config.exp2Up (BitVec.ofNat 32 w))
    if m = 0 then 0x3F800000
    else if x < -54 then (if n then 0x3F7FFFFF else 0x3F800000) + up
    else
      let t : Int := signed n m * (2 ^ (x + 54).toNat : Nat)
      let one : Int := 2 ^ 54
      if 128 * one ≤ t then fp32.inf false
      else if t < -150 * one then 0
      else if t % one = 0 ∧ -149 * one ≤ t then fp32.round none false 1 (t / one)
      else exp2Below (t / one) (t % one).toNat + up

/-- The next `n` binary digits of log2 y, y in fixed point with 320 fraction bits and 1 ≤ y < 2. -/
def log2Bits : Nat → Nat → Nat → Nat
  | 0, _, acc => acc
  | n + 1, y, acc =>
    let z := y * y / 2 ^ 320
    if 2 ^ 321 ≤ z then log2Bits n (z / 2) (2 * acc + 1) else log2Bits n z (2 * acc)

def log2 (w : Nat) : Nat :=
  match fp32.decode w with
  | .nan => fp32.nan
  | .inf n => if n then fp32.nan else fp32.inf false
  | .fin n m x =>
    if m = 0 then fp32.inf true
    else if n then fp32.nan
    else
      let l := Nat.log2 m
      let e := (l : Int) + x
      if m = 2 ^ l then fp32.round none false e 0
      else
        let up := b2n (Config.log2Up (BitVec.ofNat 32 w))
        let f := log2Bits 100 (m * 2 ^ 320 / 2 ^ l) 0
        if 0 ≤ e then fp32Below (e.toNat * 2 ^ 100 + f) (-100) + up
        else 2 ^ 31 + fp32Below ((-e).toNat * 2 ^ 100 - f - 1) (-100) + up

/-- 1 / x, correctly rounded (R212): the quotient with a sticky bit, rounded once. -/
def rcp (w : Nat) : Nat :=
  match fp32.decode w with
  | .nan => fp32.nan
  | .inf n => fp32.zero n
  | .fin n m x =>
    if m = 0 then fp32.inf n
    else
      let q := 2 ^ 100 / m
      fp32.round none n (signed n (2 * q + b2n (decide (2 ^ 100 % m ≠ 0)))) (-x - 101)

def rsqrt (w : Nat) : Nat :=
  match fp32.decode w with
  | .nan => fp32.nan
  | .inf n => if n then fp32.nan else 0
  | .fin n m x =>
    if m = 0 then fp32.inf n
    else if n then fp32.nan
    else
      let l := Nat.log2 m
      if m = 2 ^ l ∧ ((l : Int) + x) % 2 = 0 then fp32.round none false 1 (-(((l : Int) + x) / 2))
      else
        let odd := (x % 2).toNat
        fp32Below (isqrt (2 ^ 200 / (m * 2 ^ odd))) (-100 - (x - odd) / 2) +
          b2n (Config.rsqrtUp (BitVec.ofNat 32 w))

/-! ### One element (R205) -/

def VxOp.code : VxOp → Nat
  | .add => 0x01 | .sub => 0x02 | .mul => 0x03 | .fma => 0x04 | .min => 0x05 | .max => 0x06 | .abs => 0x07
  | .neg => 0x08 | .cmp => 0x09 | .cvt => 0x0A | .and_ => 0x10 | .or_ => 0x11 | .xor_ => 0x12 | .mov => 0x13
  | .sel => 0x14 | .sll => 0x15 | .srl => 0x16 | .sra => 0x17 | .exp2 => 0x20 | .log2 => 0x21 | .rcp => 0x22
  | .rsqrt => 0x23

def VxRow.code : VxRow → Nat
  | .rsum => 0x38 | .rmax => 0x39 | .smax => 0x3A | .topk => 0x3B

/-- The floating-point format of a FORM (R206). -/
def formSpec (form : Nat) : FpSpec := match form with | 1 => fpBF16 | 2 => fp16 | _ => fp32

/-- The result of one element of `bits` bits from its operands. -/
def vxElem (op : VxOp) (form sub bits a b c : Nat) : Nat :=
  let p := formSpec form
  let x := p.decode a
  let y := p.decode b
  match op with
  | .add => if form = 3 then (a + b) % 2 ^ 32 else p.enc (x.add y)
  | .sub => if form = 3 then (a + (2 ^ 32 - b)) % 2 ^ 32 else p.enc (x.add y.neg)
  | .mul => p.enc (x.mul y)
  | .fma => p.enc ((x.mul y).add (p.decode c))
  | .min => p.least a b
  | .max => p.most a b
  | .abs => if x.isNan then p.nan else a % 2 ^ (bits - 1)
  | .neg => if x.isNan then p.nan else a ^^^ 2 ^ (bits - 1)
  | .cmp => if p.cond sub a b then 2 ^ bits - 1 else 0
  | .cvt => convert sub a
  | .and_ => a &&& b
  | .or_ => a ||| b
  | .xor_ => a ^^^ b
  | .mov => a
  | .sel => (a &&& c) ||| (b &&& (c ^^^ (2 ^ 32 - 1)))
  | .sll => a * 2 ^ (b % 32) % 2 ^ 32
  | .srl => a / 2 ^ (b % 32)
  | .sra => wrap 32 (sext 32 a / (2 ^ (b % 32) : Nat))
  | .exp2 => exp2 a
  | .log2 => log2 a
  | .rcp => rcp a
  | .rsqrt => rsqrt a

/-! ### Rows (R220-R224) -/

def fpAdd (a b : Nat) : Nat := fp32.enc ((fp32.decode a).add (fp32.decode b))
def fpMul (a b : Nat) : Nat := fp32.enc ((fp32.decode a).mul (fp32.decode b))
def fpSub (a b : Nat) : Nat := fp32.enc ((fp32.decode a).add (fp32.decode b).neg)

/-- −0, the identity of the sum. -/
def fpNegZero : Nat := 0x80000000

/-- Adds a group of elements to the lanes; lanes beyond its end keep their sums. -/
def addLanes : List Nat → List Nat → List Nat
  | a :: l, x :: t => fpAdd a x :: addLanes l t
  | l, [] => l
  | [], _ => []

/-- Sums of adjacent lanes. -/
def foldPairs : List Nat → List Nat
  | a :: b :: t => fpAdd a b :: foldPairs t
  | l => l

/-- vx.rsum (R220). -/
def rsum (xs : List Nat) : Nat :=
  let acc := (pieces 128 xs).foldl addLanes (List.replicate 128 fpNegZero)
  nth 0 ((List.range 7).foldl (fun l _ => foldPairs l) acc) 0

/-- vx.rmax (R221): the maximum of R211 does not depend on the order. -/
def rmax (xs : List Nat) : Nat := xs.foldl fp32.most (fp32.inf true)

/-- vx.smax (R222). -/
def smax (c : Nat) (xs : List Nat) : List Nat :=
  let isNan := fun (w : Nat) => (fp32.decode w).isNan
  let v := fp32.decode c
  let pinf := fp32.inf false
  if xs.any isNan || v.isNan || !(FpV.fin false 0 0).less v || c = pinf then xs.map fun _ => fp32.nan
  else if xs.any (· = pinf) then
    let r := rcp (ofI32 (xs.filter (· = pinf)).length)
    xs.map fun x => if x = pinf then r else 0
  else if xs.all (· = fp32.inf true) then xs.map fun _ => 0
  else
    let m := rmax xs
    let e := xs.map fun x => exp2 (fpMul c (fpSub x m))
    let r := rcp (rsum e)
    e.map fun y => fpMul y r

/-- Inserts a score with its index behind those that rank at or above it. -/
def rankIn (p : Nat × Nat) : List (Nat × Nat) → List (Nat × Nat)
  | [] => [p]
  | q :: t => if (fp32.decode q.2).below (fp32.decode p.2) then p :: q :: t else q :: rankIn p t

/-- vx.topk (R224): the `k` largest scores with their indices, largest first; equal scores by lower index. -/
def topk (k : Nat) (xs : List Nat) : List (Nat × Nat) :=
  (enumFrom 0 xs).foldl (fun l p => (rankIn p l).take k) []

end Sys2Proof.Machine
end

