-- ==== Sys2Proof/Machine/Vector.lean ====
section
/-! DEFINITION. The vx slot (R199-R226): element-wise instructions, rows, vx.ld, vx.st and vx.acc. -/
namespace Sys2Proof.Machine

/-! ### Vector registers (R199-R202) -/

/-- The vx slot's rank among writes of one cycle (R59). -/
def rankVx : Nat := 1

/-- Element `i` of an operand: key of its word, and its value. Packed elements are halves of words (R200). -/
def elemKey (packed : Bool) (base i : Nat) : Nat := 128 * base + (if packed then i / 2 else i)

def Vec.elem (x : Vec) (packed : Bool) (base i : Nat) : Nat :=
  let w := (peek 0 x.reg (elemKey packed base i)).toNat
  if packed then w / 2 ^ (16 * (i % 2)) % 2 ^ 16 else w

/-- Reading vector registers checks the parity of each word: a mismatch is a vector parity fault (R187). -/
def touchVec (f : Nat) (d : Due) (keys : List Nat) (s : State) : State :=
  if (s.fold f).ve.bad.isEmpty then s
  else keys.foldl (fun s k =>
    if peek false (s.fold f).ve.bad k then
      s.raiseFold f 0x51 engVector 1 d.baddr d.tag (at_ 0 5 (k / 128) + at_ 5 7 k)
    else s) s

/-- Words, and the low half of one word, take effect with fresh parity (R200, R201). -/
def Vec.write (x : Vec) (ws : List (Nat × Word)) (low : Option (Nat × BitVec 16)) : Vec :=
  let reg := ws.foldl (fun m w => put 0 m w.1 w.2) x.reg
  let reg := match low with
    | some (k, h) => put 0 reg k (BitVec.ofNat 32 ((peek 0 reg k).toNat / 2 ^ 16 * 2 ^ 16 + h.toNat))
    | none => reg
  let keys := ws.map (·.1) ++ (low.map (·.1)).toList
  { x with reg := reg, bad := if x.bad.isEmpty then [] else x.bad.filter fun e => !keys.contains e.1 }

def landVecWrite (f : Nat) (ws : List (Nat × Word)) (low : Option (Nat × BitVec 16)) (s : State) : State :=
  s.onFold f fun x => { x with ve := x.ve.write ws low }

/-- The write of elements `vals` from element `i0` (even when packed) of a destination. -/
def writeElems (packed : Bool) (base i0 : Nat) (vals : List Nat) : DueOp :=
  if packed then
    let ps := enumFrom (i0 / 2) (pieces 2 vals)
    .vecWrite ((ps.filter fun p => decide (p.2.length = 2)).map fun p =>
        (128 * base + p.1, BitVec.ofNat 32 (nth 0 p.2 0 + 2 ^ 16 * nth 0 p.2 1)))
      ((ps.find? fun p => decide (p.2.length = 1)).map fun p => (128 * base + p.1, BitVec.ofNat 16 (nth 0 p.2 0)))
  else .vecWrite ((enumFrom i0 vals).map fun p => (128 * base + p.1, BitVec.ofNat 32 p.2)) none

/-! ### Forms and timing (R70, R205-R207) -/

def isPacked (form : Nat) : Bool := form = 1 || form = 2

/-- Whether the sources, and the destination, are packed. -/
def VxOp.packs (op : VxOp) (o : Vx) : Bool × Bool :=
  if op = .cvt then (o.sub = 2 || o.sub = 3, o.sub = 0 || o.sub = 1)
  else (isPacked o.form.toNat, isPacked o.form.toNat)

def VxOp.trans (op : VxOp) : Bool := op = .exp2 || op = .log2 || op = .rcp || op = .rsqrt

/-- L and group size of an element-wise instruction (R70). -/
def VxOp.timing (op : VxOp) (o : Vx) (paired : Bool) : Nat × Nat :=
  let (l, g) :=
    if op.trans then (12, 32)
    else if o.form = 3 then (2, 128)
    else if op ≠ .cvt && isPacked o.form.toNat then (4, 256)
    else (4, 128)
  if paired then (l + 1, g / 2) else (l, g)

/-- Elements of an instruction (R200). -/
def vxN (o : Vx) : Nat := o.count.toNat + 1

/-- Registers that `n` elements occupy. -/
def regsOf (packed : Bool) (n : Nat) : Nat := ceilDiv n (if packed then 256 else 128)

/-- Lanes of the pass over a row, and groups of it. -/
def laneCount (paired : Bool) : Nat := if paired then 64 else 128

/-- L of an instruction over a row of `n` (R70); `k` for vx.topk. -/
def VxRow.latency (op : VxRow) (n k : Nat) (paired : Bool) : Nat :=
  let g := ceilDiv n (laneCount paired)
  match op with
  | .rsum => g + (if paired then 32 else 31)
  | .rmax => g + (if paired then 18 else 17)
  | .smax => 2 * g + ceilDiv n (if paired then 16 else 32) + (if paired then 83 else 78)
  | .topk => k * g + (if paired then 13 else 12)

/-! ### Faults at issue -/

def vxShapeFault (rule : Nat) : Option (Nat × Nat × Nat) := some (0x11, engVector, detailShape rule)

/-- The vector engine, or the transcendental unit where the instruction uses it, is occupied (R67). -/
def vxBusy (trans : Bool) (x : Fold) : Option (Nat × Nat × Nat) :=
  if x.ex.isBusy 8 then some (0x13, engVector, detailBusy 8 (x.ex.busyAt 8).2 0)
  else if trans && x.ex.isBusy 9 then some (0x13, engVector, detailBusy 9 (x.ex.busyAt 9).2 0)
  else none

/-- An operand that runs past V31 (R202): the detail word names this rule, which states the breach for every operand (log
entry 21). -/
def pastEnd (base regs : Nat) : Bool := decide (32 < base + regs)

/-- Faults of an element-wise instruction. -/
def vxBad (op : VxOp) (o : Vx) (x : Fold) : Option (Nat × Nat × Nat) :=
  let h := vxShape op.code
  let (ps, pd) := op.packs o
  let r := regsOf ps (vxN o)
  if pastEnd o.vd.toNat (regsOf pd (vxN o)) || (h.a && !o.ba && pastEnd o.va.toNat r) ||
      (h.b && !o.bb && pastEnd o.vb.toNat r) || (h.c && !o.bc && pastEnd o.vc.toNat r) then vxShapeFault 202
  else vxBusy op.trans x

/-- Faults of an instruction over a row (R202, R224); vx.smax ignores its stride-zero bits (R222). -/
def rowBad (op : VxRow) (o : Vx) (x : Fold) : Option (Nat × Nat × Nat) :=
  let r := regsOf false (vxN o)
  let dst := match op with | .rsum | .rmax => 1 | .smax => r | .topk => 2
  if pastEnd o.vd.toNat dst || ((op = .smax || !o.ba) && pastEnd o.va.toNat r) || (op = .smax && pastEnd o.vc.toNat r) then
    vxShapeFault 202
  else if op = .topk && decide ((vxN o) < o.sub.toNat + 1) then vxShapeFault 224
  else vxBusy (op = .smax) x

/-! ### Element-wise instructions (R203, R205) -/

/-- Issues an element-wise instruction: its first source group is read at issue. -/
def issueVx (op : VxOp) (i : Instr) (f : FoldId) (o : Vx) (s : State) : State :=
  slotIssue s f.toNat 2 i (fun _ x => vxBad op o x) fun s x =>
    let paired := s.paired
    let g := (op.timing o paired).2
    let e := x.ex.occupy 8 (ceilDiv (vxN o) (if op.trans then laneCount paired else g))
    let e := if op.trans then e.occupy 9 (ceilDiv (vxN o) g) else e
    s.setFold f.toNat { x with ex := e.addDue (e.dueAt true rankVx 0 (.vx op o paired 0)) }

/-- The paired-mode comparison of elements `lo` to `lo + n - 1` (R186). -/
def pairedCheck (f : Nat) (d : Due) (paired : Bool) (lo n : Nat) (s : State) : State :=
  match (s.fold f).ve.laneBad with
  | some i =>
    if paired && decide (lo ≤ i) && decide (i < lo + n) then
      (checkCount 7 1 (s.onFold f fun x => { x with ve := { x.ve with laneBad := none } })).raiseFold f 0x44 engVector 1
        d.baddr d.tag (at_ 0 12 i)
    else s
  | none => s

/-- Words that operand elements `lo` to `lo + n - 1` lie in; a stride-zero operand is element 0 (R202). -/
def elemKeys (packed zero : Bool) (base lo n : Nat) : List Nat :=
  if zero then [128 * base]
  else (List.range (elemKey packed base (lo + n - 1) + 1 - elemKey packed base lo)).map (elemKey packed base lo + ·)

/-- Source group `g` of an element-wise instruction is read, with it element 0 of its stride-zero operands (log entry 21); its
result group takes effect L cycles later. -/
def landVx (f : Nat) (d : Due) (op : VxOp) (o : Vx) (paired : Bool) (g : Nat) (s : State) : State :=
  let (l, size) := op.timing o paired
  let (ps, pd) := op.packs o
  let h := vxShape op.code
  let lo := size * g
  let n := min size ((vxN o) - lo)
  let touch := fun (use zero : Bool) (base : BitVec 5) (s : State) =>
    if use then touchVec f d (elemKeys ps zero base.toNat lo n) s else s
  let s := touch h.c o.bc o.vc (touch h.b o.bb o.vb (touch h.a o.ba o.va s))
  let v := (s.fold f).ve
  let arg := fun (use zero : Bool) (base : BitVec 5) (i : Nat) =>
    if use then v.elem ps base.toNat (if zero then 0 else i) else 0
  let vals := (List.range n).map fun i =>
    vxElem op o.form.toNat o.sub.toNat (if ps then 16 else 32)
      (arg h.a o.ba o.va (lo + i)) (arg h.b o.bb o.vb (lo + i)) (arg h.c o.bc o.vc (lo + i))
  let s := pairedCheck f d paired lo n s
  later f (d.after l false (writeElems pd o.vd.toNat lo vals) ::
    (if lo + n < (vxN o) then [d.after 1 true (.vx op o paired (g + 1))] else [])) s

/-! ### Rows (R220-R224) -/

/-- Issues a row instruction: its first source group is read at issue. -/
def issueRow (op : VxRow) (i : Instr) (f : FoldId) (o : Vx) (s : State) : State :=
  slotIssue s f.toNat 2 i (fun _ x => rowBad op o x) fun s x =>
    let paired := s.paired
    let l := op.latency (vxN o) (o.sub.toNat + 1) paired
    let n := match op with | .rsum | .rmax => ceilDiv (vxN o) (laneCount paired) | .smax | .topk => l
    let e := x.ex.occupy 8 n
    let e := if op = .smax then e.occupy 9 n else e
    s.setFold f.toNat { x with ex := e.addDue (e.dueAt true rankVx 0 (.vrow op o paired 0 0 [])) }

/-- What a row instruction writes, from its last source group read `groups - 1` cycles after issue: due parts (R220-R224). The
groups of a soft maximum have 128 elements in both modes (R223, log entry 21). -/
def rowResult (d : Due) (op : VxRow) (o : Vx) (paired : Bool) (c : Word) (xs : List Nat) : List Due :=
  let size := laneCount paired
  let groups := ceilDiv (vxN o) size
  let l := op.latency (vxN o) (o.sub.toNat + 1) paired
  let at_L := l + 1 - groups
  match op with
  | .rsum => [d.after at_L false (writeElems false o.vd.toNat 0 [rsum xs])]
  | .rmax => [d.after at_L false (writeElems false o.vd.toNat 0 [rmax xs])]
  | .smax =>
    (enumFrom 0 (pieces 128 (smax c.toNat xs))).map fun p =>
      d.after (at_L - ceilDiv (vxN o) 128 + 1 + p.1) false (writeElems false o.vd.toNat (128 * p.1) p.2)
  | .topk =>
    let t := topk (o.sub.toNat + 1) xs
    [d.after at_L false (writeElems false o.vd.toNat 0
      (padList 0 128 (t.map (·.1)) ++ padList 0 128 (t.map fun e => if (fp32.decode e.2).isNan then fp32.nan else e.2)))]

/-- Source group `g` of a row is read; after the last the result is on its way. -/
def landRow (f : Nat) (d : Due) (op : VxRow) (o : Vx) (paired : Bool) (g : Nat) (c : Word) (got : List Word) (s : State) :
    State :=
  let size := laneCount paired
  let lo := size * g
  let n := min size ((vxN o) - lo)
  let zero := o.ba && decide (op ≠ .smax)
  let s := touchVec f d (elemKeys false zero o.va.toNat lo n) s
  let s := if g = 0 && op = .smax then touchVec f d [128 * o.vc.toNat] s else s
  let v := (s.fold f).ve
  let c := if g = 0 && op = .smax then peek 0 v.reg (128 * o.vc.toNat) else c
  let got := got ++ (List.range n).map fun i => peek 0 v.reg (128 * o.va.toNat + (if zero then 0 else lo + i))
  if lo + n < (vxN o) then later f [d.after 1 true (.vrow op o paired (g + 1) c got)] s
  else later f (rowResult d op o paired c (got.map (·.toNat))) (pairedCheck f d paired 0 (vxN o) s)

/-! ### vx.ld and vx.st (R214-R217) -/

def memN (o : VxMem) : Nat := o.count.toNat + 1

/-- Element size in bytes. -/
def memSize (o : VxMem) : Nat := if isPacked o.form.toNat then 2 else 4

def memBytes (o : VxMem) : Nat := (memN o) * (memSize o)

/-- Groups of 512 bytes. -/
def memGroups (o : VxMem) : Nat := ceilDiv (memBytes o) 512

def memChunks (o : VxMem) : Nat := ceilDiv (memBytes o) 64

/-- The stride that SS names. -/
def memStride (o : VxMem) (x : Fold) : Int := sext 24 (peek 0 x.ti.stride o.ss.toNat).toNat

/-- The line of chunk `c` (R215); `base` is the first line of the message in MODE 10. -/
def chunkLine (o : VxMem) (stride : Int) (base c : Nat) : Int :=
  match o.mode.toNat with
  | 0 => o.line.toNat + (c : Int)
  | 1 => o.line.toNat + c * stride
  | 2 => base + o.line.toNat + (c : Int)
  | _ => o.line.toNat

/-- The message at the head of a queue as the bundle at issue finds it: a q.pop or ctl.end of the same bundle does not hide it
(R65). -/
def Fold.headRec (x : Fold) (q : Nat) : Option MsgRec :=
  match x.qu.popNow with
  | some (p, m) => if p = q then some m else (x.queueNow q).msgs.head?
  | none => (x.queueNow q).msgs.head?

/-- First line of a message of queue `q` (R286). -/
def Fold.msgLine (x : Fold) (q : Nat) (m : MsgRec) : Nat :=
  (x.qent q).base + m.slot * (((x.queueNow q).bound.map (·.slotm1)).getD 0 + 1)

/-- First line of the message that a queue-head vx.ld reads; 0 in other modes. -/
def memBase (o : VxMem) (x : Fold) : Nat :=
  if o.mode = 2 then (x.headRec x.ex.selResult.toNat).elim 0 (x.msgLine x.ex.selResult.toNat) else 0

/-- Lines of a transfer. -/
def memLines (o : VxMem) (x : Fold) : List Int :=
  (List.range (if o.mode = 3 then 1 else (memChunks o))).map (chunkLine o (memStride o x) (memBase o x))

/-- Bank requests of a transfer whose first is made in cycle `c` (R215, R217). -/
def memClaims (o : VxMem) (x : Fold) (c : Nat) : List (Nat × Nat) :=
  if o.mode = 2 then (List.range (memGroups o)).map fun g => (c + g, allBanks)
  else (enumFrom 0 (memLines o x)).map fun p => (c + p.1 / 8, (p.2 % 32).toNat)

/-- The address fault of a queue-head vx.ld (R217): no message at the head, or lines beyond it. -/
def headBad (o : VxMem) (x : Fold) : Option (Nat × Nat × Nat) :=
  if o.mode = 2 then
    let q := x.ex.selResult.toNat
    match x.headRec q with
    | none => some (0x12, engVector, Config.absentDetail q)
    | some m =>
      if m.lines < o.line.toNat + (memChunks o) then some (0x12, engVector, x.msgLine q m + max o.line.toNat m.lines) else none
  else none

/-- Faults of vx.ld and vx.st at issue (R202, R215-R217). -/
def moveVxBad (store : Bool) (o : VxMem) (x : Fold) : Option (Nat × Nat × Nat) :=
  if pastEnd (if store then o.va else o.vd).toNat (memGroups o) then vxShapeFault 202
  else if o.mode = 3 && decide (64 / (memSize o) ≤ o.va.toNat) then vxShapeFault 216
  else
    match headBad o x with
    | some b => some b
    | none =>
      match (memLines o x).find? fun l =>
          decide (l < 0) || decide ((spLines : Int) ≤ l) || (store && x.qu.inQueue l.toNat) with
      | some l => some (0x12, engVector, lineDetail l)
      | none =>
        match vxBusy false x with
        | some b => some b
        | none => claimBad x (memClaims o x (x.ex.cycle + b2n store))

/-- vx.ld (R214-R217): group g is read at issue + g and serves from issue + 7 + g. -/
def execVxLd (f : FoldId) (o : VxMem) (s : State) : Res :=
  whileClocked s (slotIssue s f.toNat 2 (.vxLd f o) (fun _ x => moveVxBad false o x) fun s x =>
    let e := claim rankVx (memClaims o x x.ex.cycle) (x.ex.occupy 8 (memGroups o))
    let e := e.addDue (e.dueAt true rankVx 0 (.vld o (memStride o x) (memBase o x) 0))
    let e := if o.pop then e.addDue (e.dueAt false rankQp (memGroups o) (.release x.ex.selResult.toNat e.lastBundle)) else e
    s.setFold f.toNat { x with ex := e })

/-- vx.st (R214-R216): group g is read at issue + g and written for readers from issue + 3 + g. -/
def execVxSt (f : FoldId) (o : VxMem) (s : State) : Res :=
  whileClocked s (slotIssue s f.toNat 2 (.vxSt f o) (fun _ x => moveVxBad true o x) fun s x =>
    let e := claim rankVx (memClaims o x (x.ex.cycle + 1)) (x.ex.occupy 8 (memGroups o))
    s.setFold f.toNat { x with ex := e.addDue (e.dueAt true rankVx 0 (.vst o (memStride o x) 0)) })

/-- Stream bytes 512 g onward as register words, with the low half of a last odd element. -/
def streamWrite (base g : Nat) (bytes : List Byte) : DueOp :=
  let ps := enumFrom (128 * (base + g)) (pieces 4 bytes)
  .vecWrite ((ps.filter fun p => decide (p.2.length = 4)).map fun p => (p.1, BitVec.ofNat 32 (leNat p.2)))
    ((ps.find? fun p => decide (p.2.length = 2)).map fun p => (p.1, BitVec.ofNat 16 (leNat p.2)))

/-- Group `g` of a vx.ld is read. In MODE 11 the one element read at issue is every element. -/
def landVld (f : Nat) (d : Due) (o : VxMem) (stride : Int) (base g : Nat) (s : State) : State :=
  let line := fun (c : Nat) => (chunkLine o stride base c).toNat
  if o.mode = 3 then
    let s := spTouch f 1 d.baddr d.tag (64 * line 0) 64 s
    let el := (s.fold f).sp.bytes (64 * line 0 + (memSize o) * o.va.toNat) (memSize o)
    later f ((List.range (memGroups o)).map fun g =>
      d.after (7 + g) false (streamWrite o.vd.toNat g
        ((List.range (min 512 ((memBytes o) - 512 * g) / (memSize o))).flatMap fun _ => el))) s
  else
    let cs := (List.range (min 8 ((memChunks o) - 8 * g))).map fun i => line (8 * g + i)
    let s := cs.foldl (fun s l => spTouch f 1 d.baddr d.tag (64 * l) 64 s) s
    let sp := (s.fold f).sp
    let bytes := (cs.flatMap fun l => sp.line l).take ((memBytes o) - 512 * g)
    later f (d.after 7 false (streamWrite o.vd.toNat g bytes) ::
      (if g + 1 < (memGroups o) then [d.after 1 true (.vld o stride base (g + 1))] else [])) s

/-- Group `g` of a vx.st is read. -/
def landVst (f : Nat) (d : Due) (o : VxMem) (stride : Int) (g : Nat) (s : State) : State :=
  let n := min 512 ((memBytes o) - 512 * g)
  let keys := (List.range (ceilDiv n 4)).map fun i => 128 * (o.va.toNat + g) + i
  let s := touchVec f d keys s
  let v := (s.fold f).ve
  let bytes := (keys.flatMap fun k => leBytes 4 (peek 0 v.reg k).toNat).take n
  let out := (enumFrom (8 * g) (pieces 64 bytes)).map fun p => (64 * (chunkLine o stride 0 p.1).toNat, p.2)
  later f (d.bankWrites out ++
    (if g + 1 < (memGroups o) then [d.after 1 true (.vst o stride (g + 1))] else [])) s

/-- The message at the head of queue `q` is released as by q.pop (R217, R293); ctl.end has taken every message away (R295). -/
def landRelease (f q baddr : Nat) (d : Due) (s : State) : State :=
  if (s.fold f).ex.run = .ended then s
  else if (s.fold f).holds q then
    (releaseHead f q s).onFold f fun x => { x with qu := { x.qu with popNow := none } }
  else s.raiseFold f 0x17 engQueue 1 baddr d.tag (at_ 0 4 q)

/-! ### vx.acc (R218, R219) -/

/-- Rows that a vx.acc reads. -/
def accRows (o : VxAcc) : Nat := (o.count.toNat + 1) / 128

/-- Shape and slot faults of a vx.acc (R67, R202, R219). Of an mm.run in its own bundle it sees the bank as that run leaves it when the run's
command came first (log entry 81). -/
def accBad (o : VxAcc) (x : Fold) : Option (Nat × Nat × Nat) :=
  let a := o.arrn.toNat
  let b := x.mx.bank a (b2n o.bank)
  if pastEnd o.vd.toNat (ceilDiv (o.count.toNat + 1) 128) then vxShapeFault 202
  else if decide ((o.count.toNat + 1) % 128 ≠ 0) || decide (128 < o.arow0.toNat + (accRows o)) ||
      (!b.empty && (decide (b.parts ≠ splParts o.spl.toNat) || b.os)) then vxShapeFault 219
  else if x.ex.isBusy (4 + a) then some (0x13, engVector, detailBusy (4 + a) (x.ex.busyAt (4 + a)).2 a)
  else vxBusy false x

/-- vx.acc: accumulator row i is read at issue + 1 + i into register VD + i, as an mm.drain to FP32 reads it. -/
def execVxAcc (f : FoldId) (o : VxAcc) (s : State) : Res :=
  whileClocked s (slotIssue s f.toNat 2 (.vxAcc f o) (fun _ x => accBad o x) fun s x =>
    let a := o.arrn.toNat
    let b := x.mx.bank a (b2n o.bank)
    let n := drainParts b o.spl.toNat
    let x := { x with ex := x.ex.occupy 8 (accRows o) }
    s.setFold f.toNat (x.startDrain rankVx
      { arr := a, bank := b2n o.bank, vx := true, row0 := o.arow0.toNat, rows := (accRows o), dtile := 0, drow0 := 0,
        dfmt := 0, rnd := false, tseed := 0, parts := n, cko := 0, cks := 0, vd := o.vd.toNat,
        scale := if b.empty then 0 else b.scale
        os := false, bad := List.replicate n none, colSum := [], kept := [], id := 0, tag := 0, baddr := 0, issue := 0 }))

/-! ### Meanings -/

def execVxNop (f : FoldId) (s : State) : Res :=
  whileClocked s (slotIssue s f.toNat 2 (.vxNop f) (fun _ _ => none) fun s _ => s)

def execVxAdd (f : FoldId) (o : Vx) (s : State) : Res := whileClocked s (issueVx .add (.vxAdd f o) f o s)
def execVxSub (f : FoldId) (o : Vx) (s : State) : Res := whileClocked s (issueVx .sub (.vxSub f o) f o s)
def execVxMul (f : FoldId) (o : Vx) (s : State) : Res := whileClocked s (issueVx .mul (.vxMul f o) f o s)
def execVxFma (f : FoldId) (o : Vx) (s : State) : Res := whileClocked s (issueVx .fma (.vxFma f o) f o s)
def execVxMin (f : FoldId) (o : Vx) (s : State) : Res := whileClocked s (issueVx .min (.vxMin f o) f o s)
def execVxMax (f : FoldId) (o : Vx) (s : State) : Res := whileClocked s (issueVx .max (.vxMax f o) f o s)
def execVxAbs (f : FoldId) (o : Vx) (s : State) : Res := whileClocked s (issueVx .abs (.vxAbs f o) f o s)
def execVxNeg (f : FoldId) (o : Vx) (s : State) : Res := whileClocked s (issueVx .neg (.vxNeg f o) f o s)
def execVxCmp (f : FoldId) (o : Vx) (s : State) : Res := whileClocked s (issueVx .cmp (.vxCmp f o) f o s)
def execVxCvt (f : FoldId) (o : Vx) (s : State) : Res := whileClocked s (issueVx .cvt (.vxCvt f o) f o s)
def execVxAnd (f : FoldId) (o : Vx) (s : State) : Res := whileClocked s (issueVx .and_ (.vxAnd f o) f o s)
def execVxOr (f : FoldId) (o : Vx) (s : State) : Res := whileClocked s (issueVx .or_ (.vxOr f o) f o s)
def execVxXor (f : FoldId) (o : Vx) (s : State) : Res := whileClocked s (issueVx .xor_ (.vxXor f o) f o s)
def execVxMov (f : FoldId) (o : Vx) (s : State) : Res := whileClocked s (issueVx .mov (.vxMov f o) f o s)
def execVxSel (f : FoldId) (o : Vx) (s : State) : Res := whileClocked s (issueVx .sel (.vxSel f o) f o s)
def execVxSll (f : FoldId) (o : Vx) (s : State) : Res := whileClocked s (issueVx .sll (.vxSll f o) f o s)
def execVxSrl (f : FoldId) (o : Vx) (s : State) : Res := whileClocked s (issueVx .srl (.vxSrl f o) f o s)
def execVxSra (f : FoldId) (o : Vx) (s : State) : Res := whileClocked s (issueVx .sra (.vxSra f o) f o s)
def execVxExp2 (f : FoldId) (o : Vx) (s : State) : Res := whileClocked s (issueVx .exp2 (.vxExp2 f o) f o s)
def execVxLog2 (f : FoldId) (o : Vx) (s : State) : Res := whileClocked s (issueVx .log2 (.vxLog2 f o) f o s)
def execVxRcp (f : FoldId) (o : Vx) (s : State) : Res := whileClocked s (issueVx .rcp (.vxRcp f o) f o s)
def execVxRsqrt (f : FoldId) (o : Vx) (s : State) : Res := whileClocked s (issueVx .rsqrt (.vxRsqrt f o) f o s)

def execVxRsum (f : FoldId) (o : Vx) (s : State) : Res := whileClocked s (issueRow .rsum (.vxRsum f o) f o s)
def execVxRmax (f : FoldId) (o : Vx) (s : State) : Res := whileClocked s (issueRow .rmax (.vxRmax f o) f o s)
def execVxSmax (f : FoldId) (o : Vx) (s : State) : Res := whileClocked s (issueRow .smax (.vxSmax f o) f o s)
def execVxTopk (f : FoldId) (o : Vx) (s : State) : Res := whileClocked s (issueRow .topk (.vxTopk f o) f o s)

end Sys2Proof.Machine
end

