-- ==== Sys2Proof/Machine/Due.lean ====
section
/-! DEFINITION. DUE_RESULT_LANDS (R28, R29, R59, R66): what is due in a fold takes effect, one part at a time; and the
stall-spacing fault (R26). -/
namespace Sys2Proof.Machine

/-- A due part takes effect. -/
def landOp (f : Nat) (d : Due) (s : State) : State :=
  match d.op with
  | .cfg t w => landCfg f t w s
  | .rel m => landRel f m s
  | .sset ss v => landSset f ss v s
  | .zero arrs b => landZero f arrs b s
  | .selres q => s.onFold f fun x => { x with ex := { x.ex with selResult := q } }
  | .ldt o stride cfg j latch exps => landLdt f d o stride cfg j latch exps s
  | .tileRow t r bytes exps => landTileRow f t r bytes exps s
  | .stt o stride cfg j gathered exps => landStt f d o stride cfg j gathered exps s
  | .bankFault baddr other bank => landBankFault f baddr other bank s
  | .spWrite chunks => landSpWrite f d chunks s
  | .ldw l q got => landLdw f d l q got s
  | .ldwDone l got => landLdwDone f l got s
  | .run r i => landRun f d r i s
  | .step r => landStep f d r s
  | .drain r i => landDrain f d r i s
  | .vx op o paired g => landVx f d op o paired g s
  | .vrow op o paired g c got => landRow f d op o paired g c got s
  | .vld o stride base g => landVld f d o stride base g s
  | .vst o stride g => landVst f d o stride g s
  | .vecWrite ws low => landVecWrite f ws low s
  | .sendLine seq src j => landSendLine f d seq src j s
  | .sendOut seq => landSendOut f seq s
  | .release q baddr => landRelease f q baddr d s

/-- A part of this cycle takes effect in fold `x`; a read comes after the drover-owned accesses of the cycle (R98). -/
def landNow (n : Nat) (x : Fold) (d : Due) (s : State) : State :=
  if !d.read then landOp n d (s.setFold n x)
  else if s.unserved x || x.rowsDue then s
  else landOp n d (s.setFold n x.endDrover)

/-- DUE_RESULT_LANDS: the first due part of fold `f` takes effect. Those of the next cycle may follow the bundle of this one,
whose remaining slots then no longer issue. -/
def execDueResultLands (f : FoldId) (s : State) : Res :=
  let n := f.toNat
  let x := s.fold n
  whileClocked s (match x.ex.due with
    | [] => s
    | d :: t =>
      let x := { x with ex := { x.ex with due := t } }
      let y := x.reaching s d.cycle
      if d.cycle ≤ y.ex.cycle then landNow n y d s else s)

/-- STALL_SPACING (R26): the next bundle would be the 8,193rd without a stall point, and holds none. -/
def execStallSpacing (f : FoldId) (s : State) : Res :=
  whileClocked s (match reach s f.toNat none (fun _ => true) with
    | .bad x 0x14 detail addr tag => failIssue s f.toNat x 0x14 0 engExec detail addr tag
    | _ => s)

/-- RESERVED_OPCODE (R50, R57, R207): the next bundle of fold `f` holds what the tables reserve and raises an encoding fault. -/
def execReservedOpcode (f : FoldId) (s : State) : Res :=
  whileClocked s (match reach s f.toNat none (fun _ => true) with
    | .bad x 0x10 detail addr tag => failIssue s f.toNat x 0x10 0 engExec detail addr tag
    | _ => s)

end Sys2Proof.Machine
end

