-- ==== Sys2Proof/Machine/Rigging.lean ====
section
/-! DEFINITION. What the rigging brings (R332-R352): links, flits that arrive or pass through, remote memory, trees, global
pennants and group aborts. -/
namespace Sys2Proof.Machine

/-! ### Links (R333, R336, R337) -/

/-- The buffers that each end of a link offers when it comes up (R338, log entry 84). -/
def linkBuffers : List (Nat × Nat) := (List.range 8).foldl (fun m i => put 0 m i (Config.linkRoom i)) []

/-- A link that waits in reset for its reference clock comes up only when the clock has come back: the enabled links of its domain leave reset
and train (R333, R465, log entry 110). -/
def State.clockBack (s : State) (l : Nat) : State :=
  if !s.clocked || !s.lookoutRuns || !s.chip.rigged || bitOf s.chip.rigRef.toNat (l / 8) || decide ((s.link l).st ≠ 0)
      || !bitOf s.rig.linkEn.toNat l then s
  else
    let t := { s with chip := { s.chip with rigRef := BitVec.ofNat 4 (setBit s.chip.rigRef.toNat (l / 8) true) } }
    ((List.range s.chip.grade.links).filter fun m => decide (m / 8 = l / 8) && bitOf s.rig.linkEn.toNat m && decide ((s.link m).st = 0)).foldl
      (fun t m => t.setLink m { t.link m with st := 1 }) t

/-- LINK_UP (R333, R343): a training link, whose clock runs, comes up; its ends exchange node identifiers, link numbers and boot epochs,
and each offers buffers for every class and lane (R338). -/
def execLinkUp (link : BitVec 5) (node : BitVec 12) (farLink : BitVec 5) (epoch : BitVec 8) (s : State) : Res :=
  let l := link.toNat
  let s := s.clockBack l
  whileClocked s (if !s.chip.rigged || decide (s.chip.grade.links ≤ l) || decide ((s.link l).st ≠ 1) then s
    else
      let k := s.link l
      let t := s.setLink l { k with st := 2, farNode := node.toNat, farLink := farLink.toNat, sendSeq := 0, expSeq := 0,
                                    buf := [], wait := [], part := 0, discarding := false, idle := none,
                                    room := linkBuffers, space := linkBuffers }
      (t.seeEpoch node.toNat epoch).sendNotices)

/-- LINK_FAILURE (R337): the lanes lose lock, or too many codewords are uncorrectable. -/
def execLinkFailure (link : BitVec 5) (s : State) : Res :=
  whileClocked s (if s.linkUp link.toNat then failLink link.toNat s else s)

/-- REPLAY_TIMEOUT (R336, R337): no acknowledgement for 10 µs, so the replay buffer is sent again. -/
def execReplayTimeout (link : BitVec 5) (s : State) : Res :=
  let l := link.toNat
  whileClocked s (if !s.linkUp l || (s.link l).buf.isEmpty then s else s.replay l)

/-- The header of a flit (R334). -/
def flitHeader (flit : List Byte) : Nat := leNat (flit.take 16)

/-- A flit that a link must discard (R335, R336): its CRC or a codeword of it failed, or, of a numbered flit, its LSEQ is not the next
expected. -/
def flitBad (k : Link) (flit : List Byte) (badCodewords : Bool) : Bool :=
  !flitGood flit || badCodewords ||
    (decide (fld (flitHeader flit) 96 5 ≠ 0) && decide (fld (flitHeader flit) 70 10 ≠ k.expSeq))

/-- A flit of a packet that is arriving is accepted, and holds a buffer of its class and lane until the packet is whole (R336, R338). -/
def Link.takePart (k : Link) (flit : List Byte) : Link :=
  let h := flitHeader flit
  let key := bufKey (fld h 102 2) (bitOf h 101)
  { k with expSeq := (k.expSeq + 1) % 1024, part := k.part + 1, space := Machine.put 0 k.space key (peek 0 k.space key - 1) }

/-- The link after the good flits that come first, if each is one that it accepts. -/
def Link.takeParts (k : Link) : List (List Byte) → Option Link
  | [] => some k
  | b :: t => if flitBad k b false then none else (k.takePart b).takeParts t

/-- FLIT_DISCARDED (R335, R336): after those of its packet that are accepted, the bytes of a flit arrive that are not, so it is discarded,
and so is every later one until the replay that the next header asks for. -/
def execFlitDiscarded (b : BadFlit) (s : State) : Res :=
  let l := b.link.toNat
  whileClocked s (match (s.link l).takeParts b.before with
    | none => s
    | some k =>
      if s.linkUp l && flitBad k b.bytes b.badCodewords then (lineNoise l b.badCodewords (s.setLink l k)).discard l else s)

/-- IDLE_FLIT (R334, R336, R343): not numbered; it carries an acknowledgement and, as every flit, its source's boot epoch. -/
def execIdleFlit (h : FlitIn) (s : State) : Res :=
  whileClocked s (if s.linkUp h.link.toNat then (s.ack h).seeEpoch h.src.toNat h.epoch else s)

/-- RIG_REFCLK_LOSS (R337, R507): the enabled links of clock `k`, 8k to 8k + 7, fail. -/
def execRigRefclkLoss (k : BitVec 2) (s : State) : Res :=
  .next (
    let t := { s with chip := { s.chip with rigRef := BitVec.ofNat 4 (setBit s.chip.rigRef.toNat k.toNat false) } }
    (List.range 8).foldl (fun t i =>
      let l := 8 * k.toNat + i
      if (t.link l).st = 1 ∨ (t.link l).st = 2 then failLink l t else t) t)

/-! ### Notices and flits that pass through (R342, R343) -/

/-- RESET_NOTICE (R297, R343): the source has been reset. -/
def execResetNotice (h : FlitIn) (s : State) : Res :=
  whileClocked s (if h.dst ≠ s.rig.nodeId then s
    else s.takeFlit h clsPN 1 fun t =>
      let n := t.rig.notices
      let t := logStick n 1 { t with rig := { t.rig with notices := ctrAdd n 1 } }
      t.peerReset h.src.toNat)

/-- The link back of a directed request that this device passed on, for a management reply that goes to node `dst` (R353, R397). -/
def wayBack (s : State) (dst : Nat) (payload : List Byte) : Option (Nat × Nat × Nat) :=
  s.dict.passed.find? fun e => decide (e.1 = dst) && decide (e.2.1 = fld (leNat (payload.take 32)) 240 16)

/-- The program fold by which a packet chooses its link: 0 for a management frame (R342). -/
def chooser (h : FlitIn) (cls : Nat) : Nat := if cls = clsMG then 0 else h.fold.toNat

/-- TRANSIT_FLIT (R342, R353): a packet for another node leaves on its route, in the lane that its bundle asks for, and stays in this
device's buffers until it does (R338); a reply to a directed request retraces the request's links. -/
def execTransitFlit (h : FlitIn) (k : FlitKind) (payload : List Byte) (s : State) : Res :=
  let c := k.cls.toNat
  let fl := { relay h c (.transit k.typ k.ctx payload) with via := some (h.link.toNat, bufKey c h.lane) }
  let way := if k.typ = 0x0C then wayBack s h.dst.toNat payload else none
  whileClocked s (if way.isNone && decide (h.dst = s.rig.nodeId) then s
    else match s.takeIn h c (packetFlits payload.length), way with
      | none, _ => s.discard h.link.toNat
      | some t, some e => State.sendLink { t with dict := { t.dict with passed := t.dict.passed.erase e } } e.2.2 fl
      | some t, none => t.sendFlit fl (chooser h c))

/-! ### Remote memory (R346) -/

/-- A flit of a remote transfer stream carries another count than expected (R184): counted, and a fault of the running job. -/
def countFault (h : FlitIn) (dir : Nat) (f : Option Nat) (s : State) : State :=
  let detail := at_ 8 8 (s.expTally h.src.toNat h.fold.toNat dir).toNat + at_ 0 8 h.tally.toNat
  let t := checkCount 6 1 s
  match f with
  | some g => t.raiseFold g 0x43 engTally 0 0 0 detail
  | none => raise (t.repNone 0x43 5 engTally detail) t

/-- Requests of the remote class for `n` lines of a peer (R258, R346). -/
def askRemote (who : ReqFor) (wr : Bool) (addr : Nat → Nat) (n : Nat) (data : List Byte) (s : State) : State :=
  (granules addr n 0 n).foldl (fun t r =>
    t.ask .remote { who := who, off := r.1, addr := r.2.1, n := r.2.2, wr := wr,
                    data := if wr then (data.drop (64 * r.1)).take (64 * r.2.2) else [] }) s

/-- This device serves a peer's transfer of `n` lines: its remote share is not 0 (R259) and every line exists (R314). The requesting
device's job takes the fault otherwise, which TRANSFER_COMPLETE brings there (log entry 83). -/
def State.servesPeer (s : State) (addr : Nat → Nat) (n : Nat) : Bool :=
  decide (shareOf s.msd.split .remote ≠ 0) &&
    (granules addr n 0 n).all fun r => decide (r.2.1 + 64 * r.2.2 ≤ s.limit)

/-- REMOTE_WRITE (R181, R184, R346): compared, then written in the remote class. A mismatch writes nothing; the fault of R181 belongs
to the sending device's job (log entry 83). -/
def execRemoteWrite (h : FlitIn) (addr : BitVec 41) (data : List Byte) (crcOk : Bool) (s : State) : Res :=
  whileClocked s (if h.dst ≠ s.rig.nodeId then s
    else s.takeFlit h clsRQ (packetFlits data.length) fun t =>
      let src := h.src.toNat
      let p := h.fold.toNat
      let at64 := fun i => addr.toNat + 64 * i
      let n := data.length / 64
      if t.expTally src p 0 ≠ h.tally then countFault h 0 none t
      else
        let t := t.bumpExpTally src p 0 (packetFlits data.length)
        if !crcOk then checkCount 5 1 t
        else if t.servesPeer at64 n then askRemote (.remoteW src p) true at64 n data t
        else t)

/-- REMOTE_READ_REQUEST (R346): served from device memory in the remote class; its data goes back as RS flits. -/
def execRemoteReadRequest (h : FlitIn) (req : BitVec 16) (addr : BitVec 41) (linesm1 : BitVec 17) (gstr : BitVec 8)
    (s : State) : Res :=
  whileClocked s (if h.dst ≠ s.rig.nodeId then s
    else s.takeFlit h clsRQ 1 fun t =>
      let src := h.src.toNat
      let p := h.fold.toNat
      if t.expTally src p 0 ≠ h.tally then countFault h 0 none t
      else
        let t := t.bumpExpTally src p 0 1
        let n := linesm1.toNat + 1
        let g : Geom := { len := n, gstr := max 1 gstr.toNat, fmt := 0, rbc := 0, rows := 1, wt := false, spl := 0,
                          ck := false, dcf := 0, spanC := 0 }
        let x : Src := { addr := addr.toNat, geom := g, asked := n, raw := [], early := [] }
        if !t.servesPeer x.lineAddr n then t
        else
          let v : Serve := { node := src, fold := p, req := req.toNat, src := x, sent := 0 }
          askRemote (.remote src p req.toNat) false x.lineAddr n []
            { t with msd := { t.msd with serves := t.msd.serves ++ [v] } })

/-- REMOTE_READ_DATA (R184, R346): the next lines of a READ from a peer. The count is compared, and goes on, whoever may still take the
data. -/
def execRemoteReadData (h : FlitIn) (req : BitVec 16) (data : List Byte) (s : State) : Res :=
  whileClocked s (if h.dst ≠ s.rig.nodeId then s
    else s.takeFlit h clsRS (packetFlits data.length) fun t =>
      let src := h.src.toNat
      let p := h.fold.toNat
      let dest := t.job.bind fun j => j.place p
      if t.expTally src p 1 ≠ h.tally then countFault h 1 dest t
      else
        let t := t.bumpExpTally src p 1 (packetFlits data.length)
        match dest with
        | none => t
        | some f =>
          match (t.fold f).xfer req.toNat with
          | none => t
          | some y => if y.desc.kind = kRead ∧ y.desc.peer then feedXfer f req.toNat y.src.have data t else t)

/-! ### Trees (R347-R352) -/

/-- TREE_MESSAGE (R348, R349): forwarded on every CHILDREN link, and landed here by a LOCAL member; a message that the member refuses
goes back to its source. -/
def execTreeMessage (h : FlitIn) (tree : BitVec 6) (m : TreeHead) (data : List Byte) (s : State) : Res :=
  let t := tree.toNat
  let m := m.msg data
  whileClocked s (s.takeFlit h clsRQ (packetFlits m.data.length) fun u =>
    let u := u.sendDown t (relay h clsRQ (.tree t m))
    match landTree u t h.src.toNat h.fold.toNat m h.tally with
    | .refused binding => u.refuseMsg h.src.toNat h.fold.toNat m.ch.toNat m.slot.toNat m.dfold.toNat binding
    | .taken v => v.holdTree t h.fold.toNat m)

/-- TREE_STALL (R349): a LOCAL member has held a message of the tree to the limit. -/
def execTreeStall (tree : BitVec 6) (s : State) : Res :=
  whileClocked s (match s.rig.treeMsgs.find? fun m => decide (m.tree = tree.toNat) && !m.released with
    | none => s
    | some m =>
      match s.job.bind fun j => j.place m.dfold with
      | none => s
      | some f => s.raiseFold f 0x33 engQueue 0 0 0 (at_ 0 6 m.tree + at_ 6 12 s.rig.nodeId.toNat + at_ 18 4 m.dq))

/-- RIGGING_STALL (R339): a packet has waited at an output for room in its class and lane to the limit; a member of an abort group
sends a group abort whether or not it runs a job that can take the fault. -/
def execRiggingStall (link : BitVec 5) (cls : BitVec 2) (lane : Bool) (s : State) : Res :=
  let l := link.toNat
  whileClocked s (if s.linkUp l && (s.link l).wait.any fun o => decide (o.cls = cls.toNat) && decide (o.lane = lane) then
      let t := raise (s.repNone 0x32 5 engLink (at_ 0 5 l + at_ 5 2 cls.toNat + at_ 7 1 (b2n lane))) s
      if s.job.any Job.open_ then t else t.sendGroupAbort 0x32
    else s)

/-- The overflow of a copy by an increment that began on another device (R303). -/
def foreignOverflow (s : State) (node detail : Nat) : FaultRep :=
  { s.repNone 0x19 6 engQueue detail with origin := node }

/-- GLOBAL_PENNANT_INCREMENT (R303, R351): at the root, which adds it and forwards it; down the tree, where every device forwards it
and every LOCAL one adds it; not at the device where it began, nor where the pennant is local to the device (R350). -/
def execGlobalPennantIncrement (h : FlitIn) (g : TreePn) (inc : BitVec 16) (down : Bool) (s : State) : Res :=
  let t := g.tree.toNat
  let g := g.gpn.toNat
  whileClocked s (if !down && decide (h.dst ≠ s.rig.nodeId) then s
    else s.takeFlit h clsPN 1 fun u =>
      let here := decide (h.src ≠ u.rig.nodeId) && (u.group g).isSome && (!down || (peek Tree.init u.rig.trees t).loc)
      let u := if here then addGlobal g inc.toNat none (foreignOverflow u h.src.toNat) u else u
      u.sendDown t (relay h clsPN (.gpn t g inc.toNat true)))

/-- GROUP_ABORT (R352): from the root down its tree, which every device of the tree forwards; every member with a running job aborts
that job; its record names the origin. -/
def execGroupAbort (h : FlitIn) (a : TreeAbort) (code : BitVec 16) (down : Bool) (s : State) : Res :=
  whileClocked s (if !s.chip.rigged || (!down && decide (h.dst ≠ s.rig.nodeId)) then s
    else s.takeFlit h clsPN 1 fun u =>
      let u := u.sendDown a.tree.toNat (relay h clsPN (.abort a.tree.toNat a.origin.toNat code.toNat true))
      if !u.rig.abEn || decide (a.origin = u.rig.nodeId) then u
      else raise { u.repNone 0x62 6 engLink code.toNat with origin := a.origin.toNat } u)

end Sys2Proof.Machine
end

