-- ==== Sys2Proof/Machine/Dispatch.lean ====
section
/-! DEFINITION. What each command does: one arm for each constructor. -/
namespace Sys2Proof.Machine

def exec (i : Instr) (s : State) : Host.Outcome State Fault Refusal :=
  match i with
  | .ctlNop f => Sys2Proof.Machine.execCtlNop f s
  | .ctlBr f target => Sys2Proof.Machine.execCtlBr f target s
  | .ctlLset f lc count => Sys2Proof.Machine.execCtlLset f lc count s
  | .ctlLoop f lc target => Sys2Proof.Machine.execCtlLoop f lc target s
  | .ctlWait f tag => Sys2Proof.Machine.execCtlWait f tag s
  | .ctlStep f => Sys2Proof.Machine.execCtlStep f s
  | .ctlArm f pn base span => Sys2Proof.Machine.execCtlArm f pn base span s
  | .ctlEnd f => Sys2Proof.Machine.execCtlEnd f s
  | .ctlYield f => Sys2Proof.Machine.execCtlYield f s
  | .qNop f => Sys2Proof.Machine.execQNop f s
  | .qSend f ch lines src => Sys2Proof.Machine.execQSend f ch lines src s
  | .qRecv f q => Sys2Proof.Machine.execQRecv f q s
  | .qSel f ms ord rot mask => Sys2Proof.Machine.execQSel f ms ord rot mask s
  | .qPop f q => Sys2Proof.Machine.execQPop f q s
  | .qSmr f mask => Sys2Proof.Machine.execQSmr f mask s
  | .pnInc f fold pn inc => Sys2Proof.Machine.execPnInc f fold pn inc s
  | .pnWait f pn n => Sys2Proof.Machine.execPnWait f pn n s
  | .pnGinc f gpn inc => Sys2Proof.Machine.execPnGinc f gpn inc s
  | .pnGwait f gpn n => Sys2Proof.Machine.execPnGwait f gpn n s
  | .spNop f => Sys2Proof.Machine.execSpNop f s
  | .spCfg f tile cfg => Sys2Proof.Machine.execSpCfg f tile cfg s
  | .spLdt f o => Sys2Proof.Machine.execSpLdt f o s
  | .spStt f o => Sys2Proof.Machine.execSpStt f o s
  | .spRel f mask => Sys2Proof.Machine.execSpRel f mask s
  | .spSset f ss stride => Sys2Proof.Machine.execSpSset f ss stride s
  | .mmNop f => Sys2Proof.Machine.execMmNop f s
  | .mmLdw f o => Sys2Proof.Machine.execMmLdw f o s
  | .mmRunWs f o => Sys2Proof.Machine.execMmRunWs f o s
  | .mmRunOs f o => Sys2Proof.Machine.execMmRunOs f o s
  | .mmRunIs f o => Sys2Proof.Machine.execMmRunIs f o s
  | .mmDrain f o => Sys2Proof.Machine.execMmDrain f o s
  | .mmZero f arr bank => Sys2Proof.Machine.execMmZero f arr bank s
  | .vxNop f => Sys2Proof.Machine.execVxNop f s
  | .vxAdd f o => Sys2Proof.Machine.execVxAdd f o s
  | .vxSub f o => Sys2Proof.Machine.execVxSub f o s
  | .vxMul f o => Sys2Proof.Machine.execVxMul f o s
  | .vxFma f o => Sys2Proof.Machine.execVxFma f o s
  | .vxMin f o => Sys2Proof.Machine.execVxMin f o s
  | .vxMax f o => Sys2Proof.Machine.execVxMax f o s
  | .vxAbs f o => Sys2Proof.Machine.execVxAbs f o s
  | .vxNeg f o => Sys2Proof.Machine.execVxNeg f o s
  | .vxCmp f o => Sys2Proof.Machine.execVxCmp f o s
  | .vxCvt f o => Sys2Proof.Machine.execVxCvt f o s
  | .vxAnd f o => Sys2Proof.Machine.execVxAnd f o s
  | .vxOr f o => Sys2Proof.Machine.execVxOr f o s
  | .vxXor f o => Sys2Proof.Machine.execVxXor f o s
  | .vxMov f o => Sys2Proof.Machine.execVxMov f o s
  | .vxSel f o => Sys2Proof.Machine.execVxSel f o s
  | .vxSll f o => Sys2Proof.Machine.execVxSll f o s
  | .vxSrl f o => Sys2Proof.Machine.execVxSrl f o s
  | .vxSra f o => Sys2Proof.Machine.execVxSra f o s
  | .vxExp2 f o => Sys2Proof.Machine.execVxExp2 f o s
  | .vxLog2 f o => Sys2Proof.Machine.execVxLog2 f o s
  | .vxRcp f o => Sys2Proof.Machine.execVxRcp f o s
  | .vxRsqrt f o => Sys2Proof.Machine.execVxRsqrt f o s
  | .vxLd f o => Sys2Proof.Machine.execVxLd f o s
  | .vxSt f o => Sys2Proof.Machine.execVxSt f o s
  | .vxAcc f o => Sys2Proof.Machine.execVxAcc f o s
  | .vxRsum f o => Sys2Proof.Machine.execVxRsum f o s
  | .vxRmax f o => Sys2Proof.Machine.execVxRmax f o s
  | .vxSmax f o => Sys2Proof.Machine.execVxSmax f o s
  | .vxTopk f o => Sys2Proof.Machine.execVxTopk f o s
  | .shAdd f ds sa sb => Sys2Proof.Machine.execShAdd f ds sa sb s
  | .shSub f ds sa sb => Sys2Proof.Machine.execShSub f ds sa sb s
  | .shAnd f ds sa sb => Sys2Proof.Machine.execShAnd f ds sa sb s
  | .shOr f ds sa sb => Sys2Proof.Machine.execShOr f ds sa sb s
  | .shXor f ds sa sb => Sys2Proof.Machine.execShXor f ds sa sb s
  | .shSll f ds sa sb => Sys2Proof.Machine.execShSll f ds sa sb s
  | .shSrl f ds sa sb => Sys2Proof.Machine.execShSrl f ds sa sb s
  | .shSra f ds sa sb => Sys2Proof.Machine.execShSra f ds sa sb s
  | .shAddi f ds sa imm => Sys2Proof.Machine.execShAddi f ds sa imm s
  | .shAndi f ds sa imm => Sys2Proof.Machine.execShAndi f ds sa imm s
  | .shOri f ds sa imm => Sys2Proof.Machine.execShOri f ds sa imm s
  | .shLui f ds imm => Sys2Proof.Machine.execShLui f ds imm s
  | .shMul f ds sa sb => Sys2Proof.Machine.execShMul f ds sa sb s
  | .shMulh f ds sa sb => Sys2Proof.Machine.execShMulh f ds sa sb s
  | .shSlt f ds sa sb => Sys2Proof.Machine.execShSlt f ds sa sb s
  | .shSltu f ds sa sb => Sys2Proof.Machine.execShSltu f ds sa sb s
  | .shSlti f ds sa imm => Sys2Proof.Machine.execShSlti f ds sa imm s
  | .shBeq f sa sb off => Sys2Proof.Machine.execShBeq f sa sb off s
  | .shBne f sa sb off => Sys2Proof.Machine.execShBne f sa sb off s
  | .shBlt f sa sb off => Sys2Proof.Machine.execShBlt f sa sb off s
  | .shBge f sa sb off => Sys2Proof.Machine.execShBge f sa sb off s
  | .shBltu f sa sb off => Sys2Proof.Machine.execShBltu f sa sb off s
  | .shBgeu f sa sb off => Sys2Proof.Machine.execShBgeu f sa sb off s
  | .shJal f ds imm => Sys2Proof.Machine.execShJal f ds imm s
  | .shJr f sa => Sys2Proof.Machine.execShJr f sa s
  | .shLw f ds sa imm => Sys2Proof.Machine.execShLw f ds sa imm s
  | .shLh f ds sa imm => Sys2Proof.Machine.execShLh f ds sa imm s
  | .shLhu f ds sa imm => Sys2Proof.Machine.execShLhu f ds sa imm s
  | .shLb f ds sa imm => Sys2Proof.Machine.execShLb f ds sa imm s
  | .shLbu f ds sa imm => Sys2Proof.Machine.execShLbu f ds sa imm s
  | .shSw f sa sb off => Sys2Proof.Machine.execShSw f sa sb off s
  | .shSh f sa sb off => Sys2Proof.Machine.execShSh f sa sb off s
  | .shSb f sa sb off => Sys2Proof.Machine.execShSb f sa sb off s
  | .shLsp f ds sa imm => Sys2Proof.Machine.execShLsp f ds sa imm s
  | .shSsp f sa sb off => Sys2Proof.Machine.execShSsp f sa sb off s
  | .shArm f sa imm => Sys2Proof.Machine.execShArm f sa imm s
  | .shPinc f fold pn inc => Sys2Proof.Machine.execShPinc f fold pn inc s
  | .shPwait f pn n => Sys2Proof.Machine.execShPwait f pn n s
  | .shDvapp f ds sa imm => Sys2Proof.Machine.execShDvapp f ds sa imm s
  | .shRstep f ds seed high => Sys2Proof.Machine.execShRstep f ds seed high s
  | .shTpush f ds sa sb => Sys2Proof.Machine.execShTpush f ds sa sb s
  | .shTpop f ds sa sb => Sys2Proof.Machine.execShTpop f ds sa sb s
  | .shHalt f => Sys2Proof.Machine.execShHalt f s
  | .shepherdScratchpadAccess f => Sys2Proof.Machine.execShepherdScratchpadAccess f s
  | .eccWriteBack f bank => Sys2Proof.Machine.execEccWriteBack f bank s
  | .mastLanding f seg => Sys2Proof.Machine.execMastLanding f seg s
  | .readLanding f t => Sys2Proof.Machine.execReadLanding f t s
  | .sourceRead f t => Sys2Proof.Machine.execSourceRead f t s
  | .remoteWriteLanding g t => Sys2Proof.Machine.execRemoteWriteLanding g t s
  | .tileLandingRow f t => Sys2Proof.Machine.execTileLandingRow f t s
  | .descriptorBurst f dl1 block => Sys2Proof.Machine.execDescriptorBurst f dl1 block s
  | .end_ f dl => Sys2Proof.Machine.execEnd f dl s
  | .link f dl => Sys2Proof.Machine.execLink f dl s
  | .sync f dl => Sys2Proof.Machine.execSync f dl s
  | .read f dl => Sys2Proof.Machine.execRead f dl s
  | .write f dl => Sys2Proof.Machine.execWrite f dl s
  | .msrc f dl => Sys2Proof.Machine.execMsrc f dl s
  | .mtap f dl => Sys2Proof.Machine.execMtap f dl s
  | .fold f dl => Sys2Proof.Machine.execFold f dl s
  | .chan f dl => Sys2Proof.Machine.execChan f dl s
  | .predict f dl => Sys2Proof.Machine.execPredict f dl s
  | .claim f dl => Sys2Proof.Machine.execClaim f dl s
  | .transferComplete f t crcOk => Sys2Proof.Machine.execTransferComplete f t crcOk s
  | .msrcImageReady die => Sys2Proof.Machine.execMsrcImageReady die s
  | .mastUnitSend seg lane ecc => Sys2Proof.Machine.execMastUnitSend seg lane ecc s
  | .mastStall seg lane => Sys2Proof.Machine.execMastStall seg lane s
  | .speculativeStageReady b ecc => Sys2Proof.Machine.execSpeculativeStageReady b ecc s
  | .claimService die ecc => Sys2Proof.Machine.execClaimService die ecc s
  | .dataSlot port r => Sys2Proof.Machine.execDataSlot port r s
  | .readDataOut port r => Sys2Proof.Machine.execReadDataOut port r s
  | .maintenancePeriod port r => Sys2Proof.Machine.execMaintenancePeriod port r s
  | .portFailure port => Sys2Proof.Machine.execPortFailure port s
  | .messageArrival f src crcOk => Sys2Proof.Machine.execMessageArrival f src crcOk s
  | .creditReturn f src => Sys2Proof.Machine.execCreditReturn f src s
  | .queueRevocation f src => Sys2Proof.Machine.execQueueRevocation f src s
  | .bindingNotice f => Sys2Proof.Machine.execBindingNotice f s
  | .pennantIncrement f pn srcs => Sys2Proof.Machine.execPennantIncrement f pn srcs s
  | .remoteTransferArrival g t => Sys2Proof.Machine.execRemoteTransferArrival g t s
  | .verdict f => Sys2Proof.Machine.execVerdict f s
  | .stepBarrier => Sys2Proof.Machine.execStepBarrier s
  | .noProgress f shepherd => Sys2Proof.Machine.execNoProgress f shepherd s
  | .stallSpacing f => Sys2Proof.Machine.execStallSpacing f s
  | .powerWindow q => Sys2Proof.Machine.execPowerWindow q s
  | .droop f => Sys2Proof.Machine.execDroop f s
  | .thermalLoop => Sys2Proof.Machine.execThermalLoop s
  | .sensorSample readings memory => Sys2Proof.Machine.execSensorSample readings memory s
  | .heartbeat => Sys2Proof.Machine.execHeartbeat s
  | .treeStall tree => Sys2Proof.Machine.execTreeStall tree s
  | .riggingStall link cls lane => Sys2Proof.Machine.execRiggingStall link cls lane s
  | .pageRequestTimeout page => Sys2Proof.Machine.execPageRequestTimeout page s
  | .replayTimeout link => Sys2Proof.Machine.execReplayTimeout link s
  | .linkFailure link => Sys2Proof.Machine.execLinkFailure link s
  | .watchdogExpiry => Sys2Proof.Machine.execWatchdogExpiry s
  | .logFlush => Sys2Proof.Machine.execLogFlush s
  | .sysRefclkLoss => Sys2Proof.Machine.execSysRefclkLoss s
  | .rigRefclkLoss k => Sys2Proof.Machine.execRigRefclkLoss k s
  | .cxlRefclkLoss => Sys2Proof.Machine.execCxlRefclkLoss s
  | .doorbell slot ring value => Sys2Proof.Machine.execDoorbell slot ring value s
  | .jobStart bad => Sys2Proof.Machine.execJobStart bad s
  | .foldLoad f => Sys2Proof.Machine.execFoldLoad f s
  | .startSignal => Sys2Proof.Machine.execStartSignal s
  | .crc64Readback n addr => Sys2Proof.Machine.execCrc64Readback n addr s
  | .jobCommit => Sys2Proof.Machine.execJobCommit s
  | .rsaOperation => Sys2Proof.Machine.execRsaOperation s
  | .completionRecord => Sys2Proof.Machine.execCompletionRecord s
  | .preemption => Sys2Proof.Machine.execPreemption s
  | .foldPreemptStop f => Sys2Proof.Machine.execFoldPreemptStop f s
  | .contextSaveComplete => Sys2Proof.Machine.execContextSaveComplete s
  | .resume ring seq => Sys2Proof.Machine.execResume ring seq s
  | .abort => Sys2Proof.Machine.execAbort s
  | .abortComplete => Sys2Proof.Machine.execAbortComplete s
  | .hostAbort slot value => Sys2Proof.Machine.execHostAbort slot value s
  | .tapFire f => Sys2Proof.Machine.execTapFire f s
  | .tapCopyComplete c => Sys2Proof.Machine.execTapCopyComplete c s
  | .atsTranslationCompletion a => Sys2Proof.Machine.execAtsTranslationCompletion a s
  | .atsInvalidate base sizeLog pasid => Sys2Proof.Machine.execAtsInvalidate base sizeLog pasid s
  | .pageResponse page a => Sys2Proof.Machine.execPageResponse page a s
  | .birsp line => Sys2Proof.Machine.execBirsp line s
  | .cxlMemRequest r => Sys2Proof.Machine.execCxlMemRequest r s
  | .getVersion => Sys2Proof.Machine.execGetVersion s
  | .getCapabilities => Sys2Proof.Machine.execGetCapabilities s
  | .negotiateAlgorithms => Sys2Proof.Machine.execNegotiateAlgorithms s
  | .getDigests => Sys2Proof.Machine.execGetDigests s
  | .getCertificate slot offset len => Sys2Proof.Machine.execGetCertificate slot offset len s
  | .challenge slot nonce => Sys2Proof.Machine.execChallenge slot nonce s
  | .getMeasurements index signed nonce => Sys2Proof.Machine.execGetMeasurements index signed nonce s
  | .dictRead r => Sys2Proof.Machine.execDictRead r s
  | .dictWrite offset data => Sys2Proof.Machine.execDictWrite offset data s
  | .lookoutWriteComplete slot => Sys2Proof.Machine.execLookoutWriteComplete slot s
  | .managementRequest r => Sys2Proof.Machine.execManagementRequest r s
  | .i3cPrivateWrite data => Sys2Proof.Machine.execI3cPrivateWrite data s
  | .i3cPrivateRead => Sys2Proof.Machine.execI3cPrivateRead s
  | .setdasa static dynamic => Sys2Proof.Machine.execSetdasa static dynamic s
  | .statusClear slot value => Sys2Proof.Machine.execStatusClear slot value s
  | .submissionRingConfig slot ring sub value => Sys2Proof.Machine.execSubmissionRingConfig slot ring sub value s
  | .completionRingConfig slot sub value => Sys2Proof.Machine.execCompletionRingConfig slot sub value s
  | .completionRingHead slot value => Sys2Proof.Machine.execCompletionRingHead slot value s
  | .coherentWindowWrite slot n value => Sys2Proof.Machine.execCoherentWindowWrite slot n value s
  | .routeTableWrite slot offset value => Sys2Proof.Machine.execRouteTableWrite slot offset value s
  | .firmwareSlotWrite slot offset value => Sys2Proof.Machine.execFirmwareSlotWrite slot offset value s
  | .sectorProgrammed => Sys2Proof.Machine.execSectorProgrammed s
  | .firmwareVerify slot => Sys2Proof.Machine.execFirmwareVerify slot s
  | .firmwareActivate slot => Sys2Proof.Machine.execFirmwareActivate slot s
  | .firmwareAbort slot => Sys2Proof.Machine.execFirmwareAbort slot s
  | .firmwareCommit slot => Sys2Proof.Machine.execFirmwareCommit slot s
  | .securityLock slot => Sys2Proof.Machine.execSecurityLock slot s
  | .haltExecute slot f => Sys2Proof.Machine.execHaltExecute slot f s
  | .haltAll slot f => Sys2Proof.Machine.execHaltAll slot f s
  | .debugStep slot f n => Sys2Proof.Machine.execDebugStep slot f n s
  | .debugResume slot f => Sys2Proof.Machine.execDebugResume slot f s
  | .foldHalt f => Sys2Proof.Machine.execFoldHalt f s
  | .breakpoint f => Sys2Proof.Machine.execBreakpoint f s
  | .foldStateWrite slot f sub offset value => Sys2Proof.Machine.execFoldStateWrite slot f sub offset value s
  | .pennantWrite slot t value => Sys2Proof.Machine.execPennantWrite slot t value s
  | .traceBufferWrite f => Sys2Proof.Machine.execTraceBufferWrite f s
  | .deviceResetCommand slot => Sys2Proof.Machine.execDeviceResetCommand slot s
  | .foldBlockReset slot value => Sys2Proof.Machine.execFoldBlockReset slot value s
  | .quadBlockReset slot value => Sys2Proof.Machine.execQuadBlockReset slot value s
  | .blockResetComplete f pass => Sys2Proof.Machine.execBlockResetComplete f pass s
  | .remoteWrite h addr data crcOk => Sys2Proof.Machine.execRemoteWrite h addr data crcOk s
  | .remoteReadRequest h req addr linesm1 gstr => Sys2Proof.Machine.execRemoteReadRequest h req addr linesm1 gstr s
  | .remoteReadData h req data => Sys2Proof.Machine.execRemoteReadData h req data s
  | .treeMessage h tree m data => Sys2Proof.Machine.execTreeMessage h tree m data s
  | .globalPennantIncrement h g inc down => Sys2Proof.Machine.execGlobalPennantIncrement h g inc down s
  | .groupAbort h a code down => Sys2Proof.Machine.execGroupAbort h a code down s
  | .resetNotice h => Sys2Proof.Machine.execResetNotice h s
  | .idleFlit h => Sys2Proof.Machine.execIdleFlit h s
  | .linkUp link node farLink epoch => Sys2Proof.Machine.execLinkUp link node farLink epoch s
  | .pgoodFall => Sys2Proof.Machine.execPgoodFall s
  | .pgoodRise roleSel testEn => Sys2Proof.Machine.execPgoodRise roleSel testEn s
  | .resetN lowNs => Sys2Proof.Machine.execResetN lowNs s
  | .perstN => Sys2Proof.Machine.execPerstN s
  | .cxlHotReset => Sys2Proof.Machine.execCxlHotReset s
  | .cxlLinkDown => Sys2Proof.Machine.execCxlLinkDown s
  | .resetHoldoffEnd => Sys2Proof.Machine.execResetHoldoffEnd s
  | .resetRelease => Sys2Proof.Machine.execResetRelease s
  | .lookoutBoot => Sys2Proof.Machine.execLookoutBoot s
  | .portTraining ports => Sys2Proof.Machine.execPortTraining ports s
  | .foldSelfTest q failed repairs => Sys2Proof.Machine.execFoldSelfTest q failed repairs s
  | .deviceReady dies => Sys2Proof.Machine.execDeviceReady dies s
  | .dueResultLands f => Sys2Proof.Machine.execDueResultLands f s
  | .supplyRecovers f => Sys2Proof.Machine.execSupplyRecovers f s
  | .sysRefclkAppears => Sys2Proof.Machine.execSysRefclkAppears s
  | .cxlLinkUp => Sys2Proof.Machine.execCxlLinkUp s
  | .flitDiscarded b => Sys2Proof.Machine.execFlitDiscarded b s
  | .transitFlit h k payload => Sys2Proof.Machine.execTransitFlit h k payload s
  | .trainingRecordWritten => Sys2Proof.Machine.execTrainingRecordWritten s
  | .reservedOpcode f => Sys2Proof.Machine.execReservedOpcode f s
  | .illegalInstructionEncoding f => Sys2Proof.Machine.execIllegalInstructionEncoding f s
  | .reservedDescriptorKind f dl => Sys2Proof.Machine.execReservedDescriptorKind f dl s
  | .uncorrectableLookoutError => Sys2Proof.Machine.execUncorrectableLookoutError s

end Sys2Proof.Machine
end

