-- ==== Sys2Proof/Machine/Tick.lean ====
section
/-! DEFINITION. What a step on an empty queue does: one cycle of the quad power monitors, of the mast's stall counters, and of the
clock of each fold that does not issue bundles (R66, R255, R447, log entry 6). -/
namespace Sys2Proof.Machine

/-- A fold whose clock runs without a bundle issuing: it loads, waits, is held, or has ended (R66). -/
def Fold.idles (x : Fold) : Bool :=
  match x.ex.run with
  | .idle => false
  | .running => (x.ex.wait.isSome && !x.ex.issued) || x.db.held || x.dr.tapping.isSome || x.ex.tally.isSome
  | _ => true

/-- The condition for which the bundle of fold `x` at its stall point waits holds (R22). -/
def condHolds (s : State) (x : Fold) : WaitOn → Bool
  | .token t => x.dr.tokens.contains t
  | .recv q => x.holds q.toNat
  | .sel set =>
    let w := qpSlot (peek 0 x.ex.bundles x.ex.nextBundle)
    (selChoice s.reefed (bitOf w 25) (bitOf w 24) set x).isSome
  | .send c => decide (1 ≤ (x.chan c.toNat).credits)
  | .pn p n => decide (n.toNat ≤ x.qu.pennant p.toNat)
  | .gpn g n => globalHolds g.toNat n.toNat s
  | .arm p => decide (1 ≤ x.qu.pennant p.toNat)
  | .end_ => endHolds x
  | .step | .shPwait _ _ | .shDvapp _ | .shTpush => false

/-- The condition of a wait is observed at the end of the cycle (R23). -/
def Wait.observe (s : State) (x : Fold) (w : Wait) : Wait := { w with seen := w.seen || condHolds s x w.on }

/-- The waiting bundle of fold `x` issues in this cycle: its condition was observed at the end of the last one (R23), and neither a
debugger, a preemption nor a tap entry keeps it; or it met the step barrier as it arrived there (R34). -/
def Fold.mustIssue (s : State) (x : Fold) : Bool :=
  x.executes && !s.preempting && !x.db.req && !x.db.stepped && (tapDue s x x.ex.nextBundle).isNone &&
    x.ex.wait.any fun w => (w.seen && condHolds s x w.on) ||
      (decide (w.on = .step) && !w.noted && s.job.any (allArrived s))

/-- A preemption keeps fold `x` at its next stall point, where what has issued runs to its end (R25, R374). -/
def Fold.parks (s : State) (x : Fold) : Bool :=
  s.preempting && x.executes && !x.ex.ctlDue && !x.db.stepped && !x.atBreak && x.ex.wait.isNone &&
    decide (peek 0 x.ex.berr x.ex.nextBundle ≠ 2) && atStall x

/-- A cycle of a fold outside the job that its droop lengthens (R452). -/
def Fold.stretchIdle (x : Fold) : Fold :=
  if x.db.droop && decide (x.ex.run = .idle) then { x with db := { x.db with stretched := x.db.stretched + 1 } } else x

/-- One clock cycle of such a fold, unless something of this cycle has not yet taken effect or its bundle issues. -/
def tickFold (s : State) (x : Fold) : Fold :=
  if (x.idles || x.parks s) && !x.unsettled s && !x.late x.ex.cycle && !x.mustIssue s then
    Fold.advance s.paused { x with ex := { x.ex with wait := x.ex.wait.map (Wait.observe s x) } }
  else x.stretchIdle

/-- The declaration that a fold adds to its quad's monitor: folds of the job that have not stopped (R447). -/
def Fold.declares (x : Fold) : Nat := if x.ex.run = .running then x.ex.pwr else 0

/-- The fold of quad `q` with the largest declaration, the lowest program fold on ties, and the address and tag of the bundle that
governs it, where one that has stopped holds 0; none while the quad holds no program fold (R447, R448). -/
def largestDeclaration (s : State) (q : Nat) : Option (Nat × Nat × BitVec 12) :=
  let fs := match s.job with | some j => j.places.filter fun f => decide (f / 4 = q) | none => []
  let best := fs.foldl (fun m f => max m (s.fold f).declares) 0
  (fs.find? fun f => decide ((s.fold f).declares = best)).map fun f =>
    (f, (s.fold f).ex.lastBundle, (s.fold f).ex.lastTag)

/-- One cycle of a quad's monitor (R447), which holds at the window's end until the window closes; the last cycle names the fold of
R448. -/
def tickQuad (s : State) (q : Nat) (u : Quad) : Quad :=
  if u.winCycles < 1024 then
    let d := sumNat ((List.range 4).map fun i => (s.fold (4 * q + i)).declares)
    { u with winCycles := u.winCycles + 1, winSum := u.winSum + d, jobSum := u.jobSum + d,
             top := if u.winCycles = 1023 then largestDeclaration s q else u.top }
  else u

/-- A debug halt in the job pauses the monitor of quad `q`, which holds a fold of the job (R520). -/
def State.quadPaused (s : State) (q : Nat) : Bool :=
  s.paused && s.job.any fun j => j.places.any fun f => decide (f / 4 = q)

/-- The monitors of the quads of the grade. -/
def tickQuads (s : State) : List (Nat × Quad) :=
  (List.range s.chip.grade.quads).foldl
    (fun m q => if s.quadPaused q then m else put Quad.init m q (tickQuad s q (peek Quad.init m q))) s.pow.quads

/-- The quad monitors run while the device is ready (R447). -/
def State.monitors (s : State) : Bool := decide (s.chip.phase = .ready)

/-- The count of stretched cycles sticks, and is logged, in the cycle in which it reaches its largest value (R430, R452). -/
def stickStretches (s : State) : State :=
  let b := peek 0 s.pow.overCtr 1
  let n := sumNat (s.folds.map fun p => p.2.db.stretched)
  if ctrSticks b n then logStick b n { s with pow := { s.pow with overCtr := put 0 s.pow.overCtr 1 ctrMax } } else s

/-- A word of the lookout's memory that an access finds in error (R480): a single-bit error is corrected, and an uncorrectable one sets FATAL
with cause 0x04. Which word an idle cycle accesses is a free value (log entry 112). -/
def lookoutAccess (s : State) : State :=
  let x := s.look
  if x.merr.isEmpty || !s.lookoutRuns then s
  else
    let w := Config.free s.freeCtr % (lookoutBytes / 8)
    match peek 0 x.merr w with
    | 0 => s.used
    | 1 => { s.used with look := { x with merr := put 0 x.merr w 0 } }
    | _ => setFatal70 4 s.used

/-- One bit of a commit's burn (R489). -/
def burnBit (s : State) : State :=
  let x := s.look
  match x.burn with
  | some n =>
    if !s.lookoutRuns then s
    else if x.rollback < n then { s with look := { x with rollback := x.rollback + 1 } }
    else { s with look := { x with burn := none } }
  | none => s

/-- The lookout's own request of a reset, such as after a firmware update (R462): it may make one in any cycle in which an activated image
waits for the next reset (log entry 118). -/
def ownRequest (s : State) : State :=
  if s.look.wdog && decide (s.look.nextBoot ≠ s.look.active) then
    if s.free 1 = 1 then takeReset srcCommand s.used else s.used
  else s

/-- The device idles: the monitors run, and the clocks of folds that issue nothing run on; in the hold-off of a reset all of these
clocks are stopped (R468). -/
def tick (s : State) : State :=
  if !s.clocked then s else
  let s := burnBit (lookoutAccess s)
  let s := if s.monitors then { s with pow := { s.pow with quads := tickQuads s } } else s
  ownRequest (if s.job.isSome then
      let s := tickStreams s
      stickStretches { s with folds := s.folds.map fun p => (p.1, tickFold s p.2) }
    else stickStretches { s with folds := s.folds.map fun p => (p.1, p.2.stretchIdle) })

end Sys2Proof.Machine
end

