-- ==== Sys2Proof/Safety.lean ====
section
/-! DEFINITION. The terms in which claims are stated: canonical memories, and when a command meets a unit that is ready for
it. -/
namespace Sys2Proof.Machine

/-! ### Clocks -/

/-- The command needs a clock that the hold-off of a reset stops (R468). The others are the reset sources and the release, what the
lookout does on its own clock, its I3C target, and the supply of a fold. -/
def needsClock : Instr → Bool
  | .pgoodFall | .pgoodRise _ _ | .resetN _ | .perstN | .cxlHotReset | .cxlLinkDown | .cxlRefclkLoss | .watchdogExpiry
  | .resetHoldoffEnd | .resetRelease | .sysRefclkLoss | .sysRefclkAppears | .rigRefclkLoss _ | .lookoutBoot
  | .trainingRecordWritten | .uncorrectableLookoutError | .logFlush | .sectorProgrammed | .lookoutWriteComplete _
  | .rsaOperation | .setdasa _ _ | .i3cPrivateWrite _ | .i3cPrivateRead | .thermalLoop | .sensorSample _ _ | .droop _
  | .supplyRecovers _ => false
  | _ => true

/-! ### Memories -/

/-- Device memory and host memory are in the canonical form. -/
def State.memWf (s : State) : Bool := wfMap memDefault s.msd.mem && wfMap memDefault s.host.hostMem

/-- One byte of device memory. -/
def State.devByte (s : State) (a : Nat) : Byte := peek memDefault s.msd.mem a

/-- One byte of host memory. -/
def State.hostByte (s : State) (a : Nat) : Byte := peek memDefault s.host.hostMem a

/-! ### Frames -/

/-- A fold without the records that its trace unit holds. -/
def Fold.untraced (x : Fold) : Fold := { x with db := { x.db with recs := [], lost := 0 } }

/-- Only fold `f`, the trace, the log with the status bits it sets, and the counter of free values may differ. -/
structure Others (s t : State) (f : Nat) : Prop where
  pending : t.pending = s.pending
  folds   : ∀ g, g ≠ f → t.fold g = s.fold g
  job     : t.job = s.job
  saved   : t.saved = s.saved
  moving  : t.moving = s.moving
  chip    : t.chip = s.chip
  host    : t.host = s.host
  msd     : t.msd = s.msd
  rig     : t.rig = s.rig
  pow     : t.pow = s.pow
  pennant : t.dict.gpnIdle = s.dict.gpnIdle

/-! ### Bundles -/

/-- The word of the bundle that fold `x` issues next. -/
def Fold.nextWord (x : Fold) : BitVec 256 := peek 0 x.ex.bundles x.ex.nextBundle

/-- The next bundle of fold `f` can issue: the job runs, no debugger, tap or tally hold stops the fold, what was due has
taken effect, the bundle lies in the program, its memory holds no error (R190, R418), it holds instruction `i` (log entry 5)
and breaks no rule of its encoding, and its declaration covers the active products (R21, R23, R48, R57, R61, R62, R182, R425,
R518). `on` is the condition that the fold may be waiting for, which has then been observed (R23); without one the bundle holds
no stall point (R22). -/
structure Ready (s : State) (f : Nat) (i : Instr) (on : Option WaitOn) : Prop where
  job     : s.job.isSome = true
  goes    : s.aborting = false
  keeps   : s.preempting = false
  run     : (s.fold f).ex.run = .running
  held    : (s.fold f).db.held = false
  req     : (s.fold f).db.req = false
  step    : (s.fold f).db.stepping = false
  tapping : (s.fold f).dr.tapping = none
  tally   : (s.fold f).ex.tally = none
  ctlDue  : (s.fold f).ex.ctlDue = false
  wait    : (s.fold f).ex.wait = none ∨ ∃ w, (s.fold f).ex.wait = some w ∧ on = some w.on ∧ w.seen = true
  issued  : (s.fold f).ex.issued = false
  settled : (s.fold f).ex.overdue = false
  onTime  : (s.fold f).late (s.fold f).ex.cycle = false
  free    : (s.fold f).atBreak = false
  inProg  : (s.fold f).ex.nextBundle < (s.fold f).ex.bundleCnt
  whole   : peek 0 (s.fold f).ex.berr (s.fold f).ex.nextBundle = 0
  word    : inBundle i (s.fold f).nextWord = true
  enc     : bundleEnc (s.fold f).nextWord = none
  spacing : (s.fold f).ex.sinceStall < 8192
  tap     : tapDue s (s.fold f) (s.fold f).ex.nextBundle = none
  power   : (s.fold f).ex.govern.overPower = false
  plain   : on = none → (ctlStall (s.fold f).nextWord || qpStall (s.fold f).nextWord) = false

/-- Fold `x` after its next bundle has issued (R60, R61, R65): its tag, address and power class are now the fold's, its
other slots may issue in this cycle, and bundle `n` is next. -/
def Fold.passes (x : Fold) (n : Nat) : Fold :=
  { x with
    ex := { x.ex with pwr := bundlePwr x.nextWord, lastBundle := x.ex.nextBundle, lastTag := bundleTag x.nextWord,
                      issued := true, slots := 0, bad := none, brkPass := false, wait := none,
                      sinceStall := x.ex.sinceStall + 1, nextBundle := n }
    db := { x.db with steps := x.db.steps - 1 } }

/-- The same for a bundle with a stall point: the count of R25 restarts, and an address that a tap names counts the
arrival (R425). -/
def Fold.passesStall (x : Fold) (tap : Bool) (n : Nat) : Fold :=
  let y := x.passes n
  let seen := peek 0 x.dr.arrivals x.ex.nextBundle + 1
  let counted := put 0 x.dr.arrivals x.ex.nextBundle seen
  { y with
    ex := { y.ex with sinceStall := 0, ctlDue := false }
    dr := { y.dr with arrivals := if tap then counted else x.dr.arrivals } }

/-- The same for a stall point in the qp slot: the ctl slot of the bundle is still to come. -/
def Fold.passesQp (x : Fold) (tap : Bool) : Fold :=
  let y := x.passesStall tap x.ex.nextBundle
  { y with ex := { y.ex with ctlDue := true } }

/-- The ctl slot of the bundle at issue, which holds instruction `i`, is still to come after its qp stall point. -/
structure CtlDue (s : State) (f : Nat) (i : Instr) : Prop where
  due  : (s.fold f).ex.ctlDue = true
  word : (s.fold f).ex.issues i = true

/-- Fold `x` once that ctl slot has followed: bundle `n` is next. -/
def Fold.ctlTaken (x : Fold) (n : Nat) : Fold := { x with ex := { x.ex with ctlDue := false, nextBundle := n } }

/-- Fold `x` after the single-bit error of its next bundle has been corrected, without the count (R418, log entry 108). -/
def Fold.bundleFixed (x : Fold) : Fold := { x with ex := { x.ex with berr := put 0 x.ex.berr x.ex.nextBundle 0 } }

/-- Slot `slot` of the bundle that has issued in this cycle holds instruction `i` (log entry 5) and may issue (R28, R65): it has
not yet, nothing overdue is in front of it, and no slot of the bundle has raised a fault. -/
structure SlotReady (s : State) (f slot : Nat) (i : Instr) : Prop where
  job     : s.job.isSome = true
  issued  : (s.fold f).ex.issued = true
  unused  : (s.fold f).ex.slots.getLsbD (slot - 1) = false
  settled : (s.fold f).ex.overdue = false
  run     : (s.fold f).ex.run = .running ∨ (s.fold f).ex.run = .ended
  good    : (s.fold f).ex.bad = none
  word    : (s.fold f).ex.issues i = true

/-- Fold `x` once slot `slot` of its bundle has issued. -/
def Fold.marks (x : Fold) (slot : Nat) : Fold :=
  { x with ex := { x.ex with slots := x.ex.slots ||| BitVec.ofNat 4 (2 ^ (slot - 1)) } }

/-- A part of the bundle at issue of fold `x`, due `after` cycles from issue, in rank `slot` among writes of one cycle. -/
def Fold.part (x : Fold) (read : Bool) (slot after : Nat) (op : DueOp) : Due :=
  { cycle := x.ex.cycle + after, read := read, issue := x.ex.cycle, slot := slot, tag := x.ex.lastTag,
    baddr := x.ex.lastBundle, op := op }

/-- Fold `x` with one more part due. -/
def Fold.owes (x : Fold) (d : Due) : Fold := { x with ex := { x.ex with due := addDue d x.ex.due } }

/-- Fold `x` with a unit occupied for `n` cycles from issue (R67). -/
def Fold.takes (x : Fold) (unit n : Nat) : Fold :=
  { x with ex := { x.ex with busy := put (0, 0) x.ex.busy unit (x.ex.cycle + n, x.ex.lastBundle) } }

/-- Fold `x` without its first due part. -/
def Fold.landed (x : Fold) : Fold := { x with ex := { x.ex with due := x.ex.due.tail } }

/-- The first due part of fold `f` is `d`, and its cycle has come; the fold holds a program. -/
def DueNow (s : State) (f : Nat) (d : Due) : Prop :=
  (s.fold f).ex.due.head? = some d ∧ d.cycle ≤ (s.fold f).ex.cycle ∧ (s.fold f).ex.run ≠ .idle

/-! ### The shepherd -/

/-- The shepherd of fold `f` reaches its next instruction, `i` (log entry 5): its job runs, no load of its own is on its way, the
debugger does not hold it, and the instruction's word holds no error (R72, R77, R190, R377, R418, R518). -/
structure ShReady (s : State) (f : Nat) (i : Instr) : Prop where
  job  : ∃ j, s.job = some j ∧ j.phase = .running
  load : ∀ a, (s.fold f).sh.acc = some a → a.store = true
  free : ((s.fold f).db.all && (s.fold f).db.busy) = false
  run  : (s.fold f).sh.run = .running
  whole : peek 0 (s.fold f).sh.ierr (s.fold f).sh.pc = 0
  word : inWord i (s.fold f).sh.word = true

/-- Shepherd `x` goes on at code address `n`. -/
def Shepherd.goesTo (x : Shepherd) (n : Nat) : Shepherd := { x with pc := n, run := .running, wait := none }

/-- Shepherd `x` goes on in sequence, with `v` written to register `r`; a write of s0 is ignored (R71). -/
def Shepherd.puts (x : Shepherd) (r : BitVec 5) (v : Word) : Shepherd :=
  let y := x.goesTo ((x.pc + 1) % 16384)
  { y with reg := if r = 0 then x.reg else put 0 x.reg r.toNat v }

/-! ### Descriptors -/

/-- Descriptor `d` of kind `kind` stands first in list `dl` of fold `f` and may start (R58, R230-R233): it breaks no rule of
its encoding, its start condition holds, its list is the next in turn, and nothing has started in this cycle. -/
structure Startable (s : State) (f dl kind : Nat) (d : Desc) : Prop where
  head  : (s.fold f).dr.head dl = some d
  kind  : d.kind = kind
  runs  : droverRuns s (s.fold f) = true
  enc   : d.decodeBad dl = false
  cond  : d.canStart (s.fold f) = true
  turn  : (s.fold f).firstInTurn dl = true
  first : (s.fold f).dr.lastStart ≠ some (s.fold f).ex.cycle
  late  : (s.fold f).late (s.fold f).ex.cycle = false
  waits : d.yields s (s.fold f) = false

/-- What a descriptor's start has done to fold `f` (R230, R231): the pennants it spends are spent, it is no longer first in
its list, and the rotation and the start cycle name it. -/
structure Started (s t : State) (f dl : Nat) (d : Desc) : Prop where
  spent : (t.fold f).qu.pn = d.spends.foldl (fun m p => put 0 m p.1 (peek 0 m p.1 - BitVec.ofNat 16 p.2)) (s.fold f).qu.pn
  taken : ((t.fold f).dr.list dl).buf = ((s.fold f).dr.list dl).buf.tail
  turn  : (t.fold f).dr.rot = dl
  cycle : (t.fold f).dr.lastStart = some (s.fold f).ex.cycle

/-! ### Fault reports -/

/-- Fold `f` reports one fault of this code to the abort controller of the running job (R409, R410). -/
def Raises (s t : State) (f code : Nat) : Prop :=
  ∃ j k r, s.job = some j ∧ t.job = some k ∧ k.reports = j.reports ++ [r] ∧ r.code = code ∧ r.lv = true ∧ r.lfold = f

/-- The running job reports one fault of this code that belongs to no fold (LV 0, R416). -/
def RaisesAlone (s t : State) (code : Nat) : Prop :=
  ∃ j k r, s.job = some j ∧ t.job = some k ∧ k.reports = j.reports ++ [r] ∧ r.code = code ∧ r.lv = false

/-- A job runs and can still fault. -/
def CanRaise (s : State) : Prop := ∃ j, s.job = some j ∧ j.open_ = true

/-! ### The dictionary -/

/-- The host's access through slot `n` of the window is performed: the link is up, the device is out of reset and not in
recovery mode, no write waits in the slot, the security lock is not set, and no run of debugger writes is open. -/
structure PathH (s : State) (n : Nat) : Prop where
  clocks : s.clocked = true
  up     : s.chip.cxlUp = true
  out    : s.chip.phase ≠ .held
  whole  : s.chip.phase ≠ .recovery
  free   : (s.slotOf n).wait = none
  locked : s.look.lock = false
  quiet  : s.dict.runs = []

/-- The host's write through slot `n` answers `code`, leaving a state with `p`. -/
def Writes (s : State) (n : Nat) (c : Instr) (code : Nat) (p : State → Prop) : Prop :=
  ∃ t, exec c s = .next t ∧ (t.slotOf n).code.toNat = code ∧ p t

/-- The host's write through slot `n` is refused with `code` and changes nothing but the slot. -/
def Refuses (s : State) (n : Nat) (c : Instr) (code : Nat) : Prop :=
  Writes s n c code fun t => t.job = s.job ∧ t.folds = s.folds ∧ t.host = s.host ∧ t.msd = s.msd ∧ t.rig = s.rig ∧ t.chip = s.chip

/-- The host's write is accepted for the lookout to perform (R396). -/
def Accepts (s : State) (n : Nat) (c : Instr) (i sub off v : Nat) : Prop :=
  Writes s n c codePending fun t => (t.slotOf n).wait = some (i, sub, off, v) ∧ t.look = s.look ∧ t.job = s.job

/-- Fold `f` of the grade is open to the debugger: it is not under a block-level reset, and its self-test has run (R445). -/
structure DebugOpen (s : State) (f : Nat) : Prop where
  inGrade : f < s.chip.grade.folds
  whole   : s.chip.blockReset.getLsbD f = false
  tested  : s.chip.quadsTested.getLsbD (f / 4) = true

/-! ### The rigging -/

/-- Every link on which a tree forwards is a link of the grade (R347, R442). -/
def TreeLinks (s : State) (tree : Nat) : Prop :=
  ∀ l ∈ maskLinks (peek Tree.init s.rig.trees tree).children, l < s.chip.grade.links

/-! ### Status and reset -/

/-- Bit `b` of the status copies of all three paths is set (R402). -/
def StatusBit (s : State) (b : Nat) : Prop := ∀ path < 3, (peek 0 s.dict.status path).getLsbD b = true

/-- State `t` is a device reset of `s` by source `src` (R464, R467, R469): everything is in its reset state but the queue of
commands, what flash, fuses, straps and the host hold, and the records of the reset. -/
structure ResetBy (s t : State) (src : Nat) : Prop where
  pending : t.pending = s.pending
  phase   : t.chip.phase = .held
  cause   : t.chip.cause = s.causeAfter src
  ended   : t.chip.ended = s.chip.ended ++ s.jobsHeld
  folds   : t.folds = []
  job     : t.job = none
  saved   : t.saved = []
  dict    : t.dict = .init
  mem     : t.msd.mem = []
  ports   : t.msd.ports = []
  fatal   : t.chip.fatal = 0
  grade   : t.chip.grade = s.chip.grade
  node    : t.rig.nodeId = (s.keptAfter (decide (src = srcPower))).node.now 0
  links   : t.rig.links = []
  log     : t.look.log = s.look.log
  hostMem : t.host.hostMem = s.host.hostMem
  rings   : t.host.rings = []

end Sys2Proof.Machine
end

