-- ==== Sys2Proof/Certificates/Slice0/Obligations.lean ====
section
/-! DEFINITION. The statements for the provers. -/

open Sys2Proof Sys2Proof.Machine

/-! ### The ctl slot -/

/-- A bundle whose ctl slot holds ctl.nop, ctl.br, ctl.lset or ctl.loop issues, and nothing but its fold changes: the loop
counter and the next bundle are as R50, R51 and R63 say; ctl.br goes to its target and the others to the following address. The same
ctl slot of a bundle whose stall point stands in its qp slot follows that (R22, R65, log entry 5). A single-bit error in the bundle's
memory is corrected and counted, and the bundle issues as it would without it (R418; the counter is log entry 108's). -/
def Obligations.CtlSlotMovesOn : Prop :=
  (∀ (s : State) (f : FoldId), s.clocked = true →
    let x := s.fold f.toNat
    let b := x.ex.nextBundle
    (Ready s f.toNat (.ctlNop f) none → exec (.ctlNop f) s = .next (s.setFold f.toNat (x.passes (b + 1)))) ∧
    (∀ target : BitVec 12, Ready s f.toNat (.ctlBr f target) none →
      exec (.ctlBr f target) s = .next (s.setFold f.toNat (x.passes target.toNat))) ∧
    (∀ (lc : BitVec 2) (count : BitVec 16), Ready s f.toNat (.ctlLset f lc count) none →
      let y := x.passes (b + 1)
      exec (.ctlLset f lc count) s =
        .next (s.setFold f.toNat { y with ex := { y.ex with loops := put 0 x.ex.loops lc.toNat (count.toNat + 1) } })) ∧
    (∀ (lc : BitVec 2) (target : BitVec 12), Ready s f.toNat (.ctlLoop f lc target) none →
      let n := peek 0 x.ex.loops lc.toNat
      let y := x.passes (if 1 < n then target.toNat else b + 1)
      exec (.ctlLoop f lc target) s =
        .next (s.setFold f.toNat { y with ex := { y.ex with loops := put 0 x.ex.loops lc.toNat (n - 1) } }))) ∧
  (∀ (s : State) (f : FoldId), s.clocked = true →
    let x := s.fold f.toNat
    let b := x.ex.lastBundle
    (CtlDue s f.toNat (.ctlNop f) → exec (.ctlNop f) s = .next (s.setFold f.toNat (x.ctlTaken (b + 1)))) ∧
    (∀ target : BitVec 12, CtlDue s f.toNat (.ctlBr f target) →
      exec (.ctlBr f target) s = .next (s.setFold f.toNat (x.ctlTaken target.toNat))) ∧
    (∀ (lc : BitVec 2) (count : BitVec 16), CtlDue s f.toNat (.ctlLset f lc count) →
      let y := x.ctlTaken (b + 1)
      exec (.ctlLset f lc count) s =
        .next (s.setFold f.toNat { y with ex := { y.ex with loops := put 0 x.ex.loops lc.toNat (count.toNat + 1) } })) ∧
    (∀ (lc : BitVec 2) (target : BitVec 12), CtlDue s f.toNat (.ctlLoop f lc target) →
      let n := peek 0 x.ex.loops lc.toNat
      let y := x.ctlTaken (if 1 < n then target.toNat else b + 1)
      exec (.ctlLoop f lc target) s =
        .next (s.setFold f.toNat { y with ex := { y.ex with loops := put 0 x.ex.loops lc.toNat (n - 1) } }))) ∧
  (∀ (s : State) (f : FoldId), s.clocked = true →
    let x := s.fold f.toNat
    x.ex.run = .running → peek 0 x.ex.berr x.ex.nextBundle = 1 →
    Ready (s.setFold f.toNat x.bundleFixed) f.toNat (.ctlNop f) none →
    ∃ t, exec (.ctlNop f) s = .next t ∧
      t.fold f.toNat = ({ x.bundleFixed with sp := { x.sp with eccCount := ctrAdd x.sp.eccCount 1 } } : Fold).passes (x.ex.nextBundle + 1))

/-- A ctl stall point whose condition holds issues: ctl.wait removes the oldest token of its tag, ctl.arm subtracts 1, clears
the valid bit and branches to the arm register, ctl.yield only goes on; nothing else changes, but for the trace (R22, R23, R33,
R52). ctl.arm whose arm register holds no address of its window does not issue: an arm fault goes to the abort controller (R52),
and the fold stops there, as log entry 19 says. sh.arm sets the valid bit (R52). -/
def Obligations.CtlStallPointIssues : Prop :=
  (∀ (s : State) (f : FoldId) (sa : BitVec 5) (imm : BitVec 15), s.clocked = true → ShReady s f.toNat (.shArm f sa imm) →
     ∃ t, exec (.shArm f sa imm) s = .next t ∧ (t.fold f.toNat).ex.armValid = true) ∧
  (∀ (s : State) (f : FoldId), s.clocked = true →
     let x := s.fold f.toNat
     let b := x.ex.nextBundle
     let y := x.passesStall (tapped s x b) (b + 1)
     (∀ tag : BitVec 12, Ready s f.toNat (.ctlWait f tag) (some (.token tag)) → tag ∈ x.dr.tokens →
       ∃ t, exec (.ctlWait f tag) s = .next t ∧ Others s t f.toNat ∧
         (t.fold f.toNat).untraced = ({ y with dr := { y.dr with tokens := x.dr.tokens.erase tag } } : Fold).untraced) ∧
     (∀ (pn : BitVec 6) (base : BitVec 12) (span : BitVec 8), Ready s f.toNat (.ctlArm f pn base span) (some (.arm pn)) →
       1 ≤ (peek 0 x.qu.pn pn.toNat).toNat → x.ex.armValid = true →
       base.toNat ≤ x.ex.armAddr.toNat → x.ex.armAddr.toNat < base.toNat + 16 * span.toNat →
       ∃ t, exec (.ctlArm f pn base span) s = .next t ∧ Others s t f.toNat ∧
         (t.fold f.toNat).untraced =
           ({ y with
               ex := { y.ex with nextBundle := x.ex.armAddr.toNat, armValid := false }
               qu := { y.qu with pn := put 0 x.qu.pn pn.toNat (peek 0 x.qu.pn pn.toNat - 1) } } : Fold).untraced) ∧
     (Ready s f.toNat (.ctlYield f) (some .end_) →
       ∃ t, exec (.ctlYield f) s = .next t ∧ Others s t f.toNat ∧ (t.fold f.toNat).untraced = y.untraced)) ∧
  (∀ (s : State) (f : FoldId) (pn : BitVec 6) (base : BitVec 12) (span : BitVec 8) (j : Job), s.clocked = true →
     let x := s.fold f.toNat
     Ready s f.toNat (.ctlArm f pn base span) (some (.arm pn)) → s.job = some j → j.open_ = true →
     1 ≤ (peek 0 x.qu.pn pn.toNat).toNat →
     (x.ex.armValid = false ∨ x.ex.armAddr.toNat < base.toNat ∨ base.toNat + 16 * span.toNat ≤ x.ex.armAddr.toNat) →
     ∃ t j' r, exec (.ctlArm f pn base span) s = .next t ∧ (t.fold f.toNat).ex.run = .stopped ∧
       (t.fold f.toNat).qu.pn = x.qu.pn ∧ (t.fold f.toNat).ex.armAddr = x.ex.armAddr ∧
       (t.fold f.toNat).ex.armValid = x.ex.armValid ∧ t.job = some j' ∧ j'.reports = j.reports ++ [r] ∧ r.code = 0x1C ∧
       r.lfold = f.toNat ∧ r.addr = x.ex.nextBundle)

/-- At ctl.end, once no transfer is left and no descriptor could start, the fold stops: its tokens and unstarted descriptors
are gone, every queue of its region table is closed, and the barriers count it as arrived (R22, R34, R43, R233, R295). A fold arrives
at ctl.step and waits there, and records the wait where some fold of the job has still to arrive (R23, R527); when every fold of the job
waits there or has ended, STEP_BARRIER advances the step counter by exactly 1 and every waiting fold goes on to its following address
(R34). At the last step of a replay window the waiting folds in which the condition of ctl.end holds stop instead, and the others wait on
(R426); at the counter's largest value the fold that arrived last raises a step overflow fault and stops (R432, log entry 19). -/
def Obligations.CtlEndAndStepBarrier : Prop :=
  (∀ (s : State) (f : FoldId), s.clocked = true →
     let x := s.fold f.toNat
     Ready s f.toNat (.ctlEnd f) (some .end_) → x.dr.xfers = [] → x.nothingStarts = true →
     ∃ t, exec (.ctlEnd f) s = .next t ∧ (t.fold f.toNat).ex.run = .ended ∧ (t.fold f.toNat).dr.tokens = [] ∧
       (∀ l < 4, (t.fold f.toNat).dr.list l = .init) ∧
       (∀ e ∈ x.qu.qtab, ((t.fold f.toNat).queue e.1).closed = true) ∧
       t.msd = s.msd ∧ t.job.map (·.lastArrive) = some f.toNat) ∧
  ((∀ (s : State) (f : FoldId) (j : Job), s.clocked = true →
    Ready s f.toNat (.ctlStep f) (some .step) → (s.fold f.toNat).ex.wait = none → s.job = some j →
     let x := s.fold f.toNat
     let arrived := s.setFold f.toNat { x with ex := { x.ex.govern with wait := some (.start .step x.ex.cycle false) } }
     ∃ t, exec (.ctlStep f) s = .next t ∧ t.job = some { j with lastArrive := f.toNat } ∧
       (t.fold f.toNat).ex.wait = some (.start .step x.ex.cycle !allArrived arrived j) ∧
       (t.fold f.toNat).ex.lastBundle = (s.fold f.toNat).ex.nextBundle) ∧
   (∀ (s : State) (j : Job), s.clocked = true →
     s.job = some j → barrierMet s j = true → j.windowEnds = false → j.step < 2 ^ 64 - 1 →
     ∃ t, exec .stepBarrier s = .next t ∧ t.job.map (·.step) = some (j.step + 1) ∧
       (∀ g ∈ j.places, (s.fold g).ex.wait.map (·.on) = some .step →
         (t.fold g).ex.wait = none ∧ (t.fold g).ex.nextBundle = (s.fold g).ex.nextBundle + 1) ∧
       (∀ g, g ∉ j.places → t.fold g = s.fold g)) ∧
   (∀ (s : State) (j : Job), s.clocked = true → s.job = some j → barrierMet s j = true → j.windowEnds = true →
     ∃ t, exec .stepBarrier s = .next t ∧ t.job.map (·.step) = some j.step ∧
       (∀ g ∈ j.places, (s.fold g).ex.wait.map (·.on) = some .step →
         if endHolds (s.fold g) then (t.fold g).ex.run = .ended ∧ (t.fold g).ex.wait = none ∧ (t.fold g).dr.tokens = []
         else (t.fold g).ex = (s.fold g).ex)) ∧
   (∀ (s : State) (j : Job), s.clocked = true → s.job = some j → barrierMet s j = true → j.windowEnds = false → j.step = 2 ^ 64 - 1 →
     j.open_ = true →
     ∃ t, exec .stepBarrier s = .next t ∧ Raises s t j.lastArrive 0x25 ∧ (t.fold j.lastArrive).ex.run = .stopped ∧
       t.job.map (·.step) = some j.step))

/-- A stall point of ctl.wait, ctl.arm, ctl.end, q.send, q.recv, q.sel, pn.wait or pn.gwait whose condition does not hold leaves its
bundle waiting: nothing is consumed, the bundle has not issued, and the fold names what it waits for (R22, R23, R287, R303); pn.gwait also
binds its global pennant to the fold (R303). The arrival at ctl.step is CtlEndAndStepBarrier's. A wait that reaches the limit of its
no-progress timer ends in a no-progress fault with the wait report, whether the execute engine or the shepherd waits; before the limit
nothing happens (R27, R75, R305, R306). That the fold or the shepherd then stands still is log entry 19's. -/
def Obligations.WaitsAndNoProgress : Prop :=
  (∀ (s : State) (f : FoldId), s.clocked = true →
     let x := s.fold f.toNat
     let waits (c : Instr) (on : WaitOn) := ∃ t, exec c s = .next t ∧ Others s t f.toNat ∧
       (t.fold f.toNat).untraced = ({ x with ex := { x.ex.govern with wait := some (.start on x.ex.cycle true) } } : Fold).untraced
     x.ex.wait = none →
     (∀ tag, Ready s f.toNat (.ctlWait f tag) (some (.token tag)) → tag ∉ x.dr.tokens → waits (.ctlWait f tag) (.token tag)) ∧
     (∀ pn n, Ready s f.toNat (.pnWait f pn n) (some (.pn pn n)) → (peek 0 x.qu.pn pn.toNat).toNat < n.toNat →
       waits (.pnWait f pn n) (.pn pn n)) ∧
     (∀ pn base span, Ready s f.toNat (.ctlArm f pn base span) (some (.arm pn)) → peek 0 x.qu.pn pn.toNat = 0 →
       waits (.ctlArm f pn base span) (.arm pn)) ∧
     (Ready s f.toNat (.ctlEnd f) (some .end_) → x.dr.xfers ≠ [] ∨ x.nothingStarts = false → waits (.ctlEnd f) .end_) ∧
     (∀ ch lines src, Ready s f.toNat (.qSend f ch lines src) (some (.send ch)) →
       sendBad ch.toNat (lines.toNat + 1) src.toNat s x = none → (x.chan ch.toNat).credits = 0 → waits (.qSend f ch lines src) (.send ch)) ∧
     (∀ q, Ready s f.toNat (.qRecv f q) (some (.recv q)) → (x.qent q.toNat).lines ≠ 0 → (x.queue q.toNat).msgs = [] →
       waits (.qRecv f q) (.recv q)) ∧
     (∀ ms ord rot mask,
       let set := if ms then x.ex.selMask else mask
       Ready s f.toNat (.qSel f ms ord rot mask) (some (.sel set)) → set ≠ 0 →
       (∀ i < 16, set.getLsbD i = true → (x.qent i).lines ≠ 0) → selChoice s.reefed ord rot set x = none →
       waits (.qSel f ms ord rot mask) (.sel set))) ∧
  (∀ (s : State) (f : FoldId) (g : BitVec 6) (n : BitVec 8) (j : Job), s.clocked = true → s.job = some j →
     let x := s.fold f.toNat
     x.ex.wait = none → Ready s f.toNat (.pnGwait f g n) (some (.gpn g n)) →
     (peek none j.gOwn g.toNat = none ∨ peek none j.gOwn g.toNat = some x.ex.prog) → (peek 0 j.gpn g.toNat).toNat < n.toNat →
     ∃ t k, exec (.pnGwait f g n) s = .next t ∧ t.job = some k ∧ k.gpn = j.gpn ∧ peek none k.gOwn g.toNat = some x.ex.prog ∧
       (t.fold f.toNat).untraced =
         ({ x with ex := { x.ex.govern with wait := some (.start (.gpn g n) x.ex.cycle true) } } : Fold).untraced) ∧
  (∀ (s : State) (f : FoldId) (j : Job), s.clocked = true → s.job = some j → j.open_ = true →
     let x := s.fold f.toNat
     (∀ w, x.ex.tally = none → x.ex.wait = some w →
       (w.cycles < j.npLimit → exec (.noProgress f false) s = .next s) ∧
       (j.npLimit ≤ w.cycles →
         ∃ t k r, exec (.noProgress f false) s = .next t ∧ t.job = some k ∧ k.reports = j.reports ++ [r] ∧ r.code = 0x30 ∧
           r.lfold = f.toNat ∧ r.detail = waitReport s x w.on % 2 ^ 64 ∧ (t.fold f.toNat).ex.run = .stopped ∧
           (t.fold f.toNat).ex.wait = none)) ∧
     (∀ w, x.sh.wait = some w →
       (w.cycles < j.npLimit → exec (.noProgress f true) s = .next s) ∧
       (j.npLimit ≤ w.cycles → x.ex.run ≠ .idle →
         ∃ t k r, exec (.noProgress f true) s = .next t ∧ t.job = some k ∧ k.reports = j.reports ++ [r] ∧ r.code = 0x30 ∧
           r.lfold = f.toNat ∧ r.engine = engShepherd ∧ r.detail = waitReport s x w.on % 2 ^ 64 ∧
           (t.fold f.toNat).sh.run = .halted)))

/-! ### The qp slot, messages and pennants -/

/-- q.nop, q.smr, q.pop, pn.inc and pn.ginc issue in their bundle's cycle: q.smr writes the select mask, q.pop releases the
head message of its queue and returns one credit to the channel bound to it, which on this device is on its way to the
sending fold (R53, R293, R294), pn.inc sends its increment on its way and grants the space windows it carries credits for (R112,
R300), and pn.ginc adds to this device's copy in its own cycle (R303; that it waits for none of the cycles R303 and R70 allow is log entry
23's). A credit that a release of an aborted job would give stays inside the fold (R410). -/
def Obligations.QpSlotIssues : Prop :=
  (∀ (s : State) (f : FoldId), s.clocked = true →
     let x := s.fold f.toNat
     let y := x.marks 4
     (SlotReady s f.toNat 4 (.qNop f) → exec (.qNop f) s = .next (s.setFold f.toNat y)) ∧
     (∀ mask, SlotReady s f.toNat 4 (.qSmr f mask) → exec (.qSmr f mask) s = .next (s.setFold f.toNat { y with ex := { y.ex with selMask := mask } })) ∧
     (∀ (q : BitVec 4) (b : Binding) (m : MsgRec) (rest : List MsgRec),
       let u := x.queue q.toNat
       let v : Queue := { u with msgs := rest, head := (u.head + 1) % b.ncred }
       SlotReady s f.toNat 4 (.qPop f q) → (x.qent q.toNat).lines ≠ 0 → x.holds q.toNat = true → u.bound = some b →
       u.msgs = m :: rest → exec (.qPop f q) s = .next (returnCredit f.toNat b (s.setFold f.toNat
         { y with qu := { y.qu with queues := put Queue.init x.qu.queues q.toNat v, popNow := some (q.toNat, m) } }))) ∧
     (∀ (p : BitVec 5) (pn : BitVec 6) (inc : BitVec 8) (j : Job) (g : Nat),
       SlotReady s f.toNat 4 (.pnInc f p pn inc) → s.job = some j → j.phase ≠ .aborting → j.place p.toNat = some g →
       let m : PnMsg := { own := decide (f.toNat = g), dst := g, pn := pn.toNat, inc := inc.toNat,
                          due := x.ex.cycle + (if f.toNat = g then 2 else 32), engine := engQueue, akind := 1,
                          addr := x.ex.lastBundle, tag := x.ex.lastTag }
       exec (.pnInc f p pn inc) s = .next (s.setFold f.toNat
         (({ y with qu := { y.qu with outPn := x.qu.outPn ++ [m] } } : Fold).grant p.toNat pn.toNat inc.toNat))) ∧
     (∀ (g : BitVec 6) (inc : BitVec 8) (j : Job),
       SlotReady s f.toNat 4 (.pnGinc f g inc) → s.job = some j → j.phase ≠ .aborting → gpnEnc inc = true → (peek 0 j.gpn g.toNat).toNat + inc.toNat ≤ 0xFFFF →
       (∀ t root, s.group g.toNat = some (t, root) → root ≠ s.rig.nodeId.toNat → (s.route root x.ex.prog).isSome = true) →
       ∃ t k, exec (.pnGinc f g inc) s = .next t ∧ t.job = some k ∧ t.fold f.toNat = y ∧
         peek 0 k.gpn g.toNat = peek 0 j.gpn g.toNat + BitVec.ofNat 16 inc.toNat)) ∧
  (∀ (s : State) (f : Nat) (b : Binding), s.aborting = true → returnCredit f b s = s) ∧
  (∀ (s : State) (f : Nat) (b : Binding) (j : Job) (g : Nat), s.aborting = false → s.job = some j → b.tree = none → b.node = none →
     j.place b.fold = some g →
     returnCredit f b s =
       s.onFold g fun x => { x with qu := { x.qu with credIn := x.qu.credIn ++ [(b.ch, s.by48 g)] } })

/-- A qp stall point whose condition holds issues, and the ctl slot of its bundle is still to come: q.send spends one credit and takes the
next slot at its receiver, q.recv makes the queue's number the select result in the next cycle, pn.wait and pn.gwait subtract what they
wait for (R22, R23, R36, R286, R287, R299, R303). -/
def Obligations.QpStallPointIssues : Prop :=
  ∀ (s : State) (f : FoldId) (j : Job), s.clocked = true → s.job = some j →
    let x := s.fold f.toNat
    let y := x.passesQp (tapped s x x.ex.nextBundle)
    let selResult (q : BitVec 4) : Due :=
      { cycle := x.ex.cycle + 1, read := false, issue := x.ex.cycle, slot := rankQp, tag := bundleTag x.nextWord,
        baddr := x.ex.nextBundle, op := .selres q }
    let spent (c : Nat) : Chan :=
      { x.chan c with credits := (x.chan c).credits - 1, ptr := ((x.chan c).ptr + 1) % (x.cent c).ncred,
                      sendCnt := (x.chan c).sendCnt + 1 }
    (∀ (ch : BitVec 4) (lines : BitVec 4) (src : BitVec 17),
      Ready s f.toNat (.qSend f ch lines src) (some (.send ch)) →
      sendBad ch.toNat (lines.toNat + 1) src.toNat s x = none → 1 ≤ (x.chan ch.toNat).credits →
      ∃ t m, exec (.qSend f ch lines src) s = .next t ∧ Others s t f.toNat ∧
        (t.fold f.toNat).qu.chans = put Chan.init x.qu.chans ch.toNat (spent ch.toNat) ∧
        (t.fold f.toNat).qu.outMsg = x.qu.outMsg ++ [m] ∧ m.ch = ch.toNat ∧ m.lines = lines.toNat + 1 ∧
        m.slot = (x.chan ch.toNat).ptr ∧ m.tally = (x.chan ch.toNat).sendCnt ∧ m.ready = false ∧ m.data = [] ∧
        (t.fold f.toNat).ex.ctlDue = true ∧ (t.fold f.toNat).ex.wait = none ∧ (t.fold f.toNat).qu.pn = x.qu.pn) ∧
    (∀ q : BitVec 4, Ready s f.toNat (.qRecv f q) (some (.recv q)) → (x.qent q.toNat).lines ≠ 0 → (x.queue q.toNat).msgs ≠ [] →
      ∃ t, exec (.qRecv f q) s = .next t ∧ Others s t f.toNat ∧
        (t.fold f.toNat).untraced =
          ({ y with ex := { y.ex with due := addDue (selResult q) x.ex.due } } : Fold).untraced) ∧
    (∀ (pn : BitVec 6) (n : BitVec 8), Ready s f.toNat (.pnWait f pn n) (some (.pn pn n)) →
      n.toNat ≤ (peek 0 x.qu.pn pn.toNat).toNat →
      ∃ t, exec (.pnWait f pn n) s = .next t ∧ Others s t f.toNat ∧
        (t.fold f.toNat).untraced =
          ({ y with qu := { y.qu with pn := put 0 x.qu.pn pn.toNat (peek 0 x.qu.pn pn.toNat - BitVec.ofNat 16 n.toNat) } }
            : Fold).untraced) ∧
    (∀ (g : BitVec 6) (n : BitVec 8), Ready s f.toNat (.pnGwait f g n) (some (.gpn g n)) →
      (peek none j.gOwn g.toNat = none ∨ peek none j.gOwn g.toNat = some x.ex.prog) →
      n.toNat ≤ (peek 0 j.gpn g.toNat).toNat →
      ∃ t k, exec (.pnGwait f g n) s = .next t ∧ (t.fold f.toNat).untraced = y.untraced ∧ t.job = some k ∧
        k.gpn = put 0 j.gpn g.toNat (BitVec.ofNat 16 ((peek 0 j.gpn g.toNat).toNat - n.toNat)) ∧
        peek none k.gOwn g.toNat = some x.ex.prog)

/-- q.sel issues when a queue of its set holds a message that it may serve: the number of the queue it serves becomes the
select result in the next cycle, and an ordered select that completes a reduction out of order counts in the glean
counter (R36, R54). Outside reefed mode a select without ROT serves the queue of lowest number that holds a message, and
a select with ROT the first such queue after the rotation pointer, which then points at it; it waits exactly when no
queue of the set holds one. In reefed mode it waits for the first queue of the set in the same order. The rotation pointer
is 15 at job start (R290). -/
def Obligations.SelectsServe : Prop :=
  (∀ (s : State) (f : FoldId) (ms ord rot : Bool) (mask : BitVec 16) (q : Nat) (j : Job), s.clocked = true →
     let x := s.fold f.toNat
     let set := if ms then x.ex.selMask else mask
     let y := x.passesQp (tapped s x x.ex.nextBundle)
     let z := selTake ord rot q y.ex
     let result : Due :=
       { cycle := x.ex.cycle + 1, read := false, issue := x.ex.cycle, slot := rankQp, tag := bundleTag x.nextWord,
         baddr := x.ex.nextBundle, op := .selres (BitVec.ofNat 4 q) }
     s.job = some j → Ready s f.toNat (.qSel f ms ord rot mask) (some (.sel set)) → set ≠ 0 →
     (∀ i < 16, set.getLsbD i = true → (x.qent i).lines ≠ 0) → selChoice j.reefed ord rot set x = some q →
     ∃ t, exec (.qSel f ms ord rot mask) s = .next t ∧
       (t.fold f.toNat).untraced =
         ({ y with ex := { z with due := addDue result x.ex.due } } : Fold).untraced ∧
       t.job = some (if selGleans j.reefed ord q x.ex then { j with glean := satAdd 32 j.glean 1 } else j) ∧
       ∀ g, g ≠ f.toNat → t.fold g = s.fold g) ∧
  (∀ (x : Fold) (set : BitVec 16) (ord : Bool),
     (∀ q, selChoice false ord false set x = some q ↔
       q < 16 ∧ set.getLsbD q = true ∧ x.holds q = true ∧ ∀ p < q, set.getLsbD p = true → x.holds p = false) ∧
     (∀ q, selChoice false ord true set x = some q ↔
       ∃ i < 16, q = (x.ex.rp + 1 + i) % 16 ∧ set.getLsbD q = true ∧ x.holds q = true ∧
         ∀ k < i, set.getLsbD ((x.ex.rp + 1 + k) % 16) = true → x.holds ((x.ex.rp + 1 + k) % 16) = false) ∧
     (∀ rot, selChoice false ord rot set x = none ↔ ∀ q < 16, set.getLsbD q = true → x.holds q = false) ∧
     (∀ q, selChoice true false false set x = some q ↔
       q < 16 ∧ set.getLsbD q = true ∧ x.holds q = true ∧ ∀ p < q, set.getLsbD p = false) ∧
     (∀ q, selChoice true false true set x = some q ↔
       ∃ i < 16, q = (x.ex.rp + 1 + i) % 16 ∧ set.getLsbD q = true ∧ x.holds q = true ∧
         ∀ k < i, set.getLsbD ((x.ex.rp + 1 + k) % 16) = false)) ∧
  (∀ (e : Exec) (q : Nat), selTake false true q e = { e with rp := q } ∧ selTake false false q e = e) ∧
  (∀ (s t : State) (bad : JobReads) (j : Job), s.job = none → exec (.jobStart bad) s = .next t → t.job = some j →
     ∀ f ∈ j.places, (t.fold f).ex.rp = 15)

/-- The lines of a message of this device reach the fold it names, to land in its slot of the queue, and the sender knows them
gone; once the last has landed, a message that passes both compares is held by its queue, whose count goes on (R286, R288). A
credit, a revocation and the notices of the channels arrive at the fold they name, and when every notice of a fold binds, each
channel is bound to the queue it names, under its own slots (R285, R292, R295). Over the rigging, the first message of a channel binds its
queue where it fits, and it or a message of a tree at a LOCAL member then lands in its slot; where it does not fit, or where the queue is
closed, the message is refused, and the refusal is a fault of the fold that sent it; credits and revocations arrive as on one device
(R285, R293, R295, R296, R345, R348). -/
def Obligations.QueueTrafficArrives : Prop :=
  (∀ (s : State) (f : FoldId) (j : Job), s.clocked = true → s.job = some j →
     (∀ (g : FoldId) (ch : BitVec 4) (m : OutMsg),
       let x := s.fold g.toNat
       let e := x.cent ch.toNat
       let y := s.fold f.toNat
       let n : InMsg :=
         { q := e.dq, from_ := { node := none, fold := x.ex.prog, ch := ch.toNat, slotm1 := e.slotm1, ncred := e.ncred, tree := none },
           rec_ := { slot := m.slot, lines := m.lines, node := none, fold := x.ex.prog },
           line := (y.qent e.dq).base + m.slot * (e.slotm1 + 1), left := pieces 64 m.data, crc := 0xFFFFFFFF,
           want := m.crc, tally := m.tally, seq := m.seq, tag := m.tag }
       headMsg x ch.toNat = some m → x.ex.run ≠ .idle → y.ex.run ≠ .idle → e.rem = false →
       j.place e.dfold = some f.toNat → s.receives = true → (y.queue e.dq).closed = false →
       ∃ t, exec (.messageArrival f (.here g ch) true) s = .next t ∧ (t.fold f.toNat).qu.inMsgs = y.qu.inMsgs ++ [n] ∧
         (∃ o ∈ (t.fold g.toNat).qu.outMsg, o.seq = m.seq ∧ o.reached = true) ∧ t.msd = s.msd ∧ t.job = s.job) ∧
     (∀ (q : BitVec 4) (m : InMsg),
       let x := s.fold f.toNat
       let u := x.queue q.toNat
       (x.qu.inMsgs.find? fun n => decide (n.q = q.toNat)) = some m → m.left = [] → x.ex.run ≠ .idle → s.receives = true →
       u.closed = false → m.crc ^^^ 0xFFFFFFFF = m.want → m.tally = u.expect →
       ∃ t, exec (.messageArrival f (.landed q) true) s = .next t ∧
         ((t.fold f.toNat).queue q.toNat).msgs = u.msgs ++ [m.rec_] ∧
         ((t.fold f.toNat).queue q.toNat).expect = u.expect + 1 ∧
         (t.fold f.toNat).qu.inMsgs = x.qu.inMsgs.eraseP (fun n => decide (n.q = q.toNat)) ∧ t.msd = s.msd ∧ t.job = s.job) ∧
     (∀ (g : FoldId) (ch : BitVec 4),
       let x := s.fold f.toNat
       (∃ e ∈ x.qu.credIn, e.1 = ch.toNat) → x.ex.run ≠ .idle → (x.chan ch.toNat).closed = false →
       ∃ t, exec (.creditReturn f (.here g ch)) s = .next t ∧ Others s t f.toNat ∧
         ((t.fold f.toNat).chan ch.toNat) = { x.chan ch.toNat with sent := (x.chan ch.toNat).sent.tail, credits := (x.chan ch.toNat).credits + 1 } ∧
         (t.fold f.toNat).qu.credIn = takeArrival ch.toNat x.qu.credIn) ∧
     (∀ (g : FoldId) (ch : BitVec 4),
       let x := s.fold f.toNat
       (∃ e ∈ x.qu.revIn, e.1 = ch.toNat) → x.ex.run ≠ .idle →
       ∃ t, exec (.queueRevocation f (.here g ch)) s = .next t ∧ Others s t f.toNat ∧
         ((t.fold f.toNat).chan ch.toNat).closed = true ∧ ((t.fold f.toNat).chan ch.toNat).credits = 0) ∧
     (let x := s.fold f.toNat
      x.qu.bound = false → f.toNat ∈ j.places → (∀ g ∈ j.places, (s.fold g).ex.run = .loaded) →
       (bindAll x (notices s j x.ex.prog)).2 = none →
       let y := (bindAll x (notices s j x.ex.prog)).1
       exec (.bindingNotice f) s = .next (s.setFold f.toNat { y with qu := { y.qu with bound := true } }))) ∧
  (∀ (s u : State) (f : FoldId) (h : FlitIn) (m : NetMsg) (j : Job), s.clocked = true → u.job = some j → j.place m.dfold.toNat = some f.toNat →
     let y := u.fold f.toNat
     let q := m.dq.toNat
     let lines := (y.qent q).lines
     let bound (tree : Option Nat) : Binding :=
       { node := some h.src.toNat, fold := h.fold.toNat, ch := m.ch.toNat, slotm1 := m.slotm1.toNat, ncred := m.ncred.toNat, tree := tree }
     let fits (b : Binding) := (y.queue q).bound = some b ∨
       ((y.queue q).bound = none ∧ lines ≠ 0 ∧ m.ncred.toNat * (m.slotm1.toNat + 1) ≤ lines)
     let takes (c : Instr) (b : Binding) :=
       let n : InMsg :=
         { q := q, from_ := b, rec_ := { slot := m.slot.toNat, lines := m.data.length / 64, node := some h.src.toNat, fold := h.fold.toNat },
           line := (y.qent q).base + m.slot.toNat * (m.slotm1.toNat + 1), left := pieces 64 m.data, crc := 0xFFFFFFFF,
           want := m.crc.toNat, tally := h.tally, seq := 0, tag := 0 }
       fits b → (y.queue q).closed = false →
         ∃ t, exec c s = .next t ∧ (t.fold f.toNat).qu.inMsgs = y.qu.inMsgs ++ [n] ∧
           ((t.fold f.toNat).queue q).bound = some b ∧ t.msd = u.msd ∧ t.job = u.job
     (h.dst = s.rig.nodeId → s.receives = true → s.acceptFlit h 2 (packetFlits m.data.length) = some u →
       let c := Instr.messageArrival f (.rig h m) true
       takes c (bound none) ∧
       let refused binding := u.refuseMsg h.src.toNat h.fold.toNat m.ch.toNat m.slot.toNat m.dfold.toNat binding
       (¬ fits (bound none) → exec c s = .next (refused true)) ∧
       (fits (bound none) → (y.queue q).closed = true → exec c s = .next (refused false))) ∧
     (∀ (tree : BitVec 6) (k : TreeHead) (data : List Byte), k.msg data = m → s.acceptFlit h 2 (packetFlits data.length) = some u →
       (peek Tree.init u.rig.trees tree.toNat).loc = true → u.receives = true → TreeLinks u tree.toNat →
       takes (.treeMessage h tree k data) (bound (some tree.toNat))) ∧
     (h.dst = s.rig.nodeId → s.ownerOf m = some f.toNat → s.acceptFlit h 3 1 = some u →
       let v := y.chan m.ch.toNat
       (v.closed = false → ∃ t, exec (.creditReturn f (.rig h m)) s = .next t ∧ Others u t f.toNat ∧
         ((t.fold f.toNat).chan m.ch.toNat) = { v with sent := v.sent.tail, credits := v.credits + 1 }) ∧
       (∃ t, exec (.queueRevocation f (.rig h m)) s = .next t ∧ Others u t f.toNat ∧
         ((t.fold f.toNat).chan m.ch.toNat) = { v with closed := true, credits := 0 }) ∧
       (∀ binding, (∃ r ∈ v.sent, r.slot = m.slot.toNat) → CanRaise u →
         ∃ t, exec (.queueRevocation f (.refused h m binding)) s = .next t ∧
           Raises u t f.toNat (if binding then 0x12 else 0x18)))) ∧
  (∀ (x y : Fold) (l : List (Nat × Nat × Nat × CEnt)), bindAll x l = (y, none) →
     ∀ n ∈ l, (x.queue n.2.2.2.dq).bound = none ∧
       (y.queue n.2.2.2.dq).bound =
         some { node := none, fold := n.2.1, ch := n.2.2.1, slotm1 := n.2.2.2.slotm1, ncred := n.2.2.2.ncred, tree := none } ∧
       n.2.2.2.ncred * (n.2.2.2.slotm1 + 1) ≤ (x.qent n.2.2.2.dq).lines)

/-- The increments that folds deliver to a pennant in one cycle take effect together: the pennant holds their sum more, or,
where that would exceed 0xFFFF, it keeps its value and a pennant overflow fault is raised (R300, R301). -/
def Obligations.PennantIncrementsTakeEffect : Prop :=
  ∀ (s u : State) (f : FoldId) (pn : BitVec 6) (srcs : List FoldId) (l : List (Nat × Nat × PnMsg)), s.clocked = true →
    takePns f.toNat pn.toNat srcs s = some (u, l) → l ≠ [] → CanRaise s →
    let v := (peek 0 (u.fold f.toNat).qu.pn pn.toNat).toNat
    let sum := sumNat (l.map fun e => e.2.2.inc)
    (v + sum ≤ 0xFFFF → 0 < v + sum →
      ∃ t, exec (.pennantIncrement f pn srcs) s = .next t ∧ (peek 0 (t.fold f.toNat).qu.pn pn.toNat).toNat = v + sum ∧
        t.job = s.job) ∧
    (0xFFFF < v + sum →
      ∃ t g, exec (.pennantIncrement f pn srcs) s = .next t ∧ Raises s t g 0x19 ∧
        peek 0 (t.fold f.toNat).qu.pn pn.toNat = peek 0 (u.fold f.toNat).qu.pn pn.toNat)

/-! ### The sp, mm and vx slots -/

/-- An sp instruction without a fault at issue occupies the sp unit and has its part due: configurations, releases and
strides one cycle later, the first row of a move at issue with every bank request of the move made (R56, R67, R70, R99). -/
def Obligations.SpSlotIssues : Prop :=
  ∀ (s : State) (f : FoldId), s.clocked = true →
    let x := s.fold f.toNat
    let y := x.marks 3
    let ready (i : Instr) := SlotReady s f.toNat 3 i
    (ready (.spNop f) → exec (.spNop f) s = .next (s.setFold f.toNat y)) ∧
    (∀ (tile : BitVec 4) (cfg : BitVec 32), ready (.spCfg f tile cfg) → cfgBad tile.toNat cfg x = none →
      exec (.spCfg f tile cfg) s =
        .next (s.setFold f.toNat ((y.takes 10 1).owes (x.part false rankSp 1 (.cfg tile.toNat (cfg &&& 0xFFFFFF7F)))))) ∧
    (∀ mask, ready (.spRel f mask) → spBusy x = none →
      exec (.spRel f mask) s = .next (s.setFold f.toNat ((y.takes 10 1).owes (x.part false rankSp 1 (.rel mask))))) ∧
    (∀ (ss : BitVec 2) (stride : BitVec 24), ready (.spSset f ss stride) → spBusy x = none →
      exec (.spSset f ss stride) s =
        .next (s.setFold f.toNat ((y.takes 10 1).owes (x.part false rankSp 1 (.sset ss.toNat stride))))) ∧
    (∀ o : SpMove, ready (.spLdt f o) → moveBad false o s x = none →
      let n := o.rows.toNat + 1
      let cfg := x.ti.word o.tile.toNat
      let z : Fold := { y with ex := claim rankSp (ldtClaims o (x.stride o) cfg n x.ex.cycle) y.ex }
      exec (.spLdt f o) s =
        .next (s.setFold f.toNat ((z.takes 10 n).owes (x.part true rankSp 0 (.ldt o (x.stride o) cfg 0 [] []))))) ∧
    (∀ o : SpMove, ready (.spStt f o) → moveBad true o s x = none →
      let n := o.rows.toNat + 1
      let cfg := x.ti.word o.tile.toNat
      let z : Fold := { y with ex := claim rankSp (sttClaims o (x.stride o) cfg n x.ex.cycle) y.ex }
      exec (.spStt f o) s =
        .next (s.setFold f.toNat ((z.takes 10 n).owes (x.part true rankSp 0 (.stt o (x.stride o) cfg 0 [] [])))))

/-- mm.nop, mm.zero and mm.ldw issue: mm.zero has its banks due clear one cycle later, and mm.ldw occupies the weight port,
enters its check slots in the check columns and has its first row due at issue (R128, R130, R137, R140); that the check columns and the
record of the load change at issue is log entries 63 and 81's. A product without a fault at issue starts one product for each array it
names: the array is active until its last accumulator write, M + 259 + C cycles from issue with M rows (4 M in the 16-bit class) and C
columns a part, or longer where an earlier product in it ends later; an empty bank records the scale and the split, and the first
streamed row is due at issue (R62, R70, R117, R131, R138). mm.drain without a fault at issue starts one drain for each array it names, with
accumulator row 0 due one cycle after issue and its verdict to come (R139, R173, R178); its tile seed is that of the step counter at
issue (R35, log entry 70). -/
def Obligations.MatrixLoadsAndProductsIssue : Prop :=
  (∀ (s : State) (f : FoldId), s.clocked = true →
     let x := s.fold f.toNat
     let y := x.marks 1
     (SlotReady s f.toNat 1 (.mmNop f) → exec (.mmNop f) s = .next (s.setFold f.toNat y)) ∧
     (∀ (arr : BitVec 4) (bank : Bool), SlotReady s f.toNat 1 (.mmZero f arr bank) →
       zeroBad arr.toNat (b2n bank) x = none →
       exec (.mmZero f arr bank) s =
         .next (s.setFold f.toNat (y.owes (x.part false rankMm 1 (.zero arr.toNat (b2n bank)))))) ∧
     (∀ o : MmLdw, SlotReady s f.toNat 1 (.mmLdw f o) → ldwBad o x = none →
       ∃ c bufs, statCls (x.ti.fmt o.wtile.toNat) = some c ∧
         let l : LdwRec := { arr := o.arr.toNat, buf := bufs, cls := c, fmt := x.ti.fmt o.wtile.toNat, tile := o.wtile.toNat,
                             row0 := o.wrow0.toNat, rows := o.rows.toNat + 1, wt := o.wt, parts := splParts o.spl.toNat }
         exec (.mmLdw f o) s =
           .next (s.setFold f.toNat { (y.takes 11 (ldwPort c l.rows)).owes (x.part true rankMm 0 (.ldw l 0 [])) with
             mx := loadColumns o c x.mx }) ∧
         ∀ a ∈ arrays o.arr.toNat, bitOf bufs a = decide (x.mx.activeBuf a = 0))) ∧
  (∀ (s : State) (f : FoldId) (o : MmRun), s.clocked = true →
     let x := s.fold f.toNat
     let steps := if streamCls (x.ti.fmt o.tile.toNat) = some .c16 then 4 * (o.rows.toNat + 1) else o.rows.toNat + 1
     let others := (x.ex.active.filter fun e => decide (x.ex.cycle ≤ e.2) && !(arrays o.arr.toNat).contains e.1).length
     let starts (c : Instr) (os : Bool) := ∃ t, exec c s = .next t ∧ Others s t f.toNat ∧
       (t.fold f.toNat).ti = x.ti ∧ (t.fold f.toNat).sp = x.sp ∧ (t.fold f.toNat).mx.acc = x.mx.acc ∧
       ∀ a ∈ arrays o.arr.toNat,
         (a, (x.ex.active.filter fun e => decide (e.1 = a)).foldl (fun m e => max m e.2)
           (x.ex.cycle + 259 + steps + 128 / splParts o.spl.toNat)) ∈ (t.fold f.toNat).ex.active ∧
         ((t.fold f.toNat).mx.bank a (b2n o.bank)).empty = false ∧
         ((x.mx.bank a (b2n o.bank)).empty = true →
           (t.fold f.toNat).mx.bank a (b2n o.bank) =
             { scale := o.scale.toInt, parts := splParts o.spl.toNat, empty := false, os := os }) ∧
         ∃ r d, d ∈ (t.fold f.toNat).ex.due ∧ d.op = .run r 0 ∧ d.cycle = x.ex.cycle ∧ d.read = true ∧ r.arr = a ∧
           r.bank = b2n o.bank ∧ r.row0 = o.row0.toNat ∧ r.steps = o.rows.toNat + 1 ∧ r.scale = o.scale.toInt ∧ r.os = os
     others + (arrays o.arr.toNat).length ≤ x.ex.pwr →
     (SlotReady s f.toNat 1 (.mmRunWs f o) → runBad false o x = none → starts (.mmRunWs f o) false) ∧
     (SlotReady s f.toNat 1 (.mmRunIs f o) → runBad true o x = none → starts (.mmRunIs f o) false) ∧
     (SlotReady s f.toNat 1 (.mmRunOs f o) → runOsBad o x = none → starts (.mmRunOs f o) true)) ∧
  (∀ (s : State) (f : FoldId) (o : MmDrain), s.clocked = true → SlotReady s f.toNat 1 (.mmDrain f o) →
     let x := s.fold f.toNat
     drainBad o x = none →
     ∃ t, exec (.mmDrain f o) s = .next t ∧ Others s t f.toNat ∧ (t.fold f.toNat).ti = x.ti ∧
       (t.fold f.toNat).mx.vStarted = x.mx.vStarted + (arrays o.arr.toNat).length ∧
       (t.fold f.toNat).mx.acc = x.mx.acc ∧
       ∀ p ∈ enumFrom 0 (arrays o.arr.toNat), ∃ d r, d ∈ (t.fold f.toNat).ex.due ∧ d.cycle = x.ex.cycle + 1 ∧
         d.read = true ∧ d.op = .drain r 0 ∧ r.arr = p.2 ∧ r.bank = b2n o.bank ∧ r.row0 = o.arow0.toNat ∧
         r.rows = o.rows.toNat + 1 ∧ r.drow0 = o.drow0.toNat ∧ r.dfmt = o.dfmt.toNat ∧ r.rnd = o.rnd ∧
         r.dtile = spanAt o.dtile.toNat p.1 (drainDest o.dfmt.toNat).1 ∧
         r.tseed = s.tileSeedOf f.toNat ((o.tid.toNat + p.1) % 4096) ∧ r.id = x.mx.vStarted + p.1)

/-- What a matrix product adds to its bank and what a drain makes of it. The streamed row of a step that is no 16-bit one gives column
j of part p of the arrays' weights the sum of its contributions, each the product of the mantissas on the grid 2^s (R117, R121, R142,
R154), due from issue + 262 + step (R123, R133). Each column in turn adds its sums to the accumulators of row step, which saturate
(R123, R154). Accumulator row i of a drain is read, converted and written to its tile six cycles later, or to its vector register four
cycles later (R133, R139, R158, R219); it is compared with its residue entry, and the verdict of each part, due with the last row, is
saturated, truncated, passed, or failed at the first row that differed (R172, R173, R175). FP32 and BF16 round the exact value once (R158,
R161). -/
def Obligations.MatrixResultsLand : Prop :=
  (∀ (s : State) (f : FoldId) (d : Due) (r : RunRec) (i : Nat), s.clocked = true →
     let x := (s.fold f.toNat).landed.endDrover
     let c := 128 / r.parts
     let acts := actRows r.cls.width r.parts ((x.ti.elems r.tile r.cls.span (r.row0 + i)).map (·.1))
     DueNow s f.toNat d → d.read = true → d.op = .run r i → s.unserved (s.fold f.toNat) = false →
     (s.fold f.toNat).rowsDue = false → x.ti.bad = [] → r.os = false → r.cls ≠ .c16 →
     ∃ t e u, exec (.dueResultLands f) s = .next t ∧ Others s t f.toNat ∧ e ∈ (t.fold f.toNat).ex.due ∧
       e.cycle = d.issue + 262 + i ∧ e.read = false ∧ e.op = .step u ∧ u.arr = r.arr ∧ u.bank = r.bank ∧ u.parts = r.parts ∧
       u.cols = ((List.range c).map fun j => (List.range r.parts).map fun p => (128 * i + c * p + j,
         ((r.w.filter fun w => decide (w.1 % 128 = c * p + j) && decide (w.1 / 128 / c = p)).map fun w =>
           (cellSum (acts.getD (w.1 / 128) []) w.2 r.scale).1).sum)) ∧
       (i + 1 < r.steps → ∃ n, n ∈ (t.fold f.toNat).ex.due ∧ n.cycle = d.cycle + 1 ∧ n.read = true ∧ n.op = .run r (i + 1))) ∧
  (∀ (a w : MX) (s : Int), (contribution a w s).1 =
     if 0 ≤ a.x + w.x - s then a.m * w.m * (2 ^ (a.x + w.x - s).toNat : Nat) else a.m * w.m / (2 ^ (s - a.x - w.x).toNat : Nat)) ∧
  (∀ (s : State) (f : FoldId) (d : Due) (u : StepRec) (es : List (Nat × Int)) (rest : List (List (Nat × Int))), s.clocked = true →
     let x := s.fold f.toNat
     let key (e : Nat × Int) := 16384 * (2 * u.arr + u.bank) + e.1
     DueNow s f.toNat d → d.read = false → d.op = .step u → u.cols = es :: rest →
     ∃ t, exec (.dueResultLands f) s = .next t ∧ Others s t f.toNat ∧ (t.fold f.toNat).ti = x.ti ∧
       (t.fold f.toNat).mx.acc = es.foldl (fun m e =>
         put 0 m (key e) (BitVec.ofInt 64 (max (-(2 ^ 63)) (min (2 ^ 63 - 1) ((peek 0 m (key e)).toInt + e.2))))) x.mx.acc ∧
       (rest ≠ [] → ∃ n v, n ∈ (t.fold f.toNat).ex.due ∧ n.cycle = d.cycle + 1 ∧ n.read = false ∧ n.op = .step v ∧ v.cols = rest)) ∧
  (∀ (s : State) (f : FoldId) (d : Due) (r : DrainRec) (i : Nat), s.clocked = true →
     let x := (s.fold f.toNat).landed.endDrover
     let row := r.row0 + i
     let accs := (List.range 128).map fun j => x.mx.accOf r.arr r.bank (128 * row + j)
     let w := convertRow r.dfmt r.scale (List.zip accs ((List.range 128).map fun j =>
       if r.rnd then some (roundWord r.tseed row j) else none))
     let bad := if r.os then r.bad else compareRow x.mx r row accs
     let sums := if r.os then List.zipWith (fun a b => a + res b) r.colSum accs else r.colSum
     DueNow s f.toNat d → d.read = true → d.op = .drain r i → s.unserved (s.fold f.toNat) = false →
     (s.fold f.toNat).rowsDue = false → x.mx.convBad = none →
     ∃ t, exec (.dueResultLands f) s = .next t ∧ Others s t f.toNat ∧ (t.fold f.toNat).mx.acc = x.mx.acc ∧
       (r.vx = false → ∀ p ∈ enumFrom 0 (pieces 128 w.1), ∃ e, e ∈ (t.fold f.toNat).ex.due ∧ e.cycle = d.cycle + 6 ∧ e.read = false ∧
         e.op = .tileRow (r.dtile + p.1) (r.drow0 + i) p.2 w.2.1) ∧
       (r.vx = true → ∃ e, e ∈ (t.fold f.toNat).ex.due ∧ e.cycle = d.cycle + 4 ∧ e.read = false ∧
         e.op = .vecWrite ((enumFrom 0 (pieces 4 w.1)).map fun q => (128 * (r.vd + i) + q.1, BitVec.ofNat 32 (leNat q.2))) none) ∧
       (i + 1 < r.rows → (t.fold f.toNat).mx.verdicts = x.mx.verdicts ∧ ∃ e k, e ∈ (t.fold f.toNat).ex.due ∧ e.cycle = d.cycle + 1 ∧
         e.read = true ∧ e.op = .drain { r with bad := bad, colSum := sums, kept := k } (i + 1)) ∧
       (r.rows ≤ i + 1 → ∃ v, (t.fold f.toNat).mx.verdicts = x.mx.verdicts ++ [v] ∧ v.cycle = r.issue + r.rows + 8 ∧ v.id = r.id ∧
         v.arr = r.arr ∧ v.parts = (enumFrom 0 (if r.os then [compareCols x.mx r sums] else bad)).map fun p =>
           verdictOf x.mx r p.1 p.2)) ∧
  (∀ (x : Matrix) (r : DrainRec) (p : Nat) (b : Option Nat),
     let k := 4 * (2 * r.arr + r.bank) + p
     verdictOf x r p b = if peek false x.sat k then (.sat, 0) else if peek 0 x.trunc k ≠ 0 then (.trunc, 0)
       else match b with | none => (.pass, 0) | some i => (.fail, i)) ∧
  (∀ (x : Matrix) (r : DrainRec) (row : Nat) (as : List Int), r.bad = List.replicate r.parts none →
     let c := 128 / r.parts
     compareRow x r row as = (List.range r.parts).map fun p =>
       if sumRes (((as.drop (c * p)).take c).map res) =
         peek 0 x.rcol (128 * (4 * (2 * r.arr + r.bank) + p) + row) % (2 ^ 61 - 1) then none else some row) ∧
  (∀ (g : Int) (as : List (Int × Option Nat)),
     (convertRow 0 g as).1 = as.flatMap (fun a => leBytes 4 (fp32.round a.2 false a.1 g)) ∧
     (convertRow 1 g as).1 = as.flatMap (fun a => leBytes 2 (fpBF16.round a.2 false a.1 g)))

/-- A vector instruction without a fault at issue occupies the vector engine, and the transcendental unit where it uses it, and
has its first source group or row due at issue; vx.ld and vx.st claim the banks of every line they move, and vx.acc
starts a drain of its bank (R67, R70, R203, R205, R214, R219, R220). That vx.smax occupies the transcendental unit for as long as the
vector engine, and that a vx.ld with POP releases its message as many cycles after issue as it has groups, are log entry 21's. -/
def Obligations.VectorInstructionsIssue : Prop :=
  (∀ (s : State) (f : FoldId) (o : Vx), s.clocked = true →
     let x := s.fold f.toNat
     let y := x.marks 2
     let n := o.count.toNat + 1
     let plain (op : VxOp) (c : Instr) := SlotReady s f.toNat 2 c → vxBad op o x = none →
       exec c s = .next (s.setFold f.toNat
         ((y.takes 8 (ceilDiv n (op.timing o s.paired).2)).owes (x.part true rankVx 0 (.vx op o s.paired 0))))
     let trans (op : VxOp) (c : Instr) := SlotReady s f.toNat 2 c → vxBad op o x = none →
       exec c s = .next (s.setFold f.toNat
         (((y.takes 8 (ceilDiv n (if s.paired then 64 else 128))).takes 9 (ceilDiv n (if s.paired then 16 else 32))).owes
           (x.part true rankVx 0 (.vx op o s.paired 0))))
     (SlotReady s f.toNat 2 (.vxNop f) → exec (.vxNop f) s = .next (s.setFold f.toNat y)) ∧
     plain .add (.vxAdd f o) ∧ plain .sub (.vxSub f o) ∧ plain .mul (.vxMul f o) ∧ plain .fma (.vxFma f o) ∧
     plain .min (.vxMin f o) ∧ plain .max (.vxMax f o) ∧ plain .abs (.vxAbs f o) ∧ plain .neg (.vxNeg f o) ∧
     plain .cmp (.vxCmp f o) ∧ plain .cvt (.vxCvt f o) ∧ plain .and_ (.vxAnd f o) ∧ plain .or_ (.vxOr f o) ∧
     plain .xor_ (.vxXor f o) ∧ plain .mov (.vxMov f o) ∧ plain .sel (.vxSel f o) ∧ plain .sll (.vxSll f o) ∧
     plain .srl (.vxSrl f o) ∧ plain .sra (.vxSra f o) ∧ trans .exp2 (.vxExp2 f o) ∧ trans .log2 (.vxLog2 f o) ∧
     trans .rcp (.vxRcp f o) ∧ trans .rsqrt (.vxRsqrt f o)) ∧
  (∀ (s : State) (f : FoldId), s.clocked = true →
     let x := s.fold f.toNat
     let y := x.marks 2
     (∀ o : Vx,
       let n := o.count.toNat + 1
       let first (op : VxRow) := x.part true rankVx 0 (.vrow op o s.paired 0 0 [])
       let l (op : VxRow) := op.latency n (o.sub.toNat + 1) s.paired
       let groups := ceilDiv n (laneCount s.paired)
       (SlotReady s f.toNat 2 (.vxRsum f o) → rowBad .rsum o x = none →
         exec (.vxRsum f o) s = .next (s.setFold f.toNat ((y.takes 8 groups).owes (first .rsum)))) ∧
       (SlotReady s f.toNat 2 (.vxRmax f o) → rowBad .rmax o x = none →
         exec (.vxRmax f o) s = .next (s.setFold f.toNat ((y.takes 8 groups).owes (first .rmax)))) ∧
       (SlotReady s f.toNat 2 (.vxSmax f o) → rowBad .smax o x = none →
         exec (.vxSmax f o) s =
           .next (s.setFold f.toNat (((y.takes 8 (l .smax)).takes 9 (l .smax)).owes (first .smax)))) ∧
       (SlotReady s f.toNat 2 (.vxTopk f o) → rowBad .topk o x = none →
         exec (.vxTopk f o) s = .next (s.setFold f.toNat ((y.takes 8 (l .topk)).owes (first .topk))))) ∧
     (∀ o : VxMem, SlotReady s f.toNat 2 (.vxLd f o) → moveVxBad false o x = none →
       let z : Fold := { y.takes 8 (memGroups o) with
         ex := claim rankVx (memClaims o x x.ex.cycle) (y.takes 8 (memGroups o)).ex }
       let w := z.owes (x.part true rankVx 0 (.vld o (memStride o x) (memBase o x) 0))
       exec (.vxLd f o) s = .next (s.setFold f.toNat (if o.pop then
         w.owes (x.part false rankQp (memGroups o) (.release x.ex.selResult.toNat x.ex.lastBundle)) else w))) ∧
     (∀ o : VxMem, SlotReady s f.toNat 2 (.vxSt f o) → moveVxBad true o x = none →
       let z : Fold := { y.takes 8 (memGroups o) with
         ex := claim rankVx (memClaims o x (x.ex.cycle + 1)) (y.takes 8 (memGroups o)).ex }
       exec (.vxSt f o) s = .next (s.setFold f.toNat (z.owes (x.part true rankVx 0 (.vst o (memStride o x) 0))))) ∧
     (∀ o : VxAcc, SlotReady s f.toNat 2 (.vxAcc f o) → accBad o x = none →
       ∃ t d r, exec (.vxAcc f o) s = .next t ∧ Others s t f.toNat ∧ d ∈ (t.fold f.toNat).ex.due ∧
         d.cycle = x.ex.cycle + 1 ∧ d.op = .drain r 0 ∧ r.arr = o.arrn.toNat ∧ r.bank = b2n o.bank ∧ r.vx = true ∧
         r.row0 = o.arow0.toNat ∧ r.rows = (o.count.toNat + 1) / 128 ∧ r.vd = o.vd.toNat ∧
         (t.fold f.toNat).mx.vStarted = x.mx.vStarted + 1))

/-- The first due part of a fold takes effect: configurations with IN_USE, strides, the select result, tile rows with their
exponents, scratchpad bytes, vector words, cleared banks and released tiles (R56, R66, R79, R87, R140, R289). Row 0 of
a packed sp.ldt is the row of bytes that the scratchpad holds from the line it names once the drover's accesses of the cycle are
done, and it takes effect seven cycles after it is read (R70, R98, R102). -/
def Obligations.DueResultsLand : Prop :=
  (∀ (s : State) (f : FoldId) (d : Due), s.clocked = true → DueNow s f.toNat d → d.read = false →
     let x := s.fold f.toNat
     let y := x.landed
     let lands (z : Fold) := exec (.dueResultLands f) s = .next (s.setFold f.toNat z)
     (∀ t w, d.op = .cfg t w →
       lands { y with ti := { x.ti with cfg := put 0 x.ti.cfg t w, inUse := maskSet x.ti.inUse t true } }) ∧
     (∀ ss v, d.op = .sset ss v → lands { y with ti := { x.ti with stride := put 0 x.ti.stride ss v } }) ∧
     (∀ q, d.op = .selres q → lands { y with ex := { y.ex with selResult := q } }) ∧
     (∀ t r bytes exps, d.op = .tileRow t r bytes exps → x.ti.used t = true → x.ti.bad = [] →
       lands { y with ti := { x.ti with
         dat := putRun 0 x.ti.dat (128 * (128 * t + r)) bytes, exps := putRun 0 x.ti.exps (8 * (128 * t + r)) exps
         latch := x.ti.latch.filter fun e => !e.2.contains (128 * t + r)
         known := put false x.ti.known (128 * t + r) true, wrote := (128 * t + r) :: x.ti.wrote } }) ∧
     (∀ a l, d.op = .spWrite [(a, l)] → x.sp.err = [] → lands { y with sp := { x.sp with mem := putRun 0 x.sp.mem a l } }) ∧
     (∀ k w, d.op = .vecWrite [(k, w)] none → x.ve.bad = [] →
       lands { y with ve := { x.ve with reg := put 0 x.ve.reg k w } }) ∧
     (∀ arrs b, d.op = .zero arrs b → wfMap BankRec.init x.mx.banks = true → ∃ t, exec (.dueResultLands f) s = .next t ∧ Others s t f.toNat ∧
       ∀ a ∈ arrays arrs, (t.fold f.toNat).mx.bank a b = .init ∧
         ∀ i < 16384, (t.fold f.toNat).mx.accOf a b i = 0) ∧
     (∀ m, d.op = .rel m → ∃ t, exec (.dueResultLands f) s = .next t ∧ (t.fold f.toNat).ti.inUse = x.ti.inUse &&& ~~~m ∧
       t.freeCtr = s.freeCtr + 1 ∧ t.job = s.job ∧ t.msd = s.msd)) ∧
  (∀ (s : State) (f : FoldId) (d : Due) (o : SpMove) (stride : Int) (cfg : BitVec 32), s.clocked = true →
     let x := (s.fold f.toNat).landed.endDrover
     DueNow s f.toNat d → d.read = true → d.op = .ldt o stride cfg 0 [] [] → o.mode = 0 → fmtExps (cfgFmt cfg) = false →
     (s.fold f.toNat).sp.err = [] → s.unserved (s.fold f.toNat) = false → (s.fold f.toNat).rowsDue = false →
     ∃ t e, exec (.dueResultLands f) s = .next t ∧ Others s t f.toNat ∧ e ∈ (t.fold f.toNat).ex.due ∧
       e.cycle = d.cycle + 7 ∧ e.read = false ∧
       e.op = .tileRow o.tile.toNat o.row0.toNat (x.sp.bytes (64 * o.line.toNat) (cfgRB cfg)) [] ∧
       (t.fold f.toNat).sp = x.sp ∧ (t.fold f.toNat).ti = x.ti)

/-- A group of an element-wise instruction over registers without parity errors is read from its operands, element by element,
packed or not, and its results go to the destination L cycles later (R70, R200, R205). Each result element of a 32-bit logic or integer
instruction is the operation on the elements of its sources (R205); a floating-point sum, product or fused product of finite values is
the exact value rounded once, and a NaN operand gives the canonical NaN (R209, R210). A row gives its sum, maximum, soft maximum or
largest scores once its last group has been read (R220-R224; the groups of a soft maximum are log entry 21's). A vx.ld writes the bytes
of its lines seven cycles after it reads them, and a vx.st requests the writes of its registers' bytes from the next cycle on (R70, R98,
R214-R216). -/
def Obligations.VectorGroupComputes : Prop :=
  (∀ (s : State) (f : FoldId) (d : Due), s.clocked = true → DueNow s f.toNat d → d.read = true →
     s.unserved (s.fold f.toNat) = false → (s.fold f.toNat).rowsDue = false →
     let x := (s.fold f.toNat).landed.endDrover
     let lands (p : State → Prop) := ∃ t, exec (.dueResultLands f) s = .next t ∧ Others s t f.toNat ∧ (t.fold f.toNat).ve = x.ve ∧ p t
     let due (t : State) (cycle : Nat) (read : Bool) (op : DueOp) :=
       ∃ e, e ∈ (t.fold f.toNat).ex.due ∧ e.cycle = cycle ∧ e.read = read ∧ e.op = op
     (∀ (op : VxOp) (o : Vx) (paired : Bool) (g : Nat), d.op = .vx op o paired g → x.ve.bad = [] → x.ve.laneBad = none →
       let h := vxShape op.code
       let size := (op.timing o paired).2
       let n := min size (o.count.toNat + 1 - size * g)
       let packed := (op.packs o).1
       let read (use zero : Bool) (base : BitVec 5) (i : Nat) : Nat :=
         if use then x.ve.elem packed base.toNat (if zero then 0 else i) else 0
       let value (i : Nat) := vxElem op o.form.toNat o.sub.toNat (if packed then 16 else 32) (read h.a o.ba o.va i)
         (read h.b o.bb o.vb i) (read h.c o.bc o.vc i)
       lands fun t =>
         due t (d.cycle + (op.timing o paired).1) false
           (writeElems (op.packs o).2 o.vd.toNat (size * g) ((List.range n).map fun i => value (size * g + i))) ∧
         ((op.packs o).2 = false → due t (d.cycle + (op.timing o paired).1) false (.vecWrite ((List.range n).map fun i =>
           (128 * o.vd.toNat + (size * g + i), BitVec.ofNat 32 (value (size * g + i)))) none)) ∧
         (size * g + n < o.count.toNat + 1 → due t (d.cycle + 1) true (.vx op o paired (g + 1)))) ∧
     (∀ (op : VxRow) (o : Vx) (paired : Bool) (g : Nat) (c : Word) (got : List Word), d.op = .vrow op o paired g c got →
       x.ve.bad = [] → x.ve.laneBad = none →
       let size := laneCount paired
       let n := min size (o.count.toNat + 1 - size * g)
       let zero := o.ba && decide (op ≠ .smax)
       let factor := if g = 0 ∧ op = .smax then peek 0 x.ve.reg (128 * o.vc.toNat) else c
       let row := got ++ (List.range n).map fun i => peek 0 x.ve.reg (128 * o.va.toNat + (if zero then 0 else size * g + i))
       let xs := row.map (·.toNat)
       let groups := ceilDiv (o.count.toNat + 1) size
       let last := d.cycle + (op.latency (o.count.toNat + 1) (o.sub.toNat + 1) paired + 1 - groups)
       lands fun t =>
         (size * g + n < o.count.toNat + 1 → due t (d.cycle + 1) true (.vrow op o paired (g + 1) factor row)) ∧
         (o.count.toNat + 1 ≤ size * g + n →
           (op = .rsum → due t last false (writeElems false o.vd.toNat 0 [rsum xs])) ∧
           (op = .rmax → due t last false (writeElems false o.vd.toNat 0 [rmax xs])) ∧
           (op = .smax → ∀ p ∈ enumFrom 0 (pieces 128 (smax factor.toNat xs)), ∃ e, e ∈ (t.fold f.toNat).ex.due ∧ e.read = false ∧
             e.op = writeElems false o.vd.toNat (128 * p.1) p.2) ∧
           (op = .topk →
             let k := topk (o.sub.toNat + 1) xs
             due t last false (writeElems false o.vd.toNat 0 (padList 0 128 (k.map (·.1)) ++
               padList 0 128 (k.map fun e => if (fp32.decode e.2).isNan then fp32.nan else e.2)))))) ∧
     (∀ (o : VxMem) (stride : Int) (base g : Nat), d.op = .vld o stride base g → o.mode ≠ 3 → x.sp.err = [] →
       let lines := (List.range (min 8 (memChunks o - 8 * g))).map fun i => (chunkLine o stride base (8 * g + i)).toNat
       lands fun t =>
         due t (d.cycle + 7) false
           (streamWrite o.vd.toNat g ((lines.flatMap fun l => x.sp.bytes (64 * l) 64).take (memBytes o - 512 * g))) ∧
         (g + 1 < memGroups o → due t (d.cycle + 1) true (.vld o stride base (g + 1)))) ∧
     (∀ (o : VxMem) (stride : Int) (base g : Nat), d.op = .vld o stride base g → o.mode = 3 → x.sp.err = [] →
       let line := (chunkLine o stride base 0).toNat
       lands fun t => ∀ k < memGroups o, due t (d.cycle + (7 + k)) false (streamWrite o.vd.toNat k
         ((List.range (min 512 (memBytes o - 512 * k) / memSize o)).flatMap fun _ =>
           x.sp.bytes (64 * line + memSize o * o.va.toNat) (memSize o)))) ∧
     (∀ (o : VxMem) (stride : Int) (g : Nat), d.op = .vst o stride g → x.ve.bad = [] →
       let n := min 512 (memBytes o - 512 * g)
       let bytes := ((List.range (ceilDiv n 4)).flatMap fun i =>
         leBytes 4 (peek 0 x.ve.reg (128 * (o.va.toNat + g) + i)).toNat).take n
       let out := (enumFrom (8 * g) (pieces 64 bytes)).map fun p => (64 * (chunkLine o stride 0 p.1).toNat, p.2)
       lands fun t =>
         (∀ e ∈ d.bankWrites out, e ∈ (t.fold f.toNat).ex.due) ∧
         (g + 1 < memGroups o → due t (d.cycle + 1) true (.vst o stride (g + 1))))) ∧
  (∀ (d : Due) (out : List (Nat × List Byte)) (p : Nat × List Byte), p ∈ out → ∃ e l, e ∈ d.bankWrites out ∧ e.op = .spWrite l ∧ p ∈ l ∧
     e.read = false ∧ e.cycle = (if (d.cycle + 1) % 4 = p.1 / 64 % 4 then d.cycle + 2 else d.cycle + 1)) ∧
  (∀ (sub : Nat) (a b c : BitVec 32),
     let r (op : VxOp) := BitVec.ofNat 32 (vxElem op 3 sub 32 a.toNat b.toNat c.toNat)
     r .add = a + b ∧ r .sub = a - b ∧ r .and_ = a &&& b ∧ r .or_ = a ||| b ∧ r .xor_ = a ^^^ b ∧ r .mov = a ∧
       r .sel = (a &&& c) ||| (b &&& ~~~c) ∧ r .sll = a <<< (b.toNat % 32) ∧ r .srl = a >>> (b.toNat % 32) ∧
       r .sra = a.sshiftRight (b.toNat % 32)) ∧
  (∀ (form sub bits a b c : Nat), form ≠ 3 →
     let p := formSpec form
     let r (op : VxOp) := vxElem op form sub bits a b c
     (∀ na ma xa nb mb xb, p.decode a = .fin na ma xa → p.decode b = .fin nb mb xb →
       let e := min xa xb
       let va := signed na ma * (2 ^ (xa - e).toNat : Nat)
       let vb := signed nb mb * (2 ^ (xb - e).toNat : Nat)
       (va + vb ≠ 0 → r .add = p.round none false (va + vb) e) ∧ (va - vb ≠ 0 → r .sub = p.round none false (va - vb) e) ∧
       (ma * mb ≠ 0 → r .mul = p.round none false (signed na ma * signed nb mb) (xa + xb)) ∧
       (∀ nc mc xc, p.decode c = .fin nc mc xc →
         let g := min (xa + xb) xc
         let v := signed na ma * signed nb mb * (2 ^ (xa + xb - g).toNat : Nat) + signed nc mc * (2 ^ (xc - g).toNat : Nat)
         v ≠ 0 → r .fma = p.round none false v g)) ∧
     (p.decode a = .nan → r .add = p.nan ∧ r .sub = p.nan ∧ r .mul = p.nan ∧ r .fma = p.nan ∧ r .min = p.nan ∧ r .max = p.nan ∧
       r .abs = p.nan ∧ r .neg = p.nan) ∧
     (p.decode b = .nan → r .add = p.nan ∧ r .sub = p.nan ∧ r .mul = p.nan ∧ r .fma = p.nan ∧ r .min = p.nan ∧ r .max = p.nan)) ∧
  (∀ (form bits b c a : Nat), vxElem .cvt form 0 bits a b c = fpBF16.enc (fp32.decode a) ∧
     vxElem .cvt form 1 bits a b c = fp16.enc (fp32.decode a) ∧ vxElem .cvt form 2 bits a b c = fp32.enc (fpBF16.decode a) ∧
     vxElem .cvt form 3 bits a b c = fp32.enc (fp16.decode a) ∧
     (∀ n m x, fp32.decode a = .fin n m x → (BitVec.ofNat 32 (vxElem .cvt form 4 bits a b c)).toInt =
       max (-(2 ^ 31)) (min (2 ^ 31 - 1) (rneInt (signed n m) x))))

/-- A bundle that holds what the tables reserve is an encoding fault, and one that would be the 8,193rd without a stall point
a stall-spacing fault; the fold stops without issuing it (R26, R50, R57, R207). That a fold stops at a fault at issue is log
entry 19's. A move that breaks a rule at issue raises its fault and moves nothing: a tile not in use and a row past the configured rows are shape faults 0x11 (R56,
R88), a first line past the scratchpad an address fault 0x12. A product that would make more arrays active than its
bundle declares is a power declaration fault 0x15 (R62). -/
def Obligations.FaultsAtIssue : Prop :=
  (∀ (s : State) (f : FoldId), s.clocked = true → CanRaise s →
     let x := s.fold f.toNat
     x.executes = true → x.ex.ctlDue = false → x.ex.wait = none → x.db.stepping = false → x.ex.issued = false →
     x.ex.overdue = false → x.late x.ex.cycle = false → x.atBreak = false → x.ex.nextBundle < x.ex.bundleCnt →
     peek 0 x.ex.berr x.ex.nextBundle ≠ 2 →
     (∀ k, bundleEnc x.nextWord = some k →
       ∃ t, exec (.reservedOpcode f) s = .next t ∧ Raises s t f.toNat 0x10 ∧ (t.fold f.toNat).ex.run = .stopped ∧
         (t.fold f.toNat).ex.nextBundle = x.ex.nextBundle ∧ (t.fold f.toNat).ex.issued = false) ∧
     (bundleEnc x.nextWord = none → ctlStall x.nextWord = false → qpStall x.nextWord = false →
       (8192 ≤ x.ex.sinceStall → ∃ t, exec (.stallSpacing f) s = .next t ∧ Raises s t f.toNat 0x14 ∧
         (t.fold f.toNat).ex.run = .stopped ∧ (t.fold f.toNat).ex.issued = false) ∧
       (x.ex.sinceStall < 8192 → exec (.stallSpacing f) s = .next s))) ∧
  (∀ (s : State) (f : FoldId) (o : SpMove), s.clocked = true → CanRaise s →
     let x := s.fold f.toNat
     let cfg := x.ti.word o.tile.toNat
     let stops (c : Instr) (code : Nat) := SlotReady s f.toNat 3 c → ∃ t, exec c s = .next t ∧ Raises s t f.toNat code ∧
       (t.fold f.toNat).ex.run = .stopped ∧ (t.fold f.toNat).ti = x.ti ∧ (t.fold f.toNat).sp = x.sp ∧
       (t.fold f.toNat).ex.due = x.ex.due
     ((cfgRows cfg < o.row0.toNat + (o.rows.toNat + 1) ∨ x.ti.used o.tile.toNat = false) →
       stops (.spLdt f o) 0x11 ∧ stops (.spStt f o) 0x11) ∧
     (o.row0.toNat + (o.rows.toNat + 1) ≤ cfgRows cfg → x.ti.used o.tile.toNat = true → o.mode = 0 →
       98304 ≤ o.line.toNat → stops (.spLdt f o) 0x12 ∧ stops (.spStt f o) 0x12)) ∧
  (∀ (s : State) (f : FoldId) (o : MmRun), s.clocked = true → SlotReady s f.toNat 1 (.mmRunWs f o) → CanRaise s →
     let x := s.fold f.toNat
     let others := (x.ex.active.filter fun e => decide (x.ex.cycle ≤ e.2) && !(arrays o.arr.toNat).contains e.1).length
     runBad false o x = none → x.ex.pwr < others + (arrays o.arr.toNat).length →
     ∃ t, exec (.mmRunWs f o) s = .next t ∧ Raises s t f.toNat 0x15 ∧ (t.fold f.toNat).ex.run = .stopped)

/-! ### The shepherd -/

/-- The register instructions of the shepherd: the destination receives the result, s0 excepted, the next instruction is the
one in sequence, and nothing but the shepherd of the fold changes (R71, R73). sh.mulh is fixed where the signed and
the unsigned product agree, and is the same for the same operands (R37, log entry 15); the sign extension of sh.andi and sh.ori and the place of the sh.lui
immediate are the model's reading (log entry 13). s0 reads as zero and a write of it is ignored; every other register
reads as what was written last (R71). -/
def Obligations.ShepherdRegisterInstructions : Prop :=
  (∀ (s : State) (f : FoldId) (ds sa sb : BitVec 5) (imm : BitVec 15) (up : BitVec 20), s.clocked = true →
     let x := s.fold f.toNat
     let a := x.sh.get sa
     let b := x.sh.get sb
     let i : Word := imm.signExtend 32
     let gives (c : Instr) (v : Word) := ShReady s f.toNat c → exec c s = .next (s.setFold f.toNat { x with sh := x.sh.puts ds v })
     gives (.shAdd f ds sa sb) (a + b) ∧ gives (.shSub f ds sa sb) (a - b) ∧ gives (.shAnd f ds sa sb) (a &&& b) ∧
       gives (.shOr f ds sa sb) (a ||| b) ∧ gives (.shXor f ds sa sb) (a ^^^ b) ∧
       gives (.shSll f ds sa sb) (a <<< (b.toNat % 32)) ∧ gives (.shSrl f ds sa sb) (a >>> (b.toNat % 32)) ∧
       gives (.shSra f ds sa sb) (a.sshiftRight (b.toNat % 32)) ∧ gives (.shAddi f ds sa imm) (a + i) ∧
       gives (.shAndi f ds sa imm) (a &&& i) ∧ gives (.shOri f ds sa imm) (a ||| i) ∧
       gives (.shLui f ds up) (up ++ (0 : BitVec 12)) ∧ gives (.shMul f ds sa sb) (a * b) ∧
       gives (.shSlt f ds sa sb) (if a.slt b then 1 else 0) ∧ gives (.shSltu f ds sa sb) (if a.ult b then 1 else 0) ∧
       gives (.shSlti f ds sa imm) (if a.slt i then 1 else 0) ∧
       gives (.shMulh f ds sa sb) (if highSigned a b = highUnsigned a b then highUnsigned a b else Config.shMulh a b)) ∧
  (∀ (x : Shepherd) (r q : BitVec 5) (v : Word),
     x.get 0 = 0 ∧ x.set 0 v = x ∧ (r ≠ 0 → wfMap 0 x.reg = true → (x.set r v).get r = v) ∧
       (q ≠ r → (x.set r v).get q = x.get q))

/-- A branch goes to the word that its offset names when its comparison holds and to the next instruction otherwise; sh.jal
and sh.jr go to their targets, sh.jal with the address of the following instruction in its destination; no other
state changes (R73). Offsets in words and absolute sh.jal targets are the model's reading (log entry 14). -/
def Obligations.ShepherdBranchesAndJumps : Prop :=
  ∀ (s : State) (f : FoldId) (ds sa sb : BitVec 5) (off : BitVec 15) (tgt : BitVec 20), s.clocked = true →
    let x := s.fold f.toNat
    let a := x.sh.get sa
    let b := x.sh.get sb
    let next := (x.sh.pc + 1) % 16384
    let there := (x.sh.pc : Int) + off.toInt
    let goes (c : Instr) (n : Nat) := ShReady s f.toNat c → exec c s = .next (s.setFold f.toNat { x with sh := x.sh.goesTo n })
    let branch (c : Instr) (taken : Prop) := (¬ taken → goes c next) ∧
      (taken → 0 ≤ there → there < x.sh.codeWords → goes c there.toNat)
    branch (.shBeq f sa sb off) (a = b) ∧ branch (.shBne f sa sb off) (a ≠ b) ∧
      branch (.shBlt f sa sb off) (a.toInt < b.toInt) ∧ branch (.shBge f sa sb off) (b.toInt ≤ a.toInt) ∧
      branch (.shBltu f sa sb off) (a.toNat < b.toNat) ∧ branch (.shBgeu f sa sb off) (b.toNat ≤ a.toNat) ∧
      (a.toNat < x.sh.codeWords → goes (.shJr f sa) a.toNat) ∧
      (tgt.toNat < x.sh.codeWords → ShReady s f.toNat (.shJal f ds tgt) →
        exec (.shJal f ds tgt) s =
          .next (s.setFold f.toNat { x with sh := (x.sh.puts ds (BitVec.ofNat 32 next)).goesTo tgt.toNat }))

/-- Loads and stores of data memory move the bytes at SA plus the sign-extended immediate, little-endian, sign- or
zero-extended as they are named, when the address is aligned and in range and no word that is read holds an error; a
load changes no memory and a store no register (R73, R76, R190). A single-bit error of the word that a load or an instruction's fetch
reads is corrected, and the fold's counter of corrected errors counts it (R418; that it is that counter is log entry 108's). -/
def Obligations.ShepherdDataMemory : Prop :=
  ∀ (s : State) (f : FoldId) (ds sa sb : BitVec 5) (imm : BitVec 15), s.clocked = true →
    let x := s.fold f.toNat
    let ad := (x.sh.get sa + imm.signExtend 32).toNat
    let byte (i : Nat) : Byte := peek 0 x.sh.dmem (ad + i)
    let w := x.sh.get sb
    let whole (n : Nat) := ∀ k < n, peek 0 x.sh.derr ((ad + k) / 4) = 0
    let loads (c : Instr) (n : Nat) (v : Word) := ShReady s f.toNat c → ad % n = 0 → ad + n ≤ 65536 → whole n →
      exec c s = .next (s.setFold f.toNat { x with sh := x.sh.puts ds v })
    let stores (c : Instr) (n : Nat) (bytes : List Byte) := ShReady s f.toNat c → ad % n = 0 → ad + n ≤ 65536 →
      (n = 4 ∨ whole n) →
      exec c s = .next (s.setFold f.toNat
        { x with sh := { x.sh.goesTo ((x.sh.pc + 1) % 16384) with
          dmem := putRun 0 x.sh.dmem ad bytes, derr := (x.sh.write ad bytes).derr } })
    loads (.shLw f ds sa imm) 4 (byte 3 ++ byte 2 ++ byte 1 ++ byte 0) ∧
      loads (.shLh f ds sa imm) 2 ((byte 1 ++ byte 0).signExtend 32) ∧
      loads (.shLhu f ds sa imm) 2 ((byte 1 ++ byte 0).zeroExtend 32) ∧
      loads (.shLb f ds sa imm) 1 ((byte 0).signExtend 32) ∧ loads (.shLbu f ds sa imm) 1 ((byte 0).zeroExtend 32) ∧
      stores (.shSw f sa sb imm) 4
        [w.extractLsb' 0 8, w.extractLsb' 8 8, w.extractLsb' 16 8, w.extractLsb' 24 8] ∧
      stores (.shSh f sa sb imm) 2 [w.extractLsb' 0 8, w.extractLsb' 8 8] ∧
      stores (.shSb f sa sb imm) 1 [w.extractLsb' 0 8] ∧
      (ShReady s f.toNat (.shLw f ds sa imm) → ad % 4 = 0 → ad + 4 ≤ 65536 → peek 0 x.sh.derr (ad / 4) = 1 →
        ∃ t, exec (.shLw f ds sa imm) s = .next t ∧ Others s t f.toNat ∧ (t.fold f.toNat).sp.eccCount = ctrAdd x.sp.eccCount 1 ∧
          (t.fold f.toNat).sh = { x.sh.puts ds (byte 3 ++ byte 2 ++ byte 1 ++ byte 0) with derr := put 0 x.sh.derr (ad / 4) 0 }) ∧
      (∀ marked : List (Nat × Nat), peek 0 marked x.sh.pc = 1 → ShReady s f.toNat (.shAddi f ds sa imm) →
        let z := s.setFold f.toNat { x with sh := { x.sh with ierr := marked } }
        ∃ t, exec (.shAddi f ds sa imm) z = .next t ∧ Others z t f.toNat ∧
          (t.fold f.toNat).sp.eccCount = ctrAdd x.sp.eccCount 1 ∧
          (t.fold f.toNat).sh = { x.sh.puts ds (x.sh.get sa + imm.signExtend 32) with ierr := put 0 marked x.sh.pc 0 })

/-- A misaligned access, an access past data memory, a jump past the code, a reserved pennant and an instruction that does
not decode raise a shepherd fault with the cause of R76, and stop the shepherd. That a faulting shepherd halts is log entry 19's, and
that a misaligned address is cause 2 before it is cause 3 is log entry 82's. -/
def Obligations.ShepherdFaultsHaveTheirCause : Prop :=
  ∀ (s : State) (f : FoldId) (ds sa sb : BitVec 5) (imm : BitVec 15) (pn : BitVec 6) (n : BitVec 8) (p : BitVec 5), s.clocked = true →
    CanRaise s →
    let x := s.fold f.toNat
    let ad := (x.sh.get sa + imm.signExtend 32).toNat
    let stops (c : Instr) (cause : Nat) := ∃ t j k r, exec c s = .next t ∧ s.job = some j ∧ t.job = some k ∧
      k.reports = j.reports ++ [r] ∧ r.code = 0x1E ∧ r.engine = engShepherd ∧ r.lfold = f.toNat ∧ r.detail = cause ∧
      r.addr = x.sh.pc ∧ (x.ex.run ≠ .idle → (t.fold f.toNat).sh.run = .halted)
    let faults (c : Instr) (cause : Nat) := ShReady s f.toNat c → stops c cause
    (ad % 4 ≠ 0 → faults (.shLw f ds sa imm) 2 ∧ faults (.shSw f sa sb imm) 2) ∧
      (ad % 2 ≠ 0 → faults (.shLh f ds sa imm) 2 ∧ faults (.shSh f sa sb imm) 2) ∧
      (ad % 4 = 0 → 65536 < ad + 4 → faults (.shLw f ds sa imm) 3 ∧ faults (.shSw f sa sb imm) 3) ∧
      (65536 < ad + 1 → faults (.shLb f ds sa imm) 3 ∧ faults (.shSb f sa sb imm) 3) ∧
      (x.sh.codeWords ≤ (x.sh.get sa).toNat → faults (.shJr f sa) 4) ∧
      (48 ≤ pn.toNat → faults (.shPwait f pn n) 7 ∧ (x.sh.acc = none → faults (.shPinc f p pn n) 7)) ∧
      (shOpen s f.toNat none = true → peek 0 x.sh.ierr x.sh.pc = 0 → shIllegal x.sh.word = true →
        stops (.illegalInstructionEncoding f) 1)

/-- What the shepherd does beyond its registers and data memory: scratchpad accesses are requested, the arm register is loaded,
pennants are incremented and spent, descriptors are appended, step and seed words are read, tasks are pushed and popped
in order, and sh.halt halts (R52, R73, R74, R75, R229, R276, R278, R301). A pop of an empty list takes the tail of the
first list in the order of R279 that may be gleaned from: the task leaves that list, reaches the popping shepherd and
counts in the glean counter (R36, R279). The addresses of sh.arm, sh.lsp and sh.ssp are the model's reading (log entry
13). -/
def Obligations.ShepherdActsOnItsFold : Prop :=
  (∀ (s : State) (f : FoldId) (ds sa sb : BitVec 5) (imm : BitVec 15) (j : Job), s.clocked = true → s.job = some j →
     let x := s.fold f.toNat
     let ad := (x.sh.get sa + imm.signExtend 32).toNat
     let on := x.sh.goesTo ((x.sh.pc + 1) % 16384)
     let becomes (c : Instr) (y : Fold) := ShReady s f.toNat c → exec c s = .next (s.setFold f.toNat y)
     (x.sh.acc = none → ad % 4 = 0 → ad + 4 ≤ 6291456 →
       becomes (.shLsp f ds sa imm) { x with sh := { on with acc := some ⟨false, ad, 0, ds⟩ } } ∧
       becomes (.shSsp f sa sb imm) { x with sh := { on with acc := some ⟨true, ad, x.sh.get sb, 0⟩ } }) ∧
     becomes (.shArm f sa imm)
       { x with sh := on, ex := { x.ex with armAddr := BitVec.ofNat 12 ad, armValid := true } } ∧
     (∀ (p : BitVec 5) (pn : BitVec 6) (inc : BitVec 8) (g : Nat), x.sh.acc = none → pn.toNat < 48 →
       j.place p.toNat = some g →
       let m : PnMsg := { own := decide (f.toNat = g), dst := g, pn := pn.toNat, inc := inc.toNat,
                          due := x.ex.cycle + (if f.toNat = g then 2 else 32), engine := engShepherd, akind := 4, addr := x.sh.pc, tag := 0 }
       becomes (.shPinc f p pn inc)
         (({ x with sh := on, qu := { x.qu with outPn := x.qu.outPn ++ [m] } } : Fold).grant p.toNat pn.toNat inc.toNat)) ∧
     (∀ (pn : BitVec 6) (n : BitVec 8), pn.toNat < 48 → x.stallTakes s pn.toNat = false →
       (n.toNat ≤ (peek 0 x.qu.pn pn.toNat).toNat →
         becomes (.shPwait f pn n) { x with sh := on, qu := { x.qu with
           pn := put 0 x.qu.pn pn.toNat (peek 0 x.qu.pn pn.toNat - BitVec.ofNat 16 n.toNat) } }) ∧
       ((peek 0 x.qu.pn pn.toNat).toNat < n.toNat → x.sh.wait = none →
         becomes (.shPwait f pn n)
           { x with sh := { x.sh with run := .waiting, wait := some (.start (.shPwait pn n) x.ex.cycle false) } })) ∧
     (ShReady s f.toNat (.shDvapp f ds sa imm) → (∀ k < 32, peek 0 x.sh.derr ((ad + k) / 4) = 0) → ad % 32 = 0 → ad + 32 ≤ 65536 → ds.toNat < 2 → (x.dr.list (ds.toNat + 2)).buf.length < 32 →
       (x.dr.list (ds.toNat + 2)).live = true →
       ∃ t d, exec (.shDvapp f ds sa imm) s = .next t ∧
         t.fold f.toNat = { x with sh := on, dr := x.dr.setList (ds.toNat + 2) { x.dr.list (ds.toNat + 2) with
           buf := (x.dr.list (ds.toNat + 2)).buf ++ [d] } } ∧
         d.w.toNat = leNat (peekRun 0 x.sh.dmem ad 32) ∧ d.akind = 3 ∧ Others s t f.toNat) ∧
     (∀ seed high, becomes (.shRstep f ds seed high) { x with sh := x.sh.puts ds (BitVec.ofNat 32
       ((if seed then stepSeed j.hdr.seed (s.stepOf f.toNat) else s.stepOf f.toNat) / (if high then 2 ^ 32 else 1))) }) ∧
     ((x.sh.get sa).getLsbD 31 = true → x.dr.tasks.length < 256 →
       becomes (.shTpush f 0 sa 0) { x with sh := on, dr := { x.dr with tasks := x.dr.tasks ++ [x.sh.get sa] } }) ∧
     (∀ w rest, x.dr.tasks = w :: rest →
       becomes (.shTpop f ds sa 0) { x with sh := x.sh.puts ds w, dr := { x.dr with tasks := rest } }) ∧
     (x.dr.tasks = [] → glean s j x.ex.prog = none → becomes (.shTpop f ds sa 0) { x with sh := x.sh.puts ds 0 }) ∧
     becomes (.shHalt f) { x with sh := { x.sh with run := .halted } }) ∧
  (∀ (s : State) (f : FoldId) (ds sa : BitVec 5) (j : Job) (p g : Nat) (w : Word), s.clocked = true →
    ShReady s f.toNat (.shTpop f ds sa 0) → s.job = some j →
     let x := s.fold f.toNat
     x.dr.tasks = [] → glean s j x.ex.prog = some (p, g, w) → g ≠ f.toNat → (s.fold g).ex.run ≠ .idle →
     ∃ t, exec (.shTpop f ds sa 0) s = .next t ∧ (s.fold g).dr.tasks.getLast? = some w ∧
       (t.fold g).dr.tasks = (s.fold g).dr.tasks.dropLast ∧ (t.fold f.toNat).sh = x.sh.puts ds w ∧
       t.job = some { j with glean := satAdd 32 j.glean 1 } ∧ j.reefed = false ∧ bitOf j.prog.features 6 = true)

/-! ### The drover and the mast -/

/-- END stops its list, LINK continues it at the address it names or forks the second list, and a burst reads the aligned
512-byte block that holds the next descriptor, whose descriptors from that one on join the list: from device memory by a request of
the read class at its port, and from host memory once the page is translated (R228, R236, R258, R362). A
reserved KIND is an encoding fault at its descriptor (R235, R261), and that its list goes no further is log entry 19's. -/
def Obligations.ListsAreWalked : Prop :=
  (∀ (s : State) (f : FoldId) (dl : BitVec 2) (d : Desc), s.clocked = true →
     let x := s.fold f.toNat
     let walks (c : Instr) (r : Drover) := exec c s = .next (s.setFold f.toNat { x with dr := r })
     let goes (n : Nat) : DList := { next := n, live := true, asked := false, buf := [] }
     let stops (l : DList) : DList := { l with live := false, asked := false, buf := [] }
     let more (l : DList) (bytes : List Byte) : DList :=
       { l with buf := l.buf ++ descsIn l.next bytes, next := l.next + bytes.length / 32 * 32, asked := false }
     droverRuns s x = true →
     (x.dr.head dl.toNat = some d → d.kind = kEnd → d.decodeBad dl.toNat = false →
       walks (.end_ f dl) (x.dr.setList dl.toNat (stops (x.dr.list dl.toNat)))) ∧
     (x.dr.head dl.toNat = some d → d.kind = kLink → dl.toNat < 2 → d.next % 32 = 0 → d.fork = false →
       walks (.link f dl) (x.dr.setList dl.toNat (goes d.next))) ∧
     (x.dr.head 0 = some d → d.kind = kLink → d.next % 32 = 0 → d.fork = true → x.dr.dl1.live = false →
       walks (.link f 0) { x.dr with dl0 := goes (d.addr + 32), dl1 := goes d.next }) ∧
     (∀ dl1 : Bool,
       let l := x.dr.list (b2n dl1)
       let first := l.next / 512 * 512
       let req : Req := { who := .burst f.toNat (b2n dl1), off := 0, addr := first,
                          n := min 512 (s.limit - first) / 64, wr := false, data := [] }
       ∀ block : BitVec 64, l.burstDue = true → l.asked = false →
       (block.toNat ≠ l.next / 512 * 512 → exec (.descriptorBurst f dl1 block) s = .next s) ∧
       (block.toNat = l.next / 512 * 512 → isHost l.next = false → l.next < s.limit → shareBad s .read l.next = none →
         exec (.descriptorBurst f dl1 block) s =
           .next ((s.setFold f.toNat { x with dr := x.dr.setList (b2n dl1) { l with asked := true } }).ask .read req)) ∧
       (block.toNat = l.next / 512 * 512 → isHost l.next = true → s.mayAccess l.next false = true →
         walks (.descriptorBurst f dl1 block)
           (x.dr.setList (b2n dl1) (more l ((s.readMem first 512).drop (l.next % 512))))))) ∧
  (∀ (s : State) (f : FoldId) (dl1 : Bool) (port : BitVec 5) (e : Req) (bytes : List Byte) (marks : List LineMark)
     (rest : List (Req × List Byte × List LineMark)), s.clocked = true →
     let x := s.fold f.toNat
     let p := s.port port.toNat
     let l := x.dr.list (b2n dl1)
     let got := bytes.drop (l.next % 512)
     let more : DList := { l with buf := l.buf ++ descsIn l.next got, next := l.next + got.length / 32 * 32, asked := false }
     p.out = (e, bytes, marks) :: rest → (∀ m ∈ marks, m = (0, false)) → e.who = .burst f.toNat (b2n dl1) → l.live = true →
     l.asked = true → l.next / 512 * 512 = e.addr →
     exec (.readDataOut port []) s =
       .next ((s.setPort port.toNat { p with out := rest }).setFold f.toNat { x with dr := x.dr.setList (b2n dl1) more })) ∧
  (∀ (s : State) (f : FoldId) (dl : BitVec 2) (d : Desc), s.clocked = true → CanRaise s →
     droverRuns s (s.fold f.toNat) = true → (s.fold f.toNat).dr.head dl.toNat = some d → kClaim < d.kind →
     ∃ t, exec (.reservedDescriptorKind f dl) s = .next t ∧ Raises s t f.toNat 0x10 ∧
       (t.fold f.toNat).dr.list dl.toNat = { (s.fold f.toNat).dr.list dl.toNat with
         live := false, asked := false, buf := [] })

/-- A descriptor that may start and has no fault starts: READ, WRITE, FOLD, CHAN, MSRC, MTAP and CLAIM become an outstanding
transfer, CHAN takes its slot and its credit, MTAP subscribes its fold's tap, MSRC and CLAIM begin a stream, and SYNC and
PREDICT complete in the cycle of their start (R230, R231, R235, R243, R251, R252, R265, R269). -/
def Obligations.DescriptorsStart : Prop :=
  ∀ (s : State) (f : FoldId) (dl : BitVec 2) (d : Desc), s.clocked = true →
    let x := s.fold f.toNat
    let n := f.toNat
    let i := dl.toNat
    let starts (c : Instr) (p : State → Prop) := ∃ t, exec c s = .next t ∧ Started s t n i d ∧ p t
    let moves (t : State) := (t.fold n).dr.xfers.length = x.dr.xfers.length + 1 ∧
      ∃ y ∈ (t.fold n).dr.xfers, y.desc = d ∧ y.slot = x.freeSlot
    (Startable s n i kSync d → notifyBad s d = none →
      starts (.sync f dl) fun t => (t.fold n).dr.xfers = x.dr.xfers ∧
        (t.fold n).dr.tokens = x.dr.tokens ++ (if d.tok then [d.ttag] else [])) ∧
    (Startable s n i kRead d → rwBad .read s x d = none → starts (.read f dl) moves) ∧
    (Startable s n i kWrite d → rwBad .write s x d = none → starts (.write f dl) moves) ∧
    (Startable s n i kFold d → foldBad s x d = none → starts (.fold f dl) moves) ∧
    (Startable s n i kChan d → chanDescBad s x d = none →
      starts (.chan f dl) fun t => moves t ∧ ∃ m, (t.fold n).qu.outMsg = x.qu.outMsg ++ [m] ∧ m.ch = d.ch ∧
        m.lines = d.fLen ∧ m.slot = (x.chan d.ch).ptr) ∧
    (Startable s n i kMsrc d → streamBad s x d d.msid d.subs d.mem d.mGeom = none →
      starts (.msrc f dl) fun t => moves t ∧ t.msd.streamN = s.msd.streamN + 1 ∧
        t.job.map (fun j => peek none j.leaders d.msid) = some (some x.ex.prog)) ∧
    (Startable s n i kMtap d → mtapBad s x d = none →
      starts (.mtap f dl) fun t => moves t ∧ (t.fold n).dr.taps.length = x.dr.taps.length + 1) ∧
    (Startable s n i kPredict d → predictBad s x d = none →
      starts (.predict f dl) fun t => (t.fold n).dr.xfers = x.dr.xfers ∧ histGV ((t.fold n).dr.history (pSite d.n)) = true ∧
        (t.fold n).dr.tokens = x.dr.tokens ++ (if d.tok then [d.ttag] else [])) ∧
    (Startable s n i kClaim d → claimDescBad s x d = none →
      starts (.claim f dl) fun t => moves t ∧ t.msd.streamN = s.msd.streamN + 1 ∧
        histHV ((t.fold n).dr.history d.cSite) d.cSlot = true ∧
        histSlot ((t.fold n).dr.history d.cSite) d.cSlot = d.cExpert)

/-- A word is served in a drover-owned cycle of its bank: a corrected word is written back, the shepherd's access is made, a
line of a READ, of a remote transfer or of a mast tap lands, and a source line is read; the bank then serves nothing
more in this cycle (R97, R107, R247). -/
def Obligations.BanksServeInDroverCycles : Prop :=
  ∀ (s : State) (f : FoldId), s.clocked = true →
    let n := f.toNat
    let x := s.fold n
    x.ex.run ≠ .idle →
    (∀ (bank : BitVec 5) (w : Nat), x.sp.wback.find? (fun w => decide (w / 8 % 32 = bank.toNat)) = some w →
      bankServes s n bank.toNat 1 = true →
      let fixed := if peek 0 x.sp.err w = 1 then put 0 x.sp.err w 0 else x.sp.err
      exec (.eccWriteBack f bank) s = .next (s.setFold n { x with sp :=
        { x.sp with wback := x.sp.wback.erase w, served := bank.toNat :: x.sp.served, err := fixed } })) ∧
    (∀ a b c, x.sh.acc = some a → b = a.addr / 64 % 32 → c = (if ((x.ex.cycle : Int) - (b : Int)) / 4 % 3 = 0 then 2 else 8) →
      bankServes s n b c = true → x.sp.err = [] →
      let kept := putRun 0 x.sp.mem a.addr (leBytes 4 a.data.toNat)
      let read := BitVec.ofNat 32 (leNat (x.sp.bytes a.addr 4))
      let idle : Shepherd := { x.sh with acc := none }
      let spm : Spm := { x.sp with served := b :: x.sp.served }
      exec (.shepherdScratchpadAccess f) s = .next (s.setFold n
        (if a.store then { x with sh := idle, sp := { spm with mem := kept } }
         else { x with sh := idle.set a.ds read, sp := spm }))) ∧
    (∀ (k : BitVec 6) y l line rest, x.xfer k.toNat = some y → y.landLine = some l → y.ready = line :: rest →
      bankServes s n (l % 32) 6 = true → soonest (l % 32) x.readReqs = some y.slot → x.sp.err = [] →
      ∃ t, exec (.readLanding f k) s = .next t ∧ Others s t n ∧ (t.fold n).sp.mem = putRun 0 x.sp.mem (64 * l) line ∧
        (t.fold n).xfer k.toNat =
          some { y with ready := rest, landed := y.landed + 1, asked := y.asked.tail, crc := crc32cRun y.crc line }) ∧
    (∀ (seg : BitVec 2) u y l c line rest, x.tapOn seg.toNat = some u → x.xfer u.xfer = some y → tapLine x u = some l →
      u.buf = (c, line) :: rest → bankServes s n (l % 32) 3 = true → soonest (l % 32) x.mastReqs = some u.xfer → x.sp.err = [] →
      ∃ t, exec (.mastLanding f seg) s = .next t ∧ Others s t n ∧ (t.fold n).sp.mem = putRun 0 x.sp.mem (64 * l) line ∧
        (t.fold n).xfer u.xfer = some { y with landed := y.landed + 1, crc := crc32cRun y.crc line }) ∧
    (∀ (k : BitVec 6) y l, x.xfer k.toNat = some y → y.readLine = some l → bankServes s n (l % 32) 7 = true →
      soonest (l % 32) x.sourceReqs = some y.slot → y.start < x.ex.cycle → x.ex.overdue = false →
      y.ready.length + 1 < y.units → x.sp.err = [] →
      ∃ t, exec (.sourceRead f k) s = .next t ∧ Others s t n ∧ (t.fold n).sp.mem = x.sp.mem ∧
        (t.fold n).xfer k.toNat = some { y with ready := y.ready ++ [x.sp.line l], since := x.ex.cycle })

/-- A FOLD transfer reaches its receiver: its first line spends one credit of the window it begins in, and each line lands at
its place in the window in a drover-owned cycle; one that R114 refuses is a space-credit fault (0x1B) of the receiver (R112,
R114, R243, R244). -/
def Obligations.FoldTransferLandsInItsWindow : Prop :=
  ∀ (s : State) (g : FoldId) (k : BitVec 6) (y : Xfer) (j : Job) (r : Nat), s.clocked = true →
    let n := g.toNat
    let x := s.fold n
    let z := s.fold r
    s.job = some j → x.xfer k.toNat = some y → y.desc.kind = kFold → j.place y.desc.dfold = some r →
    x.ex.run ≠ .idle → z.ex.run ≠ .idle → y.held = false →
    (y.allRead = true → y.arrived = false → arrivalBad z x.ex.prog (y.target z) y.geom.len = none →
      ∃ t w, exec (.remoteTransferArrival g k) s = .next t ∧ z.qu.windowOf (y.target z) = some w ∧
        (t.fold r).qu.wcred = put 0 z.qu.wcred w (peek 0 z.qu.wcred w - 1) ∧
        (t.fold n).xfer k.toNat = some { y with arrived := true, asked := [z.ex.cycle] } ∧ t.job = s.job) ∧
    (∀ l, y.allRead = true → y.arrived = false → j.open_ = true →
      arrivalBad z x.ex.prog (y.target z) y.geom.len = some l →
      ∃ t, exec (.remoteTransferArrival g k) s = .next t ∧ Raises s t r 0x1B ∧ (t.fold r).qu.wcred = z.qu.wcred) ∧
    (∀ l line rest, y.remoteLine z = some l → y.ready.drop y.landed = line :: rest → bankServes s r (l % 32) 5 = true →
      ((soonest (l % 32) (s.remoteReqs z)).bind fun i => (s.inbound z)[i]?) = some (n, y) → z.sp.err = [] →
      ∃ t, exec (.remoteWriteLanding g k) s = .next t ∧ (t.fold r).sp.mem = putRun 0 z.sp.mem (64 * l) line ∧
        (t.fold n).xfer k.toNat =
          some { y with landed := y.landed + 1, done := decide (y.geom.len ≤ y.landed + 1), crc := crc32cRun y.crc line } ∧
        t.job = s.job)

/-- A row of an image lands in its tile when the lines that it needs came before this cycle and fewer than four of its rows have landed
in it; the first row needs a span whose every tile takes the image (R88, R239, R254). INCOMPLETE and START_ROW follow it, and a row
that execution has written in this cycle keeps what it wrote (R89, R92, R239, R533). A span with a tile not in use lands nothing and is
a shape fault of its descriptor when its first row is written (R88, R239). -/
def Obligations.TileRowLands : Prop :=
  ∀ (s : State) (f : FoldId) (k : BitVec 6) (y : Xfer), s.clocked = true →
    let n := f.toNat
    let x := s.fold n
    let g := y.geom
    let i := y.landed
    let t' := y.land.tile + i / g.rows
    let row := y.land.row0 + i % g.rows
    x.xfer k.toNat = some y → (y.desc.kind = kRead ∨ y.desc.kind = kMtap) → y.land.tiles = true → y.held = false →
    i < g.tiles * g.rows → g.rowNeeds (i / g.rows) (i % g.rows) ≤ y.had →
    (x.ti.rowsNow.filter (· = y.slot)).length < 4 → x.ex.overdue = false →
    (∀ j, s.job = some j → j.open_ = true → i = 0 → x.ex.run ≠ .idle → ∀ k' < g.tiles, y.land.tile + k' < 16 →
      x.ti.used (y.land.tile + k') = false →
      ∃ u, exec (.tileLandingRow f k) s = .next u ∧ Raises s u n 0x11 ∧ (u.fold n).ti = x.ti ∧
        ((u.fold n).xfer k.toNat).map (·.held) = some true) ∧
    ((i = 0 → y.spanBreaks = false ∧ ∀ k' < g.tiles, y.land.tile + k' < 16 → tileBad x.ti g y.land.row0 (y.land.tile + k') = none) →
    ∃ u z, exec (.tileLandingRow f k) s = .next u ∧ u = s.setFold n z ∧ z.ex = x.ex ∧ z.sp = x.sp ∧
      z.ti.start = put 0 x.ti.start t' (if i % g.rows + 1 = g.rows then 0 else row + 1) ∧
      z.ti.incomp = maskSet x.ti.incomp t' (decide (i % g.rows + 1 ≠ g.rows)) ∧
      (rowKey t' row ∈ x.ti.wrote → z.ti.dat = x.ti.dat) ∧
      (rowKey t' row ∉ x.ti.wrote →
        z.ti.dat = putRun 0 x.ti.dat (128 * rowKey t' row) (g.row y.ready (i / g.rows) (i % g.rows)).1) ∧
      z.xfer k.toNat = some { y with landed := i + 1 })

/-- A READ or MTAP that has landed whole and whose data matches, a WRITE whose lines its destination has, a FOLD that has landed whole at
its receiver, and a CHAN, MSRC or CLAIM that is done, complete: the transfer is no longer outstanding and its token is emitted (R31,
R244). A READ whose data does not match raises a tally fault and completes nothing, and a WRITE whose data its destination finds wrong
writes nothing (R181, R182). The fault of a transfer with a peer is raised here, at its descriptor, when the command says that it has
failed (log entry 83). -/
def Obligations.TransfersComplete : Prop :=
  ∀ (s : State) (f : FoldId) (k : BitVec 6) (y : Xfer), s.clocked = true →
    let n := f.toNat
    let x := s.fold n
    let ends (t : State) := (t.fold n).xfer k.toNat = none ∧
      (t.fold n).dr.tokens = x.dr.tokens ++ (if y.desc.tok then [y.desc.ttag] else []) ∧ t.msd = s.msd
    let completes := ∃ t, exec (.transferComplete f k .good) s = .next t ∧ ends t
    x.xfer k.toNat = some y → y.held = false → x.ex.run ≠ .idle →
    (y.desc.kind = kRead → y.allLanded = true → (y.desc.xcrc = true → y.desc.expcrc = y.landedCrc) → completes) ∧
    (y.desc.kind = kMtap → y.allLanded = true → (∃ u ∈ x.dr.taps, u.xfer = y.slot ∧ u.stream.isSome = true) →
      (y.desc.xcrc = true → y.desc.expcrc = y.landedCrc) → completes) ∧
    (y.desc.kind = kWrite → y.desc.peer = false → y.done = true → awaitsHost s y = false → completes) ∧
    (y.desc.kind = kWrite → y.desc.peer = true → y.sent = true → completes) ∧
    (∀ j g, s.job = some j → j.place y.desc.dfold = some g → y.desc.kind = kFold → y.done = true → completes) ∧
    (y.desc.kind = kChan ∨ y.desc.kind = kMsrc ∨ y.desc.kind = kClaim → y.done = true → completes) ∧
    (∀ j, s.job = some j → j.open_ = true → j.tallyHold = false → y.desc.kind = kRead → y.allLanded = true →
      ∃ t, exec (.transferComplete f k .crc) s = .next t ∧ Raises s t n 0x42 ∧
        (t.fold n).dr.tokens = x.dr.tokens ∧ ((t.fold n).xfer k.toNat).isSome = true) ∧
    (∀ j, s.job = some j → j.open_ = true → j.tallyHold = false → y.desc.kind = kWrite → y.sent = true →
      y.left = y.geom.len → y.arrived = false →
      ∃ t, exec (.transferComplete f k .crc) s = .next t ∧ Raises s t n 0x42 ∧ t.msd.mem = s.msd.mem ∧
        t.host.hostMem = s.host.hostMem)

/-- The earliest verdicts of a fold, of one cycle, are delivered together, not before that cycle: each part counts in the checking
counter of its kind, a failed check is a fault with its array, part and place, and a saturated part one where the job asks for it (R173,
R177, R193, R198, R418). A verdict fills the check slots of its drain (R176). What was held for verdicts leaves once the last of them is
delivered: a message of a remote channel, and a WRITE to device memory, whose lines are then requested of its ports; once a check has
failed neither leaves (R178). -/
def Obligations.VerdictsAreDelivered : Prop :=
  (∀ (s : State) (f : FoldId) (c : Nat) (j : Job), s.clocked = true →
     let x := s.fold f.toNat
     let now := x.mx.verdicts.filter fun v => decide (v.cycle = c)
     let parts := now.flatMap (·.parts)
     let plus (k : VKind) (n : Nat) := if (parts.map (·.1)).contains k then satAdd 32 n (parts.filter fun p => decide (p.1 = k)).length else n
     s.job = some j → j.open_ = true → x.ex.run ≠ .idle → now ≠ [] → (∀ v ∈ x.mx.verdicts, c ≤ v.cycle) → c ≤ x.ex.cycle →
     x.qu.outMsg = [] → x.dr.xfers = [] →
     ∃ t j', exec (.verdict f) s = .next t ∧ t.job = some j' ∧
       (t.fold f.toNat).mx.verdicts = x.mx.verdicts.filter (fun v => decide (v.cycle ≠ c)) ∧
       (t.fold f.toNat).mx.vOpen = now.foldl (fun l v => l.erase v.id) x.mx.vOpen ∧
       j'.pass = plus .pass j.pass ∧ j'.fail = plus .fail j.fail ∧ j'.trunc = plus .trunc j.trunc ∧ j'.sat = plus .sat j.sat ∧
       (∀ v ∈ now, ∀ p ∈ enumFrom 0 v.parts,
         (p.2.1 = .fail → ∃ r ∈ j'.reports, r.code = 0x40 ∧ r.lv = true ∧ r.lfold = f.toNat ∧ r.cycle = c ∧ r.tag = v.tag ∧
           r.detail = at_ 62 2 v.arr + at_ 60 2 p.1 + at_ 59 1 (b2n v.os) + at_ 52 7 p.2.2) ∧
         (p.2.1 = .sat → j.satFault = true → ∃ r ∈ j'.reports, r.code = 0x41 ∧ r.lv = true ∧ r.lfold = f.toNat ∧ r.cycle = c ∧
           r.tag = v.tag)) ∧
       ((∀ p ∈ parts, p.1 = .pass ∨ p.1 = .trunc ∨ p.1 = .sat ∧ j.satFault = false) → j'.reports = j.reports)) ∧
  (∀ (s : State) (f : FoldId) (v : PendVerdict) (j : Job), s.clocked = true →
     let n := f.toNat
     let x := s.fold n
     let opens (h : Nat) := ∀ i ∈ x.mx.vOpen.erase v.id, h ≤ i
     let after (p : State → Prop) := ∃ t, exec (.verdict f) s = .next t ∧ p t
     let passes := ∀ p ∈ v.parts, p.1 = .pass
     let fails := ∃ p ∈ v.parts, p.1 = .fail
     s.job = some j → j.open_ = true → x.ex.run ≠ .idle → x.mx.verdicts = [v] → v.cycle ≤ x.ex.cycle → verdictFaulted n s = false →
     (∀ k l, v.fill = [(k, l)] → k < 4 → x.qu.outMsg = [] → x.dr.xfers = [] → after fun t =>
       (t.fold n).mx.cslot = putRun 0 x.mx.cslot (128 * k) l ∧ (t.fold n).mx.cvalid = x.mx.cvalid ||| BitVec.ofNat 4 (2 ^ k) ∧
       (t.fold n).mx.drained = put 0 x.mx.drained k v.cycle) ∧
     (∀ m, x.qu.outMsg = [m] → x.dr.xfers = [] → (x.cent m.ch).rem = true → m.ready = true → s.treeSource x.ex.prog m.ch = none →
       (passes → opens m.hold → after fun t => (t.fold n).qu.outMsg = []) ∧
       (fails → after fun t => (t.fold n).qu.outMsg = [m])) ∧
     (∀ y, x.qu.outMsg = [] → x.dr.xfers = [y] → y.desc.kind = kWrite → y.allRead = true → y.sent = false → y.held = false →
       y.land.tiles = false → y.desc.peer = false → isHost y.src.addr = false →
       (passes → opens y.hold → after fun t => (t.fold n).dr.xfers = [{ y with sent := true }] ∧
         t.msd.ports = ((writeRuns y y.ready).foldl (fun u r => u.ask .write
           { who := .xfer n y.slot, off := r.1, addr := r.2.1, n := r.2.2.length / 64, wr := true, data := r.2.2 }) s).msd.ports) ∧
       (fails → after fun t => (t.fold n).dr.xfers = [y] ∧ t.msd.ports = s.msd.ports)))

/-- A mast stream whose source has come is prepared in its lane, sends its units to every subscriber that has room, and after
the last is gone with its MSRC done. In each mast cycle the counters of the subscribers without room run, and one that reaches
the limit is a mast stall fault of the fold it belongs to (R255, R256). -/
def Obligations.MastStreamsAreSent : Prop :=
  ∀ (s : State) (v : Stream), s.clocked = true →
    (∀ die : BitVec 2,
      (s.msd.streams.find? fun v => decide (v.die = die.toNat) && v.lane.isSome && !v.ready && v.src.complete) = some v →
      ∃ t w, exec (.msrcImageReady die) s = .next t ∧ t = s.setStream w ∧ w.id = v.id ∧ w.die = v.die ∧ w.ready = true ∧
        w.image = v.src.image ∧ w.sent = v.sent) ∧
    (∀ seg lane : BitVec 2, laneStream s seg.toNat lane.toNat = some v → v.ready = true → v.limit = none →
      s.streaming = true → blocking s v = [] →
      (v.sent + 1 < v.units → ∃ t, exec (.mastUnitSend seg lane .clean) s = .next t ∧
        (∀ w ∈ t.msd.streams, w.die = v.die → w.id = v.id → w.sent = v.sent + 1 ∧ w.stall = [])) ∧
      (v.units ≤ v.sent + 1 → ∃ t, exec (.mastUnitSend seg lane .clean) s = .next t ∧
        (∀ w ∈ t.msd.streams, ¬ (w.die = v.die ∧ w.id = v.id)) ∧
        (∀ y, (s.fold v.lfold).xfer v.lslot = some y → (s.fold v.lfold).ex.run ≠ .idle →
          ((t.fold v.lfold).xfer v.lslot).map (·.done) = some true))) ∧
    (∀ (seg lane : BitVec 2) (j : Job) (p g mask : Nat), laneStream s seg.toNat lane.toNat = some v → v.ready = true →
      s.streaming = true → s.job = some j → j.open_ = true → v.limit = some (p, mask) → j.place p = some g →
      ∃ t, exec (.mastStall seg lane) s = .next t ∧ Raises s t g 0x31) ∧
    (∀ (limit : Nat) (b : List Nat), v.ready = true → v.limit = none → b.Nodup →
      (∀ p ∈ b, peek 0 (v.count limit b).stall p = peek 0 v.stall p + 1) ∧
      ((v.count limit b).limit = none ↔ ∀ p ∈ b, peek 0 v.stall p + 1 < limit))

/-- A speculative block whose source has come is ready, and one whose source or SRAM showed an error is dropped, and is gone, and is
counted, as every word of the SRAM that its SECDED found wrong is; a CLAIM is served from the block that it found, once that is ready,
and counts as a hit, or, where it found none or the block has been dropped since, reads device memory and counts as a miss (R266, R267,
R270, R271, R324). -/
def Obligations.SpeculationServesClaims : Prop :=
  ∀ (s : State) (die : BitVec 2), s.clocked = true →
    (∀ (block : BitVec 10) (g : Stage), s.stage (stageKey die.toNat block.toNat) = some g → g.ready = false →
      (g.failed = false → g.src.complete = true →
        ∃ t h, exec (.speculativeStageReady ⟨die, block⟩ .clean) s = .next t ∧
          t.stage (stageKey die.toNat block.toNat) = some h ∧ h.ready = true ∧ h.image = g.src.image ∧
          h.expert = g.expert) ∧
      (wfMap none s.msd.stages = true → ∀ e : Ecc,
        let drops (p : State → Prop) := ∃ t, exec (.speculativeStageReady ⟨die, block⟩ e) s = .next t ∧
          t.msd.stages = put none s.msd.stages (stageKey die.toNat block.toNat) none ∧
          t.stage (stageKey die.toNat block.toNat) = none ∧ t.msd.specDrop = ctrAdd s.msd.specDrop 1 ∧
          t.msd.eccSingle = ctrAdd s.msd.eccSingle e.singles ∧ t.msd.eccDouble = ctrAdd s.msd.eccDouble e.doubles ∧ p t
        (g.failed = true → drops fun t => t.msd.specErr = ctrAdd s.msd.specErr 1) ∧
        (g.failed = false → 0 < e.doubles → drops fun t => t.msd.specErr = s.msd.specErr))) ∧
    (∀ (c : Claim) (rest : List Claim) (v : Stream), peek [] s.msd.claims die.toNat = c :: rest →
      (s.msd.streams.find? fun v => decide (v.die = die.toNat) && decide (v.id = c.stream)) = some v →
      (c.block s = none → s.msd.specMiss < ctrMax →
        ∃ t, exec (.claimService die .clean) s = .next t ∧ t.msd.specMiss = s.msd.specMiss + 1 ∧
          t.msd.specHit = s.msd.specHit) ∧
      (∀ k g, c.block s = some (k, g) → g.ready = false → exec (.claimService die .clean) s = .next s) ∧
      (∀ k g l, c.block s = some (k, g) → g.ready = true →
        lanes.find? (laneFree s die.toNat) = some l → s.msd.specHit < ctrMax →
        ∃ t, exec (.claimService die .clean) s = .next t ∧ t.msd.specHit = s.msd.specHit + 1 ∧
          t.msd.specMiss = s.msd.specMiss ∧
          (∀ w ∈ t.msd.streams, w.die = v.die → w.id = v.id → w.ready = true ∧ w.image = g.image ∧ w.lane = some l)))

/-! ### Memory ports -/

/-- A data slot, one of 15 before a maintenance period, serves the earliest request of the class that the split gives it, the device's
own first, or stays idle: a read's lines are those that memory holds in the slot, and a write takes effect in it (R258, R260,
R318, R319, R320). -/
def Obligations.DataSlotServesItsClass : Prop :=
  ∀ (s : State) (port : BitVec 5), s.clocked = true →
    let n := port.toNat
    let p := s.port n
    let c := slotClass s.msd.split p.slot
    let queue := match c with | .read => p.rq | .write => p.wq | .remote => p.xq
    let own := p.dq.findIdx? fun r => decide (deviceClass s.msd.split r.wr = c)
    let q := { p with slot := (p.slot + 1) % 100, place := p.place + 1 }
    portServes n s = true → p.place < 15 →
    (own = none → queue = [] → exec (.dataSlot port []) s = .next (s.setPort n q)) ∧
    (∀ e x,
      (∃ rest, own = none ∧ queue = e :: rest ∧
        x = (match c with | .read => { q with rq := rest } | .write => { q with wq := rest } | .remote => { q with xq := rest })) ∨
      (∃ i, own = some i ∧ p.dq[i]? = some e ∧ x = { q with dq := p.dq.eraseIdx i }) →
      (e.wr = false → exec (.dataSlot port []) s = .next (s.setPort n { x with out := p.out ++
        [(e, s.readMem e.addr (64 * e.n), (List.range e.n).map fun i => s.lineMark (e.addr + 64 * i))] })) ∧
      (e.wr = true → s.host.windows = [] → s.msd.lineErr = [] →
        ∃ t, exec (.dataSlot port []) s = .next t ∧ t.msd.mem = putRun memDefault s.msd.mem e.addr e.data ∧
          t.host.hostMem = s.host.hostMem ∧
          (∀ b, e.who = .cxl b → t.host.cxlOut = s.host.cxlOut ++ [.done e.addr])))

/-- The lines of a read slot leave the port in order: a line with one wrong byte is corrected and counted, and one with two is
lost, counted, and kept in OD 0x5004.02. A maintenance period, after 15 data slots, advances the scrub, counts a line that it
corrects and in the next one writes back what it delivered of it; the end of a pass is counted. A failed port is fatal with cause 0x03, and its stored training
record serves no more (R317, R318, R320, R322, R327, R328, R329, R331). -/
def Obligations.PortsDeliverAndScrub : Prop :=
  ∀ (s : State) (port : BitVec 5), s.clocked = true →
    let n := port.toNat
    let p := s.port n
    (∀ e bytes marks rest b, p.out = (e, bytes, marks) :: rest → e.who = .cxl b →
      ((∀ m ∈ marks, m = (0, false)) →
        ∃ t, exec (.readDataOut port []) s = .next t ∧ t.host.cxlOut = s.host.cxlOut ++ [.data e.addr bytes] ∧
          t.msd = (s.setPort n { p with out := rest }).msd) ∧
      (bytes.length = 64 → marks = [(1, false)] → s.msd.corrected < ctrMax →
        ∃ t, exec (.readDataOut port []) s = .next t ∧ t.msd.corrected = s.msd.corrected + 1 ∧
          t.host.cxlOut = s.host.cxlOut ++ [.data e.addr bytes]) ∧
      (bytes.length = 64 → marks = [(2, false)] → s.msd.uncorrected < ctrMax →
        ∃ t, exec (.readDataOut port []) s = .next t ∧ t.msd.uncorrected = s.msd.uncorrected + 1 ∧
          t.host.cxlOut = s.host.cxlOut ++ [.poison e.addr] ∧ t.msd.lastDetail = memDetail 1 n e.addr ∧
          StatusBit t bitMem)) ∧
    (portServes n s = true → 15 ≤ p.place → p.fixing = [] → s.msd.lineErr = [] →
      (p.scrub + 1 < scrubPeriods s.msd.rawGiB →
        exec (.maintenancePeriod port []) s = .next (s.setPort n { p with place := 0, scrub := p.scrub + 1 })) ∧
      (scrubPeriods s.msd.rawGiB ≤ p.scrub + 1 → s.msd.scrubPass < ctrMax →
        ∃ t, exec (.maintenancePeriod port []) s = .next t ∧ t.msd.scrubPass = s.msd.scrubPass + 1 ∧
          t.msd.mem = s.msd.mem)) ∧
    (∀ l i, portServes n s = true → 15 ≤ p.place → p.fixing = [] → scrubPart p.scrub = .payload l i →
      (let a := granuleAddr s.chip.grade n l + 64 * i
       s.lineMark a = (1, false) → (∀ k, 1 ≤ k → k < 4 → s.lineMark (a + 64 * k) = (0, false)) →
       s.msd.corrected < ctrMax →
       ∃ t, exec (.maintenancePeriod port []) s = .next t ∧ (t.port n).fixing = [(a, s.readMem a 64)] ∧
         t.msd.corrected = s.msd.corrected + 1 ∧ t.msd.mem = s.msd.mem)) ∧
    (portServes n s = true → 15 ≤ p.place → p.fixing ≠ [] → wfMap (0, false) s.msd.lineErr = true →
      ∃ t, exec (.maintenancePeriod port []) s = .next t ∧
        t.msd.mem = p.fixing.foldl (fun m e => putRun memDefault m e.1 e.2) s.msd.mem ∧
        t.msd.ports = (s.setPort n { p with place := 0, fixing := [] }).msd.ports ∧
        ∀ e ∈ p.fixing, t.lineMark e.1 = (0, false)) ∧
    (portServes n s = true →
      ∃ t, exec (.portFailure port) s = .next t ∧ (t.port n).failed = true ∧
        (∀ r, peek none (s.look.kept.recs.now []) n = some r →
          peek none (t.look.kept.recs.now []) n = some { r with ok := false }) ∧
        t.chip.fatal = (if s.chip.fatal = 0 then 3 else s.chip.fatal) ∧ StatusBit t bitFatal ∧ StatusBit t bitMem ∧
        (∀ j, s.job = some j → j.open_ = true →
          ∃ k r, t.job = some k ∧ k.reports = j.reports ++ [r] ∧ r.code = 0x53 ∧ r.lv = false))

/-! ### Power, clocks and temperature -/

/-- A quad's window of 1,024 cycles closes: its total enters the history of 64, the governor's step is no higher than the
thermal limit, and what the running job declared in it beyond its allowance is a power declaration fault of the fold that declared
most in the window's last cycle (R447, R448, R449, R453; with no such fold it is a report of no fold, the model's choice, log entry
38). A frame of the regulator carries the new target; without one still to be answered it goes out when the target changes (R505). The
step is the largest whose estimate is within the cap, and never less than 8 (R453). -/
def Obligations.PowerWindowCloses : Prop :=
  (∀ (s : State) (q : BitVec 3), s.clocked = true →
     let u := s.quad q.toNat
     (s.chip.grade.quads ≤ q.toNat ∨ u.winCycles < 1024 → exec (.powerWindow q) s = .next s) ∧
     (q.toNat < s.chip.grade.quads → 1024 ≤ u.winCycles →
       ∃ t, exec (.powerWindow q) s = .next t ∧ (t.quad q.toNat).windows = u.windows + 1 ∧
         (t.quad q.toNat).winSum = 0 ∧ (t.quad q.toNat).jobSum = 0 ∧ (t.quad q.toNat).winCycles = 0 ∧
         (t.quad q.toNat).hist = (u.winSum :: u.hist).take 64 ∧ (t.quad q.toNat).k ≤ u.kTherm ∧
         (t.quad q.toNat).k ≤ 32 ∧ (t.quad q.toNat).kTherm = u.kTherm ∧ (t.quad q.toNat).cap = u.cap ∧
         (let w := t.quad q.toNat
          w.avs = (if w.frame then u.avs ++ [750 + w.t] else u.avs) ∧
            (u.frame = false → w.frame = decide (750 + w.t ≠ u.avs.getLastD 750))) ∧
         (∀ j, s.job = some j → u.jobSum ≤ j.prog.heavyMax * 1024 → t.job = s.job) ∧
         (∀ j, s.job = some j → j.open_ = true → j.prog.heavyMax * 1024 < u.jobSum →
           (∀ f b g, u.top = some (f, b, g) → Raises s t f 0x15) ∧ (u.top = none → RaisesAlone s t 0x15)))) ∧
  (∀ (d f cap8 n : Nat) (t : Int), 8 ≤ n →
     let k := stepWithin d f t cap8 n
     8 ≤ k ∧ k ≤ n ∧ (8 < k → overCap d f t cap8 k = false) ∧ (∀ i, k < i → i ≤ n → overCap d f t cap8 i = true))

/-- Droop stretches the fold's cycles until the supply recovers; the thermal loop lowers a hot quad's limit by two steps, no
lower than 8, holds it in between, and raises it by one, no higher than 32 (R452, R459); that the step in use falls at once with a
lower limit is log entry 101's. The lookout samples every
sensor; those of folds that the grade lacks read as zero, and a sensor at its trip limit is a fatal condition with cause 0x05 whose
reset holds the device in reset (R458, R460, R481). That reset asserts at once, or waits for the end of a flash pulse: whether the
lookout's work on flash has a pulse in progress is a free value (R468, log entry 32), so the statement leaves the two outcomes. k_thermal of
every quad is 32 after reset (R459). -/
def Obligations.TemperatureAndDroop : Prop :=
  (∀ q, (State.reset.quad q).kTherm = 32) ∧
  (∀ (s : State),
     (∀ f : FoldId,
       let x := s.fold f.toNat
       exec (.droop f) s = .next (s.setFold f.toNat { x with db := { x.db with droop := true } }) ∧
       exec (.supplyRecovers f) s = .next (s.setFold f.toNat { x with db := { x.db with droop := false } })) ∧
     (s.lookoutRuns = true → wfMap Quad.init s.pow.quads = true →
       ∃ t, exec .thermalLoop s = .next t ∧ t.job = s.job ∧ t.msd = s.msd ∧
         ∀ q < s.chip.grade.quads,
           let u := s.quad q
           let hot (limit : Int) := (quadSensors q).any (hotAt s.look.sensors limit)
           let k := if hot 100 then max 8 (u.kTherm - 2) else if hot 95 then u.kTherm else min 32 (u.kTherm + 1)
           (t.quad q).kTherm = k ∧ t.quad q = { u with kTherm := k, k := (t.quad q).k } ∧
           (t.quad q).k = (if hot 100 then min u.k k else u.k))) ∧
  (∀ (s : State) (rd memory : List Int),
     let kept := (enumFrom 0 rd).map fun p => if p.1 < 32 ∧ s.chip.grade.folds ≤ p.1 then 0 else p.2
     let t0 : State := { s with look := { s.look with sensors := kept, memTemps := memory } }
     s.lookoutRuns = true → s.chip.tripHold = false →
     (tripSensor t0 = none →
       ∃ t, exec (.sensorSample rd memory) s = .next t ∧ t.look.sensors = kept ∧ t.look.memTemps = memory ∧
         t.chip = s.chip ∧ t.job = s.job ∧ t.msd = s.msd ∧
         (t0.warm = true → s.warm = false → StatusBit t bitTherm)) ∧
     (∀ i v, tripSensor t0 = some (i, v) → s.chip.heldOff = [] →
       ∃ t, exec (.sensorSample rd memory) s = .next t ∧
         ((t.chip.phase = .held ∧ t.chip.tripHold = true ∧ t.job = none) ∨
           (t.chip.heldOff = [srcTrip] ∧ t.chip.fatal = (if s.chip.fatal = 0 then 5 else s.chip.fatal)))))

/-! ### The end of a job -/

/-- A completion record is written at the tail of its ring once the ring has room and is translated, with the status that its event
left, and so is a heartbeat; without room the record waits and a heartbeat is skipped and counted (R362, R378, R379, R380, R381, R403). -/
def Obligations.CompletionRingIsWritten : Prop :=
  ∀ (s : State), s.clocked = true →
    let r := s.host.comp
    let entry := r.entry 64 r.tail.toNat
    s.memWf = true → isHost entry = true → entry % 4096 ≤ 4032 → s.ownReady [s.compWrite] = true →
    (∀ c rest, s.host.compWait = c :: rest → s.writing = false →
      (s.compRoom = true →
        ∃ t, exec .completionRecord s = .next t ∧ t.host.compWait = rest ∧ t.host.comp = { r with tail := r.tail + 1 } ∧
          peekRun memDefault t.host.hostMem (s.hostAddr entry) 64 = c.bytes s.host.compPhase ∧
          t.msd = s.msd ∧ t.job = s.job) ∧
      (s.compRoom = false → exec .completionRecord s = .next s)) ∧
    (s.iodRuns = true → s.host.heartbeat ≠ 0 →
      (s.compRoom = true → ∃ t, exec .heartbeat s = .next t ∧ t.host.comp = { r with tail := r.tail + 1 } ∧
        peekRun memDefault t.host.hostMem (s.hostAddr entry) 64 = (heartbeatRec s).bytes s.host.compPhase) ∧
      (s.compRoom = false → s.host.skipped < ctrMax →
        ∃ t, exec .heartbeat s = .next t ∧ t.host.skipped = s.host.skipped + 1 ∧ t.host.comp = r))

/-- A job whose folds have all ended is read back and commits: a result buffer in device memory is read in port slots, one in host memory
once it is translated, and its CRC-64 taken (that the command asks for its lines first and goes on when it comes again, and that the
report of a line that fails has LV 0, is log entry 92's); a line that cannot be corrected is a memory fault. Then the check records are
written, and an unsigned job leaves the device while a signed one waits for its digest's signature (R43, R191, R192, R195, R260, R412,
R531). -/
def Obligations.JobIsReadBackAndCommits : Prop :=
  ∀ (s : State) (j : Job), s.clocked = true → s.job = some j → s.readsBack j = true →
    (∀ (n : BitVec 12) (e : ResEnt), j.results[n.toNat]? = some e → peek none j.crcs n.toNat = none →
      (∀ a : BitVec 64, a.toNat ≠ e.addr → exec (.crc64Readback n a) s = .next s) ∧
      ∀ addr : BitVec 64, addr.toNat = e.addr →
      (isHost e.addr = true → s.ownReady [(e.addr, e.len, false)] = true →
        exec (.crc64Readback n addr) s = .next { s with job := some { j with
          phase := .readback, crcs := put none j.crcs n.toNat (some (crc64 (s.readMem e.addr e.len))) } }) ∧
      (isHost e.addr = false →
        (s.devRead (.result n.toNat) = none →
          exec (.crc64Readback n addr) s = .next (({ s with job := some { j with phase := .readback } }).readFor
            (.result n.toNat) [(e.addr, e.len)])) ∧
        (∀ d, s.devRead (.result n.toNat) = some d →
          (d.left ≠ 0 → exec (.crc64Readback n addr) s = .next s) ∧
          (d.left = 0 → d.bad = none →
            ∃ t, exec (.crc64Readback n addr) s = .next t ∧ t.devRead (.result n.toNat) = none ∧
              (let sum := crc64 (peekRun memDefault d.mem e.addr e.len)
               t.job = some { j with phase := .readback, crcs := put none j.crcs n.toNat (some sum) })) ∧
          (∀ a, d.left = 0 → d.bad = some a →
            ∃ t k r, exec (.crc64Readback n addr) s = .next t ∧ t.job = some k ∧ k.phase = .readback ∧ k.crcs = j.crcs ∧
              k.reports = j.reports ++ [r] ∧ r.code = 0x53 ∧ r.lv = false)))) ∧
    ((∀ n < j.results.length, peek none j.crcs n ≠ none) →
      (j.hdr.sign = false →
        ∃ t, exec .jobCommit s = .next t ∧ t.job = none ∧ t.msd.split = (72, 18, 10) ∧ t.msd.mem = s.msd.mem ∧
          t.msd.streams = [] ∧
          (isHost j.hdr.records = false → j.results ≠ [] → j.hdr.records % 4096 + 64 * j.results.length ≤ 4096 →
            ∃ r ∈ (t.port (portOf s.chip.grade j.hdr.records)).dq, r.who = .dev .out ∧ r.wr = true ∧
              r.addr = j.hdr.records ∧ r.data = j.checkRecords)) ∧
      (j.hdr.sign = true →
        ∃ t, exec .jobCommit s = .next t ∧ t.job = some { j with phase := .signing } ∧ RsaJob.digest ∈ t.look.rsa ∧
          t.msd.split = (72, 18, 10)))

/-! ### What the host answers -/

/-- Translation completions, invalidations, page responses and their timeouts, BIRsp and CXL.mem accesses have their effect
(R359, R361, R362, R363, R364, R472). A Success response for a page gives up the old translation, and the transfers that waited go on
with a new one: a host READ that stalled at the page asks for it again and has lost nothing (R364). -/
def Obligations.HostAnswersTakeEffect : Prop :=
  ∀ (s : State), s.clocked = true →
    (∀ a : AtsAnswer, 12 ≤ a.sizeLog.toNat → a.sizeLog.toNat ≤ 30 → s.host.tt.length < 4096 →
      (s.host.ats.any fun r => (entOf s a).covers s.jobPasid r.1) = true →
      ∃ t, exec (.atsTranslationCompletion a) s = .next t ∧ entOf s a ∈ t.host.tt) ∧
    (∀ (base : BitVec 64) (sizeLog : BitVec 6) (pasid : Option (BitVec 20)),
      let lo := base.toNat % 2 ^ 63
      let hi := lo + 2 ^ sizeLog.toNat
      ∃ t, exec (.atsInvalidate base sizeLog pasid) s = .next t ∧ t.host.tt.length = s.host.tt.length ∧
        t.host.invDone = s.host.invDone ++ [(lo, 2 ^ sizeLog.toNat, pasid.map (·.toNat))] ∧
        (∀ e ∈ t.host.tt, e.valid = true → e.pasid = pasid.map (·.toNat) → ¬ (e.ubase < hi ∧ lo < e.ubase + e.size)) ∧
        t.msd = s.msd ∧ t.folds = s.folds ∧ t.job = s.job) ∧
    (∀ (page : BitVec 64) (f k : Nat) (y : Xfer) (j : Job),
      (s.host.pri.filter fun r => decide (r.1 = pageOf page.toNat)) = [(pageOf page.toNat, f, k)] → k < 64 →
      (s.fold f).xfer k = some y → (s.fold f).ex.run ≠ .idle → s.job = some j → j.open_ = true →
      (j.places.filter fun g => decide (g = f)) = [f] →
      let fails (c : Instr) := ∃ t, exec c s = .next t ∧ Raises s t f 0x60 ∧
        ((t.fold f).xfer k).map (·.held) = some true ∧ ∀ r ∈ t.host.pri, r.1 ≠ pageOf page.toNat
      fails (.pageResponse page .failure) ∧ fails (.pageResponse page .invalid) ∧ fails (.pageRequestTimeout page)) ∧
    (∀ (page : BitVec 64) (w : Nat × Nat × Nat), w ∈ s.host.pri → w.1 = pageOf page.toNat →
      ∃ t, exec (.pageResponse page .success) s = .next t ∧ t.job = s.job ∧ t.msd = s.msd ∧ (∀ r ∈ t.host.pri, r.1 ≠ pageOf page.toNat) ∧
        (∀ e ∈ t.host.tt, e.covers s.jobPasid (pageOf page.toNat) = false) ∧
        (∀ (f k : Nat) (y : Xfer) (j : Job), s.job = some j → f ∈ j.places → (s.fold f).xfer k = some y →
          (∀ z ∈ (s.fold f).dr.xfers, z.slot = k → z = y) → y.desc.kind = kRead → y.host = true → y.held = false → y.src.have < y.geom.len →
          pageOf (y.src.lineAddr y.src.have) = pageOf page.toNat →
          (t.fold f).xfer k = some y ∧ ∃ wr, (pageOf page.toNat, wr, f, k) ∈ t.host.ats)) ∧
    (∀ page : BitVec 64, (∀ r ∈ s.host.pri, r.1 ≠ pageOf page.toNat) → ∀ a, exec (.pageResponse page a) s = .next s) ∧
    (∀ line : BitVec 64,
      let mine (e : Nat × List Byte) := decide (e.1 / 64 = line.toNat / 64)
      ∃ t, exec (.birsp line) s = .next t ∧ t.host.snoop = s.host.snoop.filter (fun e => !mine e) ∧
        t.msd.mem = (s.host.snoop.filter mine).foldl (fun m e => putRun memDefault m e.1 e.2) s.msd.mem) ∧
    (∀ (a : BitVec 64) (d : List Byte) (poison : Bool), s.chip.cxlUp = true → s.host.hdmBase.toNat ≤ a.toNat → d.length = 64 →
      let line := (a.toNat - s.host.hdmBase.toNat) / 64 * 64
      let req (poison wr : Bool) (data : List Byte) : Req :=
        { who := .cxl poison, off := 0, addr := line, n := 1, wr := wr, data := data }
      (s.memoryActive = false →
        let poisons (c : Instr) :=
          exec c s = .next { s with host := { s.host with cxlOut := s.host.cxlOut ++ [.poison line] } }
        poisons (.cxlMemRequest (.read a)) ∧ poisons (.cxlMemRequest (.write a d poison))) ∧
      (s.memoryActive = true → line < s.limit →
        let p := portOf s.chip.grade line
        let asks (r : Req) := Host.Outcome.next (φ := Fault) (ρ := Refusal)
          (s.setPort p { s.port p with xq := (s.port p).xq ++ [r] })
        exec (.cxlMemRequest (.read a)) s = asks (req false false (List.replicate 64 0)) ∧
          exec (.cxlMemRequest (.write a d poison)) s = asks (req poison true d)))

/-! ### Reset and start-up -/

/-- Every reset source resets the device when it is taken: what it leaves is the reset state, with the cause of the reset
(R462, R463, R464, R466, R467, R469, R482). That device memory and the folds are empty then, which R469 leaves undefined, is log entries 8
and 2's, and the cause of several sources of one reset log entry 31's. A fall of power-good is one that its filter takes or one that
it ignores, which is a free value (R513, log entry 111). While a flash pulse holds resets off, a source other than power-good waits
and changes nothing else but the level of its ball (R508), and no command that needs one of the stopped clocks has an effect (R468; which
commands these are is log entry 103's). -/
def Obligations.ResetSourcesReset : Prop :=
  (∀ (s : State),
     let resets (c : Instr) (src : Nat) := ∃ t, exec c s = .next t ∧ ResetBy s t src
     (s.chip.pgood = true → ∃ t, exec .pgoodFall s = .next t ∧
       ((ResetBy s t srcPower ∧ t.chip.pgood = false ∧ t.chip.tripHold = false) ∨ t = { s with freeCtr := s.freeCtr + 1 })) ∧
     (s.chip.pgood = false → exec .pgoodFall s = .next s) ∧
     (s.chip.heldOff = [] → s.flashWork = false → s.dict.runs = [] →
       (∀ ns : BitVec 32, s.chip.pgood = true → 250 ≤ ns.toNat → resets (.resetN ns) srcResetN) ∧
       (s.chip.pgood = true → resets .perstN srcPerst) ∧
       (s.chip.pgood = true → resets .cxlHotReset srcHot) ∧
       (s.look.wdog = true → resets .watchdogExpiry srcWatchdog) ∧
       (s.chip.cxlUp = true → s.chip.ldownArm = true → s.chip.phase = .ready → s.chip.fatal = 0 →
         resets .cxlLinkDown srcLinkDown ∧ resets .cxlRefclkLoss srcLinkDown)) ∧
     (∀ ns : BitVec 32, ns.toNat < 200 → exec (.resetN ns) s = .next s) ∧
     (∀ src, s.chip.heldOff = [src] → s.dict.runs = [] → resets .resetHoldoffEnd src)) ∧
  (∀ (s : State), s.chip.heldOff ≠ [] →
     (∀ c, needsClock c = true → exec c s = .next s) ∧ (s.pending = [] → step s = .next s) ∧
     let waits (c : Instr) (src : Nat) (rst perst : Bool) :=
       exec c s = .next { s with chip := { s.chip with heldOff := s.chip.heldOff ++ [src], rstLow := rst, perstLow := perst } }
     (s.chip.pgood = true → waits .perstN srcPerst s.chip.rstLow true ∧ waits .cxlHotReset srcHot s.chip.rstLow s.chip.perstLow ∧
       ∀ ns : BitVec 32, 250 ≤ ns.toNat → waits (.resetN ns) srcResetN (s.chip.rstLow || decide (10000 ≤ ns.toNat)) s.chip.perstLow) ∧
       (s.look.wdog = true → waits .watchdogExpiry srcWatchdog s.chip.rstLow s.chip.perstLow))

/-- The release order: power and the reset's release, the lookout's boot of an image that verifies, memory training at the
highest rate that every port trains at, the self-test of each quad in order, and ready; the boot logs the reset with its cause, and LOG
is set for it when the device is ready (R325, R438, R465, R467, R471, R479, R486, R487, R493, R508). With RESET_N or PERST_N low the
release may wait: whether it has risen is a free value (log entry 116). Memory is empty after training by log entry 8, the cause
stands in the low 16 bits of DATA by log entry 26, LOG follows the reset's entry at ready by log entry 104, the kind of a training of several
ports is log entry 90's, and the CXL port's training in any released phase log entry 102's. -/
def Obligations.ReleaseOrderIsFollowed : Prop :=
  ∀ (s : State),
    (∀ role test : Bool, s.chip.pgood = false → exec (.pgoodRise role test) s =
      .next { s with chip := { s.chip with pgood := true, rigged := role, testEn := test } }) ∧
    (s.chip.phase = .held → s.chip.pgood = true → s.chip.tripHold = false → s.chip.heldOff = [] →
      (s.chip.rstLow = false → s.chip.perstLow = false →
        (s.chip.sysRef = true → ∃ t, exec .resetRelease s = .next t ∧ t.chip.phase = .released ∧
          (s.chip.testEn = false → t.chip.fatal = s.chip.fatal) ∧
          (s.chip.rigged = true → ∀ l < s.chip.grade.links, s.rig.linkEn.getLsbD l = true → s.chip.rigRef.getLsbD (l / 8) = true →
            (peek Link.init t.rig.links l).st = 1)) ∧
        (s.chip.sysRef = false →
          exec .resetRelease s = .next { s with chip := { s.chip with phase := .noClock } })) ∧
      (s.chip.rstLow = true ∨ s.chip.perstLow = true → s.chip.sysRef = true →
        ∃ t, exec .resetRelease s = .next t ∧
          ((t.chip.phase = .released ∧ t.chip.rstLow = false ∧ t.chip.perstLow = false) ∨ t = { s with freeCtr := s.freeCtr + 1 }))) ∧
    (s.chip.phase = .held → s.chip.pgood = false ∨ s.chip.tripHold = true ∨ s.chip.heldOff ≠ [] → exec .resetRelease s = .next s) ∧
    (s.chip.phase = .noClock → s.chip.heldOff = [] → ∃ t, exec .sysRefclkAppears s = .next t ∧ t.chip.phase = .released) ∧
    (s.chip.phase = .released → s.look.verify s.look.nextBoot = 0 →
      ∃ t, exec .lookoutBoot s = .next t ∧ t.chip.phase = .booted ∧ t.look.active = s.look.nextBoot ∧ t.look.wdog = true ∧
        t.look.priv = s.look.ident.privateKey ∧ t.look.entry = hdrEntry (s.look.imageHdr s.look.nextBoot) ∧
        (s.look.ident.privateKey = none → StatusBit t bitSec) ∧
        t.chip.ended = [] ∧ (s.look.buf.length < 256 → t.chip.resetNoted = true ∧
          ∃ e ∈ t.look.buf, e.cls = 2 ∧ e.data % 2 ^ 16 = s.chip.cause.toNat)) ∧
    (s.chip.phase = .released → s.look.verify s.look.nextBoot ≠ 0 → s.look.verify (1 - s.look.nextBoot) ≠ 0 →
      s.chip.fatal = 0 → ∃ t, exec .lookoutBoot s = .next t ∧ t.chip.phase = .recovery ∧ t.chip.fatal = 0xFF ∧
        StatusBit t bitFatal) ∧
    (∀ ps r, s.clocked = true → s.chip.phase = .booted → s.chip.fatal = 0 → ps.length = s.chip.grade.ports → loadsOk ps = true →
      (ratesFrom s.msd.rateNow.toNat).find? (fun r => ps.all fun p => decide (r ≤ p.best.toNat)) = some r →
      ∃ t, exec (.portTraining ps) s = .next t ∧ t.chip.phase = .trained ∧ t.msd.rate = r ∧ t.msd.mem = [] ∧
        t.msd.ports = freshPorts ps.length ∧ t.msd.trainKind = trainKindOf s r ps ∧
        (t.msd.recWriting = true ↔ trainKindOf s r ps ≠ 0) ∧
        ∀ p ∈ ps, t.msd.config = p.config.toNat ∧ t.msd.rawGiB = p.rawGiB.toNat) ∧
    (s.msd.recWriting = true → ∃ t, exec .trainingRecordWritten s = .next t ∧ t.msd = { s.msd with recWriting := false } ∧
      t.look.kept.full.now true = false ∧ ∀ p < s.chip.grade.ports, peek none (t.look.kept.recs.now []) p =
        some { config := s.msd.config, rawGiB := s.msd.rawGiB, rate := s.msd.rate, ok := !(s.port p).failed }) ∧
    (∀ (q : BitVec 3) (failed : BitVec 4) (repairs : BitVec 16), s.clocked = true →
      s.chip.phase = .trained → q.toNat < s.chip.grade.quads →
      popCount s.chip.quadsTested.toNat 8 = q.toNat →
      ∃ t, exec (.foldSelfTest q failed repairs) s = .next t ∧ t.chip.repairs = repairs ∧
        t.chip.quadsTested.getLsbD q.toNat = true ∧
        ∀ i < 4, t.chip.failedFolds.getLsbD (4 * q.toNat + i) = failed.getLsbD i) ∧
    (∀ dies : BitVec 8, s.clocked = true → s.chip.phase = .trained → popCount s.chip.quadsTested.toNat 8 = s.chip.grade.quads →
      ∃ t, exec (.deviceReady dies) s = .next t ∧ t.chip.phase = .ready ∧
        (s.chip.resetNoted = true → StatusBit t bitLog) ∧ (dies &&& 0xBF ≠ 0 → StatusBit t bitFatal)) ∧
    (s.clocked = true → s.chip.phase ≠ .held → s.chip.phase ≠ .noClock →
      exec .cxlLinkUp s = .next { s with chip := { s.chip with cxlUp := true, cxlRef := true } })

/-- A lost system clock and an uncorrectable error of the lookout's memory are fatal, each with its cause, while the device
runs. The reset command 0x5A to OD 0x3060.03 resets the device; what R469 leaves undefined is empty then by log entries 2 and 8.
Block-level resets of folds or of whole quads begin when no job and no fold is busy, and are refused with 0x04 otherwise; one that
completes leaves its fold in the reset state, its registers and memories as log entry 2 has them, but for its count of corrected errors,
which only a reset of the device clears (R107, R430), and the droop of its supply (R452), and its self-test result stands (R419, R445,
R462, R475, R476, R478, R480, R507). -/
def Obligations.FatalConditionsAndBlockResets : Prop :=
  ∀ (s : State),
    (s.chip.phase ≠ .held → s.chip.phase ≠ .noClock →
      (s.chip.sysRef = true → ∃ t, exec .sysRefclkLoss s = .next t ∧ t.chip.sysRef = false ∧
        t.chip.fatal = (if s.chip.fatal = 0 then 0xFF else s.chip.fatal) ∧ StatusBit t bitFatal) ∧
      (∃ t, exec .uncorrectableLookoutError s = .next t ∧
        t.chip.fatal = (if s.chip.fatal = 0 then 4 else s.chip.fatal) ∧ StatusBit t bitFatal ∧ t.folds = s.folds)) ∧
    (∀ slot : BitVec 8, PathH s slot.toNat → s.chip.heldOff = [] → s.flashWork = false →
      ∃ t, exec (.deviceResetCommand slot) s = .next t ∧ ResetBy s t srcCommand) ∧
    (∀ (slot : BitVec 8) (v : DWord), PathH s slot.toNat →
      let n := slot.toNat
      let val := v.toNat
      let folds := s.chip.blockReset ||| v.truncate 32
      let quads := s.chip.blockReset ||| BitVec.ofNat 32 (quadFolds val)
      (val < 2 ^ s.chip.grade.folds → blockRefused val s = false →
        Writes s n (.foldBlockReset slot v) 0 fun t => t.chip = { s.chip with blockReset := folds } ∧ t.folds = s.folds) ∧
      (val < 2 ^ s.chip.grade.folds → blockRefused val s = true → Refuses s n (.foldBlockReset slot v) 0x04) ∧
      (val < 2 ^ s.chip.grade.quads → blockRefused (quadFolds val) s = false → wfMap Quad.init s.pow.quads = true →
        Writes s n (.quadBlockReset slot v) 0 fun t => t.chip = { s.chip with blockReset := quads } ∧ t.folds = s.folds ∧
          ∀ q < 8, v.getLsbD q = true → (t.quad q).hist = [] ∧ (t.quad q).windows = 0 ∧ (t.quad q).cap = (s.quad q).cap) ∧
      (val < 2 ^ s.chip.grade.quads → blockRefused (quadFolds val) s = true → Refuses s n (.quadBlockReset slot v) 0x04)) ∧
    (∀ (f : FoldId) (pass : Bool), s.clocked = true → s.chip.blockReset.getLsbD f.toNat = true → wfMap Fold.init s.folds = true →
      ∃ t, exec (.blockResetComplete f pass) s = .next t ∧
        t.fold f.toNat = { Fold.init with sp := { Spm.init with eccCount := (s.fold f.toNat).sp.eccCount },
                                          db := { Debug.init with tested := true, droop := (s.fold f.toNat).db.droop } } ∧
        t.chip.blockReset.getLsbD f.toNat = false ∧ t.chip.failedFolds.getLsbD f.toNat = !pass ∧
        ∀ g, g ≠ f.toNat → t.fold g = s.fold g)

/-! ### The rigging -/

/-- A link that fails is in state 3 with LINK set; outside an abort group its replay buffer is empty and the running job ends
with fault 0x63. A replay timeout sends the buffer again, counting a replay of each of its flits, a flit that has been replayed 16 times
without acknowledgement fails the link, and a lost reference clock fails the links of its clock that were training or up (R336, R337,
R507). Flits that wait to the limit at an output are a
rigging stall 0x32, and a tree message that a LOCAL member holds is a tree stall 0x33 of the fold that holds it (R339,
R349). -/
def Obligations.LinksFailAndStall : Prop :=
  (∀ (s : State) (link : BitVec 5),
     let l := link.toNat
     let k := s.link l
     let fails (c : Instr) := ∃ t, exec c s = .next t ∧ (t.link l).st = 3 ∧ StatusBit t bitLink ∧
       (s.rig.abEn = false → (t.link l).buf = [] ∧ t.msd = s.msd ∧ (CanRaise s → RaisesAlone s t 0x63))
     (s.clocked = true → s.linkUp l = true → fails (.linkFailure link)) ∧
     (s.clocked = true → s.linkUp l = true → (∃ o ∈ k.buf, 16 ≤ o.tries) → fails (.replayTimeout link)) ∧
     (s.clocked = true → s.linkUp l = true → k.buf ≠ [] → (∀ o ∈ k.buf, o.tries < 16) →
       ∃ t, exec (.replayTimeout link) s = .next t ∧ t.job = s.job ∧ t.msd = s.msd ∧
         t.link l = { k with buf := k.buf.map fun o => { o with tries := o.tries + 1 }
                             replays := ctrAdd k.replays k.buf.length }) ∧
     (∀ clk : BitVec 2,
       ∃ t, exec (.rigRefclkLoss clk) s = .next t ∧ t.chip.rigRef.getLsbD clk.toNat = false ∧
         (∀ m, m / 8 = clk.toNat → (s.link m).st = 1 ∨ (s.link m).st = 2 → (t.link m).st = 3) ∧
         (∀ m, m / 8 ≠ clk.toNat ∨ ((s.link m).st ≠ 1 ∧ (s.link m).st ≠ 2) → (t.link m).st = (s.link m).st))) ∧
  (∀ (s : State), s.clocked = true →
     (∀ (link : BitVec 5) (cls : BitVec 2) (lane : Bool), s.linkUp link.toNat = true →
       ((s.link link.toNat).wait.any fun o => decide (o.cls = cls.toNat) && decide (o.lane = lane)) = true →
       (CanRaise s → ∃ t, exec (.riggingStall link cls lane) s = .next t ∧ RaisesAlone s t 0x32 ∧ t.rig = s.rig) ∧
       (s.job = none → s.rig.abEn = false → exec (.riggingStall link cls lane) s = .next s)) ∧
     (∀ (tree : BitVec 6) (m : TreeMsg) (j : Job) (f : Nat), CanRaise s → s.job = some j →
       (s.rig.treeMsgs.find? fun m => decide (m.tree = tree.toNat) && !m.released) = some m → j.place m.dfold = some f →
       ∃ t, exec (.treeStall tree) s = .next t ∧ Raises s t f 0x33 ∧ t.rig = s.rig))

/-- A training link comes up with its far end's identity, and so does one that waits in reset for its reference clock, which has then come
back (log entry 110); an idle flit acknowledges, and with NAK asks for a replay of what it does not acknowledge. Of a packet that arrives
the flits before one that must be discarded are accepted, and the next header asks for a replay from that one on. A packet for another node
leaves on its route, flit by flit, with its source, class, context, tally and epoch unchanged, waits there for room of its class and
lane, or is dropped and counted, and a reset notice closes every queue that the reset node feeds and starts the tally counts of the
streams to and from it again (R184, R297, R333, R334, R335, R336, R338, R342, R343). -/
def Obligations.FlitsPassAndAcknowledge : Prop :=
  ∀ (s : State) (h : FlitIn), s.clocked = true →
    let l := h.link.toNat
    let k := s.link l
    let n := h.src.toNat
    (∀ (node : BitVec 12) (far : BitVec 5) (epoch : BitVec 8), s.chip.rigged = true → l < s.chip.grade.links →
      let comes := ∃ t, exec (.linkUp h.link node far epoch) s = .next t ∧ (t.link l).st = 2 ∧ (t.link l).farNode = node.toNat ∧
        (t.link l).farLink = far.toNat ∧ peek none t.rig.seen node.toNat = some epoch ∧
        (s.chip.rigRef.getLsbD (l / 8) = false → k.st = 0 → t.chip.rigRef.getLsbD (l / 8) = true)
      (k.st = 1 → comes) ∧
      (s.lookoutRuns = true → k.st = 0 → s.rig.linkEn.getLsbD l = true → s.chip.rigRef.getLsbD (l / 8) = false → comes)) ∧
    (s.linkUp l = true →
      (k.wait = [] → (∀ e, peek none s.rig.seen n = some e → e = h.epoch) →
        let rest := k.buf.filter fun o => decide (512 ≤ (h.lack.toNat + 1024 - o.lseq) % 1024)
        let acks (buf : List OutFlit) (replays : Nat) := ∃ t, exec (.idleFlit h) s = .next t ∧ (t.link l).st = 2 ∧
          (t.link l).expSeq = k.expSeq ∧ t.job = s.job ∧ (t.link l).buf = buf ∧ (t.link l).replays = replays
        (h.nak = false ∨ rest = [] → acks rest k.replays) ∧
        (h.nak = true → rest ≠ [] → (∀ o ∈ rest, o.tries < 16) →
          acks (rest.map fun o => { o with tries := o.tries + 1 }) (ctrAdd k.replays rest.length))) ∧
      (∀ (before : List (List Byte)) (flit : List Byte) (bad : Bool), k.expSeq < 1024 →
        let c := Instr.flitDiscarded ⟨h.link, before, flit, bad⟩
        (k.takeParts before = none → exec c s = .next s) ∧
        (∀ z, k.takeParts before = some z →
          (flitBad z flit bad = true →
            ∃ t, exec c s = .next t ∧ (t.link l).discarding = true ∧ (t.link l).st = 2 ∧
              (t.link l).idle = some { lack := (k.expSeq + before.length + 1023) % 1024, nak := true, room := [] } ∧
              (t.link l).expSeq = (k.expSeq + before.length) % 1024 ∧ (t.link l).part = k.part + before.length ∧
              (t.link l).buf = k.buf ∧ t.job = s.job ∧ t.msd = s.msd) ∧
          (flitBad z flit bad = false → exec c s = .next s)))) ∧
    (∀ (cls : BitVec 2) (typ : BitVec 5) (ctx : BitVec 49) (payload : List Byte) (u : State), h.dst ≠ s.rig.nodeId → typ ≠ 0x0C →
      s.takeIn h cls.toNat (packetFlits payload.length) = some u →
      let c := Instr.transitFlit h ⟨cls, typ, ctx⟩ payload
      let way := u.route h.dst.toNat (if cls = 0 then 0 else h.fold.toNat)
      (∀ m dl, way = some (m, dl) → (u.link m).wait = [] →
        let key := 2 * cls.toNat + b2n (h.lane || dl)
        let sent (os : List OutFlit) := os.length = packetFlits payload.length ∧ ∀ e ∈ enumFrom 0 os,
          e.2.body = .transit typ ctx payload ∧ e.2.part = e.1 ∧ e.2.dst = h.dst.toNat ∧ e.2.src = n ∧
          e.2.cls = cls.toNat ∧ e.2.lane = (h.lane || dl) ∧ e.2.tally = h.tally ∧ e.2.epoch = h.epoch
        (packetFlits payload.length ≤ peek 0 (u.link m).room key → (u.link m).buf.length + packetFlits payload.length ≤ 512 →
          ∃ t os, exec c s = .next t ∧ (t.link m).buf = (u.link m).buf ++ os ∧ (t.link m).wait = [] ∧ sent os ∧
            t.job = u.job ∧ t.msd = u.msd) ∧
        (peek 0 (u.link m).room key = 0 ∨ 512 ≤ (u.link m).buf.length →
          ∃ t os, exec c s = .next t ∧ (t.link m).buf = (u.link m).buf ∧ (t.link m).wait = os ∧ sent os ∧
            t.job = u.job ∧ t.msd = u.msd)) ∧
      (way = none →
        ∃ t, exec c s = .next t ∧ t.rig.dropped = ctrAdd u.rig.dropped 1 ∧ StatusBit t bitLink ∧
          ∀ m, (t.link m).buf = (u.link m).buf ∧ (t.link m).wait = (u.link m).wait)) ∧
    (∀ u, h.dst = s.rig.nodeId → s.acceptFlit h 1 1 = some u →
      ∃ t, exec (.resetNotice h) s = .next t ∧ t.rig.notices = ctrAdd u.rig.notices 1 ∧
        (∀ e ∈ u.folds, ∀ q ∈ e.2.qu.qtab, ∀ b, ((u.fold e.1).queue q.1).bound = some b → b.node = some n →
          ((t.fold e.1).queue q.1).closed = true) ∧
        (∀ f ch, (peek CEnt.none (t.fold f).qu.ctab ch).rem = true → (peek CEnt.none (t.fold f).qu.ctab ch).node = n →
          ((t.fold f).chan ch).sendCnt = 0) ∧
        (∀ f q b, ((t.fold f).queue q).bound = some b → b.node = some n → ((t.fold f).queue q).expect = 0) ∧
        ∀ fold < 32, ∀ dir < 2, t.sendTally n fold dir = 0 ∧ t.expTally n fold dir = 0)

/-- Remote memory: a write with the tally count expected and a matching check value joins the remote class of its port, one with a
mismatch of the check value writes nothing and is counted, one with another count is counted and is a fault 0x43 of the running job, one
that is not served writes nothing, a read request is served where the remote share is not 0 and the lines exist, and read data continues
the READ that waits for it (R181, R184, R259, R346). That this device reports no fault of its own for a check value that differs or for a
write that it does not serve is log entries 25 and 83's. -/
def Obligations.RemoteMemoryIsServed : Prop :=
  ∀ (s u : State) (h : FlitIn), s.clocked = true →
    let src := h.src.toNat
    let p := h.fold.toNat
    h.dst = s.rig.nodeId →
    (∀ (addr : BitVec 41) (data : List Byte) (crcOk : Bool), s.acceptFlit h 2 (packetFlits data.length) = some u →
      let a := addr.toNat
      let c := Instr.remoteWrite h addr data crcOk
      (u.expTally src p 0 = h.tally →
        (∃ t, exec c s = .next t ∧ t.msd.mem = u.msd.mem ∧ t.job = u.job) ∧
        (crcOk = true → shareOf u.msd.split .remote = 0 → ∃ t, exec c s = .next t ∧ t.msd = u.msd) ∧
        (crcOk = true → data.length = 64 → a + 64 ≤ u.limit → shareOf u.msd.split .remote ≠ 0 →
          let r : Req := { who := .remoteW src p, off := 0, addr := a, n := 1, wr := true, data := data }
          ∃ t, exec c s = .next t ∧
            (t.port (portOf u.chip.grade a)).xq = (u.port (portOf u.chip.grade a)).xq ++ [r]) ∧
        (crcOk = false → ∃ t, exec c s = .next t ∧ t.msd = u.msd ∧ StatusBit t bitChk ∧
          peek 0 t.dict.checkCtr 5 = ctrAdd (peek 0 u.dict.checkCtr 5) 1)) ∧
      (u.expTally src p 0 ≠ h.tally → ∃ t, exec c s = .next t ∧ t.msd = u.msd ∧ StatusBit t bitChk ∧
        peek 0 t.dict.checkCtr 6 = ctrAdd (peek 0 u.dict.checkCtr 6) 1 ∧ (CanRaise u → RaisesAlone u t 0x43))) ∧
    (∀ (req : BitVec 16) (addr : BitVec 41) (lines : BitVec 17) (gstr : BitVec 8), s.acceptFlit h 2 1 = some u →
      u.expTally src p 0 = h.tally → u.servesPeer (lineAddr addr.toNat (max 1 gstr.toNat)) (lines.toNat + 1) = true →
      ∃ t v, exec (.remoteReadRequest h req addr lines gstr) s = .next t ∧ t.msd.serves = u.msd.serves ++ [v] ∧
        v.node = src ∧ v.fold = p ∧ v.req = req.toNat ∧ v.sent = 0 ∧ v.src.addr = addr.toNat ∧
        v.src.geom.len = lines.toNat + 1 ∧ t.msd.mem = u.msd.mem ∧ t.job = u.job) ∧
    (∀ (req : BitVec 16) (data : List Byte) (j : Job) (f : Nat) (y : Xfer),
      s.acceptFlit h 3 (packetFlits data.length) = some u → u.job = some j → j.place p = some f →
      u.expTally src p 1 = h.tally → (u.fold f).xfer req.toNat = some y → y.desc.kind = kRead → y.desc.peer = true →
      exec (.remoteReadData h req data) s =
        .next (feedXfer f req.toNat y.src.have data (u.bumpExpTally src p 1 (packetFlits data.length))) ∧
      (y.geom.dcf = 0 → y.src.early = [] → y.geom.len ≤ y.src.asked → y.src.geom = y.geom →
        ∃ t z, exec (.remoteReadData h req data) s = .next t ∧ (t.fold f).xfer req.toNat = some z ∧
          z.src.raw = y.src.raw ++ data ∧ t.msd = u.msd))

/-- Trees: a tree message goes on to every child link that is up and is held until its children have returned its credit, or, at a leaf
that is no member, gives its credit to the parent at once; an increment of a global pennant goes on so and is added at every LOCAL device
but the one where it began, and a group abort goes on so and ends the job of every member but its origin's; a device that is no member
forwards it all the same (R303, R348, R349, R351, R352). That a LOCAL device without a copy of the pennant adds nothing is log entry
100's. -/
def Obligations.TreesAndGroups : Prop :=
  ∀ (s u : State) (h : FlitIn) (tree : BitVec 6), s.clocked = true → TreeLinks u tree.toNat →
    let tr := peek Tree.init u.rig.trees tree.toNat
    let goesOn (t : State) (body : FlitBody) := ∀ l ∈ maskLinks tr.children, (u.link l).st = 2 →
      ∃ o ∈ (t.link l).buf ++ (t.link l).wait, o.body = body ∧ o.src = h.src.toNat ∧ o.tally = h.tally
    (∀ (m : TreeHead) (data : List Byte), s.acceptFlit h 2 (packetFlits data.length) = some u → tr.loc = false →
      let held : TreeMsg := { tree := tree.toNat, fold := h.fold.toNat, ch := m.ch.toNat, dfold := m.dfold.toNat,
                              dq := m.dq.toNat, released := true, back := 0 }
      (tr.children ≠ 0 → ∃ t, exec (.treeMessage h tree m data) s = .next t ∧ t.job = u.job ∧ t.folds = u.folds ∧
        t.rig.treeMsgs = u.rig.treeMsgs ++ [held] ∧ goesOn t (.tree tree.toNat (m.msg data))) ∧
      (tr.children = 0 → tr.parent.toNat < u.chip.grade.links → (u.link tr.parent.toNat).st = 2 →
        ∃ t, exec (.treeMessage h tree m data) s = .next t ∧ t.job = u.job ∧ t.folds = u.folds ∧ t.rig.treeMsgs = u.rig.treeMsgs ∧
          ∃ o ∈ (t.link tr.parent.toNat).buf ++ (t.link tr.parent.toNat).wait,
            o.body = .credit h.fold.toNat m.ch.toNat (some tree.toNat))) ∧
    (∀ (g : BitVec 6) (inc : BitVec 16) (down : Bool), down = true ∨ h.dst = s.rig.nodeId → s.acceptFlit h 1 1 = some u →
      let c := Instr.globalPennantIncrement h ⟨tree, g⟩ inc down
      (∃ t, exec c s = .next t ∧ goesOn t (.gpn tree.toNat g.toNat inc.toNat true)) ∧
      (h.src = u.rig.nodeId ∨ u.group g.toNat = none ∨ (down = true ∧ tr.loc = false) →
        ∃ t, exec c s = .next t ∧ t.job = u.job) ∧
      (∀ j, u.job = some j → h.src ≠ u.rig.nodeId → u.group g.toNat ≠ none → down = false ∨ tr.loc = true →
        let sum := (peek 0 j.gpn g.toNat).toNat + inc.toNat
        (sum ≤ 0xFFFF → ∃ t, exec c s = .next t ∧
          t.job = some { j with gpn := put 0 j.gpn g.toNat (BitVec.ofNat 16 sum) }) ∧
        (0xFFFF < sum → j.open_ = true → ∃ t, exec c s = .next t ∧ RaisesAlone u t 0x19))) ∧
    (∀ (origin : BitVec 12) (code : BitVec 16) (down : Bool), s.chip.rigged = true →
      down = true ∨ h.dst = s.rig.nodeId → s.acceptFlit h 1 1 = some u →
      ∃ t, exec (.groupAbort h ⟨tree, origin⟩ code down) s = .next t ∧ goesOn t (.abort tree.toNat origin.toNat code.toNat true) ∧
        (origin = u.rig.nodeId ∨ u.rig.abEn = false → t.job = u.job) ∧
        (origin ≠ u.rig.nodeId → u.rig.abEn = true → CanRaise u → RaisesAlone u t 0x62))

/-! ### The lookout -/

/-- SPDM requests that need no signature are answered at once, with SPDM 1.2, CTExponent 17, RSAPSS_4096 and SHA_512 (R494); one that
needs a key the device does not have is answered with ERROR Unspecified (R493), and one for another certificate slot, beyond the chain or
for a measurement that does not exist with ERROR, whose code InvalidRequest is log entry 114's; the others wait for the RSA engine, which
ends the operation in front and then answers, or commits the signed job (R195, R495). The chain is that of the device's identity (R492). -/
def Obligations.LookoutAnswersAndSigns : Prop :=
  ∀ (s : State),
    let x := s.look
    let answers (c : Instr) (r : Spdm) := exec c s = .next { s with look := { x with spdm := some r } }
    let signs (c : Instr) (j : RsaJob) := (x.priv.isSome = true → exec c s = .next { s with look := { x with rsa := x.rsa ++ [j] } }) ∧
      (x.priv = none → answers c (.error .unspecified))
    (s.mailbox = true →
      answers .getVersion (.version 1 2) ∧ answers .getCapabilities (.capabilities spdmCaps) ∧ spdmCaps.ctExponent = 17 ∧
      answers .negotiateAlgorithms (.algorithms .rsapss4096 .sha512 .sha512) ∧
      x.chain = x.ident.root.der ++ x.ident.authority.der ++ x.ident.device.der ∧ answers .getDigests (.digests (sha512 x.chain)) ∧
      (∀ (slot : BitVec 4) (offset len : BitVec 16),
        let part := (x.chain.drop offset.toNat).take len.toNat
        (slot ≠ 0 ∨ x.chain.length < offset.toNat → answers (.getCertificate slot offset len) (.error .invalidRequest)) ∧
        (slot = 0 → offset.toNat ≤ x.chain.length →
          answers (.getCertificate slot offset len) (.certificate part (x.chain.length - offset.toNat - part.length)))) ∧
      (∀ (slot : BitVec 4) (nonce : List Byte),
        (slot ≠ 0 → answers (.challenge slot nonce) (.error .invalidRequest)) ∧
        (slot = 0 → signs (.challenge slot nonce) (.challenge nonce))) ∧
      (∀ (index : BitVec 8) (signed : Bool) (nonce : List Byte),
        (blocks s index.toNat = none → answers (.getMeasurements index signed nonce) (.error .invalidRequest)) ∧
        (∀ l, blocks s index.toNat = some l →
          (signed = false → answers (.getMeasurements index signed nonce) (.measurements l [])) ∧
          (signed = true → signs (.getMeasurements index signed nonce) (.measurements index.toNat nonce))))) ∧
    (∀ nonce rest, x.rsa = .challenge nonce :: rest →
      ∃ t g, exec .rsaOperation s = .next t ∧ t.look = { x with rsa := rest, spdm := some (.challengeAuth g) } ∧ t.job = s.job) ∧
    (∀ i nonce rest, x.rsa = .measurements i nonce :: rest →
      ∃ t g, exec .rsaOperation s = .next t ∧ t.job = s.job ∧
        t.look = { x with rsa := rest, spdm := some (.measurements ((blocks s i).getD []) g) }) ∧
    (∀ rest j, s.clocked = true → x.rsa = .digest :: rest → s.job = some j → j.phase = .signing →
      ∃ t c, exec .rsaOperation s = .next t ∧ t.job = none ∧ t.look.rsa = rest ∧ t.host.compWait = s.host.compWait ++ [c] ∧
        c.kind = 1 ∧ c.seq = j.seq ∧ c.tag = j.hdr.tag ∧ c.recptr = j.hdr.records ∧ c.rcount = j.results.length)

/-- Buffered log entries go to flash in order, and a full log area loses its oldest sector; a programmed sector leaves the
buffer and does not touch the active image (R485, R490). Path H's writes of firmware update and of the security lock
are accepted for the lookout with 0x80, and take effect when it performs them: a slot write opens a session, verify
gives the verification result, activate names the next boot slot, abort ends the session, commit raises the rollback
floor to the running image's version, of 63 fuse bits at most, and the lock is set (R396, R489, R490, R496). While a session of another path
is open every command of path H gets 0x04 and changes nothing of the lookout's (R490). That a slot write after a verify is taken, and leaves
the slot unverified, is log entry 113's. -/
def Obligations.LookoutKeepsLogAndFirmware : Prop :=
  ∀ (s : State) (slot : BitVec 8),
    let n := slot.toNat
    let x := s.look
    let performs (i sub off v : Nat) (p : State → Prop) := (s.slotOf n).wait = some (i, sub, off, v) →
      ∃ t, exec (.lookoutWriteComplete slot) s = .next t ∧ (t.slotOf n).wait = none ∧ (t.slotOf n).code.toNat = 0 ∧ p t
    let y := program (fun _ => true) x
    (∀ e rest, s.lookoutRuns = true → x.buf = e :: rest →
      exec .logFlush s = .next { s with look := { x with
        log := (if 98304 ≤ x.log.length then x.log.drop 1024 else x.log) ++ [e], buf := rest } }) ∧
    (∀ a b rest, x.fwBuf = (a, b) :: rest →
      ∃ t, exec .sectorProgrammed s = .next t ∧ t.look.image x.active = x.image x.active ∧ t.look.active = x.active ∧
        t.look.fwBuf = (x.fwBuf.filter fun c => decide (c.1 / 65536 ≠ a / 65536)) ∧ t.job = s.job) ∧
    (PathH s n →
      Accepts s n (.firmwareVerify slot) 0x9010 5 0 1 ∧ Accepts s n (.firmwareActivate slot) 0x9010 5 0 2 ∧
      Accepts s n (.firmwareAbort slot) 0x9010 5 0 3 ∧ Accepts s n (.firmwareCommit slot) 0x9010 5 0 4 ∧
      Accepts s n (.securityLock slot) 0x9030 1 0 1 ∧
      (∀ (off : BitVec 32) (v : DWord), off.toNat % 8 = 0 → off.toNat < 4194304 →
        Accepts s n (.firmwareSlotWrite slot off v) 0x9010 2 off.toNat v.toNat) ∧
      (∀ (off : BitVec 32) (v : DWord), off.toNat % 8 ≠ 0 ∨ 4194304 ≤ off.toNat →
        Refuses s n (.firmwareSlotWrite slot off v) 0x05)) ∧
    (s.chip.phase ≠ .held → s.dict.runs = [] → x.lock = false → wfMap Slot.init s.dict.slots = true →
      (∀ v : DWord, x.session = none → x.fwState = 0 ∨ x.fwState = 4 ∨ x.fwState = 5 →
        performs 0x9010 2 0 v.toNat fun t => t.look.session = some pathH ∧ t.look.fwState = 1 ∧ t.look.fwBytes = 8 ∧
          t.look.fwBuf = enumFrom 0 (leBytes 8 v.toNat) ∧ t.look.image (1 - x.active) = []) ∧
      (∀ (off : BitVec 32) (v : DWord), x.session = some pathH → off.toNat % 8 = 0 → off.toNat < 4194304 → x.fwBuf.length + 8 ≤ 131072 →
        performs 0x9010 2 off.toNat v.toNat fun t => t.look.session = some pathH ∧ t.look.fwState = 1 ∧
          t.look.fwBytes = x.fwBytes + 8 ∧ t.look.fwBuf = x.fwBuf ++ enumFrom off.toNat (leBytes 8 v.toNat)) ∧
      (∀ p v : Nat, x.session = some p → p ≠ pathH → (s.slotOf n).wait = some (0x9010, 5, 0, v) →
        ∃ t, exec (.lookoutWriteComplete slot) s = .next t ∧ (t.slotOf n).wait = none ∧ (t.slotOf n).code.toNat = 0x04 ∧ t.look = x) ∧
      (x.session = some pathH → y.verify (1 - x.active) = 0 →
        performs 0x9010 5 0 1 fun t => t.look.fwState = 3 ∧ t.look.fwResult = 0 ∧ t.look.session = some pathH) ∧
      (x.session = some pathH → y.verify (1 - x.active) ≠ 0 →
        performs 0x9010 5 0 1 fun t => t.look.fwState = 5 ∧ t.look.fwResult = y.verify (1 - x.active) ∧
          t.look.session = none ∧ StatusBit t bitSec) ∧
      (x.session = some pathH → x.fwState = 3 →
        performs 0x9010 5 0 2 fun t => t.look.nextBoot = 1 - x.active ∧ t.look.session = none ∧ t.look.fwState = 4) ∧
      (x.session = some pathH →
        performs 0x9010 5 0 3 fun t => t.look.image (1 - x.active) = [] ∧ t.look.session = none ∧ t.look.fwState = 0) ∧
      (x.session = none → performs 0x9010 5 0 4 fun t => t.look.rollback = min 63 (max x.rollback x.svn)) ∧
      performs 0x9030 1 0 1 fun t => t.look.lock = true)

/-! ### The dictionary -/

/-- A host write of SEL selects, a write of WDATA acts as the entry's write, and a write outside the window's slots changes
nothing (R387, R392, R393, R395). A read of RDATA returns the selected entry's code and data, or 0x81 without an
access while a write waits in the slot (R395, R396); one of STATUSW returns the status field, one of RESULT the last access's code and
status, and one of WDATA or of any other offset zero (R392, R394). STATUS_CLEAR clears the named bits of path H's copy alone, but
for bits that a condition holds (R402, R404). -/
def Obligations.WindowSlotsAccessEntries : Prop :=
  ∀ (s : State) (slot : BitVec 8),
    let n := slot.toNat
    let u := s.slotOf n
    s.clocked = true → s.chip.cxlUp = true → s.chip.phase ≠ .held → wfMap Slot.init s.dict.slots = true →
    (∀ (o : BitVec 24) (data : List Byte), data.length = 8 →
      let v : DWord := BitVec.ofNat 64 (leNat data)
      (n < 256 → o.toNat = 0x1000 + 32 * n →
        exec (.dictWrite o data) s = .next (s.setSlot n { u with sel := v &&& 0xFFFFFFFFFFFFFF00 })) ∧
      (o.toNat = 0x1008 + 32 * n → exec (.dictWrite o data) s = .next (writeData n v s)) ∧
      (o.toNat % 8 = 0 → o.toNat < 0x1000 ∨ 0x3000 ≤ o.toNat → exec (.dictWrite o data) s = .next s)) ∧
    (let read (o : Nat) := exec (.dictRead ⟨BitVec.ofNat 24 o, 8⟩) s
     let gives (l : List Byte) := Host.Outcome.next (φ := Fault) (ρ := Refusal) { s with dict := { s.dict with winOut := l } }
     read 0 = gives (leBytes 8 (s.statusOf pathH).toNat) ∧
     read (0x1000 + 32 * n) = gives (leBytes 8 u.sel.toNat) ∧
     read (0x1008 + 32 * n) = gives (leBytes 8 0) ∧
     read (0x1018 + 32 * n) = gives (leBytes 8 (at_ 16 8 u.code.toNat + at_ 0 16 u.status.toNat)) ∧
     (∀ o, o < 2 ^ 24 → o % 8 = 0 → (8 ≤ o ∧ o < 0x1000) ∨ 0x3000 ≤ o → read o = gives (leBytes 8 0)) ∧
     (u.wait ≠ none →
       ∃ t, read (0x1010 + 32 * n) = .next t ∧ t.slotOf n = { u with rdata := 0, ans := 0x81 } ∧
         t.dict.winOut = leBytes 8 0 ∧ t.job = s.job ∧ t.folds = s.folds ∧ t.look = s.look) ∧
     (u.wait = none →
       let r := s.readEntry pathH u.index u.sub u.offset 8
       ∃ t, read (0x1010 + 32 * n) = .next t ∧ (t.slotOf n).ans = BitVec.ofNat 8 r.1 ∧
         (t.slotOf n).code = BitVec.ofNat 8 r.1 ∧ (t.slotOf n).rdata = BitVec.ofNat 64 (leNat r.2.1) ∧
         t.dict.winOut = leBytes 8 (t.slotOf n).rdata.toNat ∧ t.job = s.job ∧ t.folds = s.folds ∧ t.look = s.look ∧
         (r.1 = 0 → s.blockEntry u.index u.sub = true → (t.slotOf n).sel = selOf u.index u.sub (u.offset + 8)) ∧
         (u.index = 0x2000 → u.sub = 1 → (t.slotOf n).rdata.toNat = (s.statusOf pathH).toNat))) ∧
    (∀ v : DWord, PathH s n → v.toNat < 2 ^ 16 → wfMap 0 s.dict.status = true →
      let drop := v.truncate 16 &&& 0x7FE0 &&& ~~~(BitVec.ofNat 16 s.heldBits)
      Writes s n (.statusClear slot v) 0 fun t => peek 0 t.dict.status pathH = peek 0 s.dict.status pathH &&& ~~~drop ∧
        peek 0 t.dict.status pathF = peek 0 s.dict.status pathF ∧ peek 0 t.dict.status pathM = peek 0 s.dict.status pathM ∧
        t.job = s.job)

/-- Writes of the host's entries: a doorbell within the ring's bounds moves the tail and another is refused with 0x04; base,
size and enable of a ring, the completion ring's head, a coherent window and two route table entries are written; an
abort by tag reaches the running job or a preempted one (R341, R360, R366, R368, R378, R382, R383). -/
def Obligations.HostEntriesAreWritten : Prop :=
  ∀ (s : State) (slot : BitVec 8) (v : DWord), PathH s slot.toNat →
    let n := slot.toNat
    let val := v.toNat
    wfMap Ring.init s.host.rings = true → wfMap 0 s.host.windows = true → wfMap 0 s.rig.route = true →
    (∀ ring : BitVec 2,
      let r := s.ring ring.toNat
      let p := ring.toNat
      let ahead (i : BitVec 32) := (val + 2 ^ 32 - i.toNat) % 2 ^ 32
      (val < 2 ^ 32 → r.en = true → ahead r.head ≤ r.size.toNat → ahead r.tail ≤ r.size.toNat →
        Writes s n (.doorbell slot ring v) 0 fun t => t.ring p = { r with tail := v.truncate 32 } ∧ t.job = s.job) ∧
      (val < 2 ^ 32 → r.en = false ∨ r.size.toNat < ahead r.head ∨ r.size.toNat < ahead r.tail →
        Writes s n (.doorbell slot ring v) 0x04 fun t => t.ring p = r ∧ t.job = s.job) ∧
      (r.en = false → r.head = r.tail → val % 512 = 0 → ringBeyond s val 128 r.size.toNat = false →
        Writes s n (.submissionRingConfig slot ring 1 v) 0 fun t => t.ring p = { r with base := v }) ∧
      (r.en = false → r.head = r.tail → ringSizeOk val = true → ringBeyond s r.base.toNat 128 val = false →
        Writes s n (.submissionRingConfig slot ring 2 v) 0 fun t => t.ring p = { r with size := v.truncate 32 }) ∧
      (val < 2 → (val = 1 → ringSizeOk r.size.toNat = true) →
        Writes s n (.submissionRingConfig slot ring 3 v) 0 fun t => t.ring p = { r with en := decide (val = 1) }) ∧
      (r.en = true ∨ r.head ≠ r.tail → Refuses s n (.submissionRingConfig slot ring 1 v) 0x04)) ∧
    (let r := s.host.comp
     (r.en = false → val % 64 = 0 → ringBeyond s val 64 r.size.toNat = false →
        Writes s n (.completionRingConfig slot 1 v) 0 fun t => t.host.comp = { r with base := v }) ∧
      (r.en = false → ringSizeOk val = true → ringBeyond s r.base.toNat 64 val = false →
        Writes s n (.completionRingConfig slot 2 v) 0 fun t => t.host.comp = { r with size := v.truncate 32 }) ∧
      (val < 2 → (val = 1 → ringSizeOk r.size.toNat = true) →
        Writes s n (.completionRingConfig slot 3 v) 0 fun t => t.host.comp = { r with en := decide (val = 1) }) ∧
      (val < 2 ^ 32 → ringDiff val r.head.toNat ≤ ringDiff r.tail.toNat r.head.toNat →
        Writes s n (.completionRingHead slot v) 0 fun t => t.host.comp = { r with head := v.truncate 32 })) ∧
    (∀ w : BitVec 4,
      (s.job = none → s.saved = [] → (v.getLsbD 0 = true → fld val 6 29 ≠ 0) →
        Writes s n (.coherentWindowWrite slot w v) 0 fun t => peek 0 t.host.windows w.toNat = v &&& 0xFFFFFFFFFFFFFFC1) ∧
      (s.job ≠ none → Refuses s n (.coherentWindowWrite slot w v) 0x04)) ∧
    (∀ off : BitVec 32, off.toNat % 8 = 0 → off.toNat < 16384 →
      let e := off.toNat / 4
      Writes s n (.routeTableWrite slot off v) 0 fun t => peek 0 t.rig.route e = v.truncate 32 &&& 0xFFFFC000 ∧
        peek 0 t.rig.route (e + 1) = (v.extractLsb' 32 32) &&& 0xFFFFC000 ∧
        ∀ k, k ≠ e → k ≠ e + 1 → peek 0 t.rig.route k = peek 0 s.rig.route k) ∧
    (val < 2 ^ 32 →
      (∀ j, s.job = some j → j.open_ = true → j.hdr.tag = val → (∀ w ∈ s.saved, w.job.hdr.tag ≠ val) →
        Writes s n (.hostAbort slot v) 0 fun t => RaisesAlone s t 0x61) ∧
      (∀ w, s.job = none → (s.saved.filter fun w => decide (w.job.hdr.tag = val)) = [w] →
        Writes s n (.hostAbort slot v) 0 fun t => t.saved = (s.saved.filter fun o => decide (o.job.seq ≠ w.job.seq)) ∧
          ∃ c, t.host.compWait = s.host.compWait ++ [c] ∧ c.kind = 2 ∧ c.seq = w.job.seq ∧ c.recptr = w.job.hdr.records) ∧
      ((∀ j, s.job = some j → j.hdr.tag ≠ val) → (∀ w ∈ s.saved, w.job.hdr.tag ≠ val) →
        Writes s n (.hostAbort slot v) 0 fun t => t.job = s.job ∧ t.saved = s.saved ∧ t.host = s.host))

/-- Path F: a request that has not been answered is one access, with a reply to its sender, a repeated one gets the earlier reply, and a
write that the manager node does not send is refused with 0x02; a directed frame goes on at its next hop, and a reply to it retraces its
links (R353, R354, R397; where the count of hops stands is log entry 85's, and how a LEN past the bound and a short value are taken log
entry 48's). A hop that names a link which the grade does not have is answered on the link of the request with code 0x01, by log entry 107
(R442). Path M: SETDASA assigns the dynamic address, a private write makes one access, and a private read returns its reply once (R398,
R399); one of an OPC that R399 does not give changes nothing but its reply, whose code is free (log entry 68). -/
def Obligations.ManagementPathsAnswer : Prop :=
  ∀ (s : State),
    (∀ (r : MgReq) (u : State), s.clocked = true →
      s.chip.rigged = true → s.look.wdog = true → r.opc.toNat < 2 → r.directed = false →
      r.h.dst = s.rig.nodeId → s.acceptFlit r.h 0 1 = some u →
      let src := r.h.src.toNat
      let mine (q : MgReply) := decide (q.node = src) && decide (q.rid = r.rid.toNat)
      let len := min r.len.toNat 192
      (∀ q, u.dict.replies.find? mine = some q → exec (.managementRequest r) s = .next (sendReply { q with back := none } u)) ∧
      (u.dict.replies.find? mine = none → r.opc = 0 →
        let a := u.readEntry pathF r.index.toNat r.sub.toNat r.offset.toNat len
        ∃ t q, exec (.managementRequest r) s = .next t ∧ q ∈ t.dict.replies ∧ q.node = src ∧ q.rid = r.rid.toNat ∧
          q.code = a.1 ∧ q.data = a.2.1 ∧ t.job = u.job ∧ t.folds = u.folds ∧
          ∀ l dl, u.route src 0 = some (l, dl) → ∃ o ∈ (t.link l).buf ++ (t.link l).wait, o.body = .reply q) ∧
      (u.dict.replies.find? mine = none → r.opc = 1 →
        let a := u.writeEntry pathF (u.admits src) r.index.toNat r.sub.toNat r.offset.toNat (padTo len r.data)
        (∃ t q, exec (.managementRequest r) s = .next t ∧ q.node = src ∧ q.rid = r.rid.toNat ∧ q.code = a.1 ∧
          t.job = a.2.job ∧ t.folds = a.2.folds ∧ q ∈ t.dict.replies) ∧
        (u.rig.mgr ≠ 0xFFFF → u.rig.mgr.toNat ≠ src → u.chip.phase ≠ .recovery →
          (u.entry r.index.toNat r.sub.toNat).isSome = true → a = (0x02, u)))) ∧
    (∀ (r : MgReq) (out : BitVec 5) (u : State), s.clocked = true →
      s.chip.rigged = true → r.directed = true → r.hops[r.hop.toNat]? = some out →
      s.acceptFlit r.h 0 1 = some u →
      let l := r.h.link.toNat
      (out.toNat < u.chip.grade.links → ∃ t, exec (.managementRequest r) s = .next t ∧ t.job = u.job ∧
        t.dict.passed = u.dict.passed ++ [(r.h.src.toNat, r.rid.toNat, l)] ∧
        ((u.link out.toNat).st = 2 → ∃ o ∈ (t.link out.toNat).buf ++ (t.link out.toNat).wait,
          o.body = .request { r with hop := r.hop + 1 })) ∧
      (u.chip.grade.links ≤ out.toNat → u.linkUp l = true →
        ∃ t q, exec (.managementRequest r) s = .next t ∧ t.job = u.job ∧ t.dict.passed = u.dict.passed ∧ q.code = 0x01 ∧
          q.rid = r.rid.toNat ∧ q.node = r.h.src.toNat ∧ ∃ o ∈ (t.link l).buf ++ (t.link l).wait, o.body = .reply q)) ∧
    (∀ (h : FlitIn) (cls : BitVec 2) (ctx : BitVec 49) (payload : List Byte) (e : Nat × Nat × Nat) (u : State),
      s.clocked = true → wayBack s h.dst.toNat payload = some e → s.takeIn h cls.toNat (packetFlits payload.length) = some u →
      ∃ t, exec (.transitFlit h ⟨cls, 0x0C, ctx⟩ payload) s = .next t ∧ t.dict.passed = u.dict.passed.erase e ∧
        (u.linkUp e.2.2 = true → ∃ o ∈ (t.link e.2.2).buf ++ (t.link e.2.2).wait, o.body = .transit 0x0C ctx payload)) ∧
    (∀ (addr dyn : BitVec 7), s.target = true →
      (addr = 0x3A → exec (.setdasa addr dyn) s =
        .next { s with dict := { s.dict with i3c := { s.dict.i3c with dyn := some dyn } } }) ∧
      (addr ≠ 0x3A → exec (.setdasa addr dyn) s = .next s)) ∧
    (∀ data : List Byte, s.target = true →
      let h := leNat (data.take 12)
      let len := min (fld h 64 8) 64
      (data.length < 12 → exec (.i3cPrivateWrite data) s = .next s) ∧
      (12 ≤ data.length → fld h 0 8 = 0 →
        let a := s.readEntry pathM (fld h 8 16) (fld h 24 8) (fld h 32 32) len
        ∃ t st, exec (.i3cPrivateWrite data) s = .next t ∧ t.dict.i3c.reply = some (st, a.1, a.2.1) ∧ t.job = s.job) ∧
      (12 ≤ data.length → fld h 0 8 = 1 →
        let a := s.writeEntry pathM true (fld h 8 16) (fld h 24 8) (fld h 32 32) (padTo len (data.drop 12))
        ∃ t st, exec (.i3cPrivateWrite data) s = .next t ∧ t.dict.i3c.reply = some (st, a.1, []) ∧ t.job = a.2.job) ∧
      (12 ≤ data.length → 2 ≤ fld h 0 8 →
        ∃ t st code, exec (.i3cPrivateWrite data) s = .next t ∧ t.dict.i3c.reply = some (st, code, []) ∧ t.job = s.job ∧
          t.folds = s.folds ∧ t.look = s.look ∧ t.chip = s.chip)) ∧
    (∀ st code data, s.dict.i3c.reply = some (st, code, data) →
      exec .i3cPrivateRead s = .next { s with dict := { s.dict with i3c := { s.dict.i3c with
        reply := none, out := leBytes 2 st.toNat ++ leBytes 1 code ++ leBytes 1 data.length ++ data } } }) ∧
    (s.dict.i3c.reply = none → exec .i3cPrivateRead s = .next s)

/-! ### The debugger -/

/-- The debugger's entries, on a fold of the grade that is whole and tested: a halt request is noted, a halted fold steps or is resumed,
which also ends a tally hold with its fault, a pennant is set at the fold's next cycle or, outside a job, at once, and the fold's state is
written eight bytes at a time while it is halted or free (R182, R308, R517, R522-R525). That a request on a fold that has stopped at
ctl.end has no effect is log entry 52's, and when a pennant's write takes effect log entry 93's. -/
def Obligations.DebuggerWritesTakeEffect : Prop :=
  ∀ (s : State) (slot : BitVec 8) (f : FoldId), PathH s slot.toNat → DebugOpen s f.toNat → wfMap Fold.init s.folds = true →
    let n := slot.toNat
    let x := s.fold f.toNat
    let halts (c : Instr) (all : Bool) :=
      (s.inJob f.toNat = true → x.ex.run ≠ .ended → Writes s n c 0 fun t => t.job = s.job ∧
        t.fold f.toNat = { x with db := { x.db with req := !x.db.held, all := x.db.all || all } }) ∧
      (s.inJob f.toNat = false ∨ x.ex.run = .ended → Writes s n c 0 fun t => t.folds = s.folds ∧ t.job = s.job)
    let open_ := debugState s f.toNat = 2 ∨ debugState s f.toNat = 4
    halts (.haltExecute slot f) false ∧ halts (.haltAll slot f) true ∧
    (∀ k : DWord, 1 ≤ k.toNat → k.toNat ≤ 4096 →
      (debugState s f.toNat = 2 → Writes s n (.debugStep slot f k) 0 fun t => t.job = s.job ∧
        t.fold f.toNat = { x with db := { x.db with held := false, stepping := true, steps := k.toNat }
                                  ex := { x.ex with brkPass := true } }) ∧
      (debugState s f.toNat ≠ 2 → Refuses s n (.debugStep slot f k) 0x04)) ∧
    (x.ex.tally = none →
      (x.db.busy = true → Writes s n (.debugResume slot f) 0 fun t => t.job = s.job ∧
        (t.fold f.toNat).untraced = ({ x with db := x.db.release, ex := { x.ex with brkPass := x.ex.brkPass || x.db.held } } : Fold).untraced) ∧
      (x.db.busy = false → Writes s n (.debugResume slot f) 0 fun t => t.folds = s.folds ∧ t.job = s.job)) ∧
    (∀ h j, x.ex.tally = some h → s.job = some j → j.open_ = true →
      Writes s n (.debugResume slot f) 0 fun t => (t.fold f.toNat).ex.tally = none ∧
        t.job = some { j with reports := j.reports ++ [h.rep] }) ∧
    (∀ (pn : BitVec 6) (v : DWord), pn.toNat < 48 → v.toNat < 2 ^ 16 → wfMap 0 x.qu.pn = true →
      Writes s n (.pennantWrite slot (.pennant f pn) v) 0 fun t => t.job = s.job ∧ (t.fold f.toNat).ex = x.ex ∧
        (s.inJob f.toNat = true → (t.fold f.toNat).qu.pnSet = x.qu.pnSet ++ [(pn.toNat, v.truncate 16)] ∧
          (t.fold f.toNat).qu.pn = x.qu.pn) ∧
        (s.inJob f.toNat = false → peek 0 (t.fold f.toNat).qu.pn pn.toNat = v.truncate 16)) ∧
    (∀ (g : BitVec 6) (v : DWord) (j : Job), v.toNat < 2 ^ 16 → s.job = some j →
      Writes s n (.pennantWrite slot (.global g) v) 0 fun t => (∀ k, (t.fold k).untraced = (s.fold k).untraced) ∧
        t.job = some { j with gpn := put 0 j.gpn g.toNat (v.truncate 16) }) ∧
    (∀ (off : BitVec 32) (v : DWord), off.toNat % 8 = 0 → open_ →
      let o := off.toNat
      let bytes := leBytes 8 v.toNat
      let keeps (t : State) := t.job = s.job ∧ t.msd = s.msd ∧ (t.fold f.toNat).ex = x.ex ∧ (t.fold f.toNat).qu.pn = x.qu.pn
      (o < 6291456 → Writes s n (.foldStateWrite slot f 2 off v) 0 fun t => keeps t ∧
        (t.fold f.toNat).sp.mem = putRun 0 x.sp.mem o bytes ∧ (t.fold f.toNat).ti = x.ti) ∧
      (o < 1048576 → Writes s n (.foldStateWrite slot f 3 off v) 0 fun t => keeps t ∧
        (t.fold f.toNat).mx.acc = put 0 x.mx.acc (o / 8) v ∧ (t.fold f.toNat).sp = x.sp) ∧
      (o < 16384 → Writes s n (.foldStateWrite slot f 4 off v) 0 fun t => keeps t ∧
        (t.fold f.toNat).ve.reg = put 0 (put 0 x.ve.reg (o / 4) (v.truncate 32)) (o / 4 + 1) (v.extractLsb' 32 32)) ∧
      Refuses s n (.foldStateWrite slot f 5 off v) 0x02) ∧
    (¬ open_ → ∀ (off : BitVec 32) (v : DWord), off.toNat % 8 = 0 → off.toNat < 6291456 →
      Refuses s n (.foldStateWrite slot f 2 off v) 0x04)

/-- A requested halt takes effect at the fold's next stall point, the end of a step before the next bundle, and a breakpoint
before its own bundle; the oldest event of a fold's trace unit goes to the buffer, preceded by one record of KIND 0x0C when records were
lost before it, or is counted as lost without room for both (R517, R518, R527, R528, R529). -/
def Obligations.FoldsHaltAndTraceIsWritten : Prop :=
  ∀ (s : State) (f : FoldId), s.clocked = true →
    let n := f.toNat
    let x := s.fold n
    let tr := s.trace
    let a (i : BitVec 32) := tr.base.toNat + 32 * ((tr.widx + i).toNat % tr.size.toNat)
    let kind (r : BitVec 256) := fld r.toNat 248 8
    let sent (t : State) (a : Nat) (r : BitVec 256) := ∃ q ∈ (t.port (portOf s.chip.grade a)).dq, q.who = .dev .out ∧ q.wr = true ∧
      q.addr = a ∧ q.data = leBytes 32 r.toNat
    let holds (c : Instr) := ∃ t, exec c s = .next t ∧ (t.fold n).db.held = true ∧ (t.fold n).db.req = false ∧
      (t.fold n).db.stepping = false ∧ (t.fold n).ex.nextBundle = x.ex.nextBundle ∧ t.job = s.job ∧
      ∀ g, g ≠ n → t.fold g = s.fold g
    (x.comes s = true → (x.db.req = true ∧ atStall x = true) ∨ x.db.stepped = true → holds (.foldHalt f)) ∧
    (x.comes s = true → x.ex.wait = none → x.atBreak = true → holds (.breakpoint f)) ∧
    (∀ (r : BitVec 256) (rest : List (BitVec 256)) (lost : Nat), wfMap Fold.init s.folds = true →
      (x.db.recs = r :: rest ∧ kind r ≠ 0x0C ∧ lost = 0) ∨
        (∃ l, x.db.recs = l :: r :: rest ∧ kind l = 0x0C ∧ lost = fld l.toNat 0 32) →
      let k := x.db.lostB + lost
      let writes (p : State → Prop) := ∃ t, exec (.traceBufferWrite f) s = .next t ∧ (t.fold n).db.recs = rest ∧ t.job = s.job ∧ p t
      (k = 0 → tr.room 1 = true → isHost (a 0) = false → a 0 % 32 = 0 → writes fun t => t.msd.mem = s.msd.mem ∧
        sent t (a 0) r ∧ t.trace = { tr with widx := tr.widx + 1 } ∧ (t.fold n).db.lostB = 0) ∧
      (0 < k → tr.room 2 = true → isHost (a 0) = false → a 0 % 32 = 0 → isHost (a 1) = false → a 1 % 32 = 0 →
        writes fun t => t.msd.mem = s.msd.mem ∧ sent t (a 0) (lostRecord k r) ∧ sent t (a 1) r ∧
          t.trace = { tr with widx := tr.widx + 2 } ∧ (t.fold n).db.lostB = 0) ∧
      (tr.room (if k = 0 then 1 else 2) = false → writes fun t => (t.fold n).db.lostB = k + 1 ∧
        t.trace = { tr with lost := ctrAdd tr.lost 1 } ∧ t.msd = s.msd))

/-! ### Jobs, preemption and abort -/

/-- An idle device takes the next job of its rings once what its start reads is there: host memory is translated, and device memory is
read in port slots of the device's own (R260, R319; that a start which lacks something asks and comes again is log entry 92's). A line of
the tap list that cannot be corrected is a memory fault (R329). A job that R371 rejects ends with a record of kind 3 and the lowest
reason, and another starts with the fields of its header, its own split and every fold loading (R13, R16, R197, R362, R371, R372, R531). A
fold's sections, read from host memory or in port slots, are loaded to where R40 and R41 put them; a check value that does not match is a
load fault, a region or channel table that breaks R109 or R284 a region fault, and a line that cannot be corrected a memory fault, and the
fold then issues nothing (the order among these faults and the units they name are log entries 41 and 42's). The start signal starts every
loaded fold together, and a bad tap list is a fault 0x24 (R42, R428), which belongs to no fold by log entry 43. -/
def Obligations.JobsStart : Prop :=
  (∀ (s : State), s.clocked = true →
     (∀ (said : JobReads) (p : Nat), s.mayStart = true → s.nextWork = .fresh p →
       let r := s.ring p
       let a := r.entry 128 r.head.toNat
       let u := s.readsAs none
       let desc := u.startFails a 128 said.desc
       let d := readEntry u.startView a
       let v := u.readsAs (if d.2.pv then some d.2.pasid else none)
       let w := v.startView
       let bad := badReads v w desc d.1 d.2 said
       let x := readJob w d.1 d.2 bad
       let l := startReads v w d.1 d.2 bad
       (isHost a = false → u.beyond a 128 = false → u.devRead (.start a 128) = none →
         exec (.jobStart said) s = .next (u.readFor (.start a 128) [(a, 128)])) ∧
       (desc = false → u.startReady [(a, 128, false)] = true → v.startReady l = false →
         exec (.jobStart said) s = .next (v.startAsk l)) ∧
       (desc = true ∨ (u.startReady [(a, 128, false)] = true ∧ v.startReady l = true) →
       (∀ reason, rejection v x bad = some reason →
         ∃ t c, exec (.jobStart said) s = .next t ∧ t.job = none ∧ t.host.compWait = [c] ∧ c.kind = 3 ∧ c.ring = p ∧
           c.reason = reason ∧ (reason ≠ 0x0F → c.tag = x.hdr.tag) ∧ StatusBit t bitFault ∧ t.folds = s.folds) ∧
       (∀ h b, rejection v x bad = none → x.prog = some (h, b) →
         ∃ t j, exec (.jobStart said) s = .next t ∧ t.job = some j ∧ j.hdr = x.hdr ∧ j.prog = h ∧ j.ring = p ∧
           (tapsLost v w d.1 = none → j.reports = []) ∧
           (∀ e, tapsLost v w d.1 = some e → ∃ q, j.reports = [q] ∧ q.code = 0x53 ∧ q.lv = false) ∧
           j.phase = .loading ∧ j.step = x.hdr.step0 ∧ j.seq = (s.host.lastSeq + 1) % 2 ^ 64 ∧ t.host.lastSeq = j.seq ∧
           j.glean = 0 ∧ j.pass = 0 ∧ j.fail = 0 ∧ j.trunc = 0 ∧ j.sat = 0 ∧ t.msd.split = x.hdr.split ∧
           ∀ f ∈ j.places, (t.fold f).ex.run = .loading))) ∧
     (∀ bad : JobReads, s.nextWork = .none → exec (.jobStart bad) s = .next s) ∧
     (∀ j, s.job = some j → j.phase = .loading → j.reports = [] →
       (∀ f ∈ j.places, (s.fold f).ex.run = .loaded ∧ (s.fold f).qu.bound = true) →
       (tapsBeyond s j = none → j.taps.bind (tapListBad s j) = none →
         ∃ t, exec .startSignal s = .next t ∧ t.job = some { j with phase := .running } ∧
           ∀ f ∈ j.places, (t.fold f).ex.run = .running ∧
             (t.fold f).sh.run = (if (s.fold f).sh.codeWords = 0 then .halted else .running)) ∧
       (∀ k, tapsBeyond s j = none → j.taps.bind (tapListBad s j) = some k →
         ∃ t, exec .startSignal s = .next t ∧ RaisesAlone s t 0x24) ∧
       (∀ k, tapsBeyond s j = some k → ∃ t, exec .startSignal s = .next t ∧ RaisesAlone s t 0x12))) ∧
  (∀ (s : State) (f : FoldId) (j : Job) (e : Sect), s.clocked = true →
     let n := f.toNat
     let x := s.fold n
     let a := j.hdr.image
     let fc := j.prog.foldCount
     let faults (code : Nat) := ∃ t, exec (.foldLoad f) s = .next t ∧ Raises s t n code ∧ (t.fold n).ex.run = .stopped
     s.job = some j → j.phase = .loading → x.ex.run = .loading → j.sects[x.ex.prog]? = some e →
     (isHost a = false →
       (s.devRead (.load n) = none → exec (.foldLoad f) s = .next (s.readFor (.load n) (e.ranges a))) ∧
       (∀ d, s.devRead (.load n) = some d →
         (d.left ≠ 0 → exec (.foldLoad f) s = .next s) ∧ (d.left = 0 → d.bad ≠ none → faults 0x53))) ∧
     (∀ read : Nat → Nat → List Byte,
       (isHost a = true ∧ read = s.readMem ∧ s.ownReady ((e.ranges a).map fun r => (r.1, r.2, false)) = true) ∨
         (isHost a = false ∧ ∃ d, s.devRead (.load n) = some d ∧ d.left = 0 ∧ d.bad = none ∧ read = peekRun memDefault d.mem) →
       let i := e.get a read
       let y := loaded a e i x
       let crc := crc32c (i.bundles ++ i.code ++ i.data ++ i.pre)
       (crc = e.crc → regionBad fc x.ex.prog y.qu = none → channelFrom fc x.ex.prog [] y.qu.ctab = none →
         ∃ t, exec (.foldLoad f) s = .next t ∧ (t.fold n).ex.run = .loaded ∧ (t.fold n).ex.bundleCnt = e.bundleCnt ∧
           (t.fold n).ex.bundles = putRun 0 [] 0 ((wordsIn 32 i.bundles).map (BitVec.ofNat 256)) ∧
           (t.fold n).sp.mem = putRun 0 [] (64 * e.preBase) i.pre ∧ (t.fold n).sh.codeWords = e.shWords ∧
           (t.fold n).sh.dmem = putRun 0 [] 0 i.data ∧ (t.fold n).dr.dl0.next = a + e.descOff ∧
           (t.fold n).dr.dl0.live = true ∧ (t.fold n).qu = y.qu ∧ t.job = s.job ∧ t.msd.mem = s.msd.mem) ∧
       (crc ≠ e.crc → faults 0x23) ∧
       (crc = e.crc → (regionBad fc x.ex.prog y.qu).isSome = true ∨
         (channelFrom fc x.ex.prog [] y.qu.ctab).isSome = true → faults 0x1D)))

/-- Preemption: a preemptible job gives way to one of higher priority, each fold stops at a stall point with nothing left in flight and
its bundle not issued, the contexts are written and the saved job leaves the device with a record of kind 4; a resume reads them back and
restores the job with a record of kind 5, or, when a context does not match its check value, with a tally fault, whose report is log entry
46's (R25, R271, R298, R372-R375, R377). The layout of the contexts and what they hold of a fold are log entry 28's. -/
def Obligations.PreemptionSavesAndResumes : Prop :=
  ∀ (s : State), s.clocked = true →
    (∀ j r, s.job = some j → s.readyRing = some r → j.phase = .running → r < j.ring → j.reports = [] →
      preemptible s j = true → s.host.compWait = [] → s.chip.fatal = 0 → s.paused = false →
      (∃ f ∈ j.places, (s.fold f).ex.run ≠ .ended) →
      ∃ t, exec .preemption s = .next t ∧ t.job = some { j with phase := .preempting } ∧ t.folds = s.folds ∧
        (wfMap none s.msd.stages = true → ∀ k, t.stage k = none)) ∧
    (∀ f : FoldId,
      let x := s.fold f.toNat
      s.preempting = true → x.executes = true → x.ex.ctlDue = false → atStall x = true → drained x = true →
      ∃ t, exec (.foldPreemptStop f) s = .next t ∧ (t.fold f.toNat).ex.run = .saved ∧ (t.fold f.toNat).ex.wait = none ∧
        (t.fold f.toNat).ex.nextBundle = x.ex.nextBundle ∧ (x.qu.pnSet = [] → (t.fold f.toNat).qu.pn = x.qu.pn) ∧
        t.job = s.job ∧ ∀ g, g ≠ f.toNat → t.fold g = s.fold g) ∧
    (∀ j, s.job = some j → j.phase = .preempting → j.reports = [] →
      (s.moving = none →
        (∀ f ∈ j.places, ((s.fold f).ex.run = .saved ∨ (s.fold f).ex.run = .ended) ∧ drained (s.fold f) = true) →
        ∃ t v, exec .contextSaveComplete s = .next t ∧ t.moving = some v ∧ v.job = j ∧ t.job = s.job ∧ t.folds = s.folds ∧
          v.folds = j.places.map (fun f => (f, if (s.fold f).ex.run = .ended then (s.fold f).endStub else s.fold f)) ∧
          v.areas.map (fun a => (a.prog, a.addr)) =
            (j.places.filter fun f => decide ((s.fold f).ex.run ≠ .ended)).map
              (fun f => ((s.fold f).ex.prog, j.sub.save + 2 ^ 23 * (s.fold f).ex.prog)) ∧ t.msd.mem = s.msd.mem) ∧
      (∀ v, s.moving = some v →
        (s.writing = true → exec .contextSaveComplete s = .next s) ∧
        (s.writing = false →
          ∃ t c, exec .contextSaveComplete s = .next t ∧ t.job = none ∧ t.moving = none ∧ t.saved = s.saved ++ [v] ∧
            t.host.compWait = s.host.compWait ++ [c] ∧ c.kind = 4 ∧ c.seq = v.job.seq ∧ c.step = v.job.step ∧
            t.host.preempts = ctrAdd s.host.preempts 1))) ∧
    (∀ (ring : BitVec 2) v, s.mayStart = true → s.nextWork = .again ring.toNat →
      (s.saved.find? fun v => decide (v.job.ring = ring.toNat)) = some v →
      (∀ seq : BitVec 64, seq.toNat ≠ v.job.seq → exec (.resume ring seq) s = .next s) ∧
      ∀ seq : BitVec 64, seq.toNat = v.job.seq →
      ∃ t, exec (.resume ring seq) s = .next t ∧ t.job = some { v.job with phase := .restoring } ∧ t.moving = some v ∧
        t.saved = (s.saved.filter fun w => decide (w.job.ring ≠ ring.toNat)) ∧ t.msd.split = v.job.hdr.split) ∧
    (∀ (ring : BitVec 2) (seq : BitVec 64) j v, s.job = some j → s.moving = some v → j.phase = .restoring →
      j.ring = ring.toNat → j.seq = seq.toNat → j.reports = [] →
      (∀ a ∈ v.areas, ∃ d, s.devRead (.restore a.prog) = some d ∧ d.left = 0) →
      let got (a : SavedArea) (p : DevRead → Prop) := ∃ d, s.devRead (.restore a.prog) = some d ∧ p d
      let fits (a : SavedArea) := got a fun d => d.bad = none ∧ crc32c (peekRun memDefault d.mem a.addr a.len) = a.crc
      let resumes (p : State → Prop) := ∃ t c, exec (.resume ring seq) s = .next t ∧ t.moving = none ∧
        t.host.compWait = s.host.compWait ++ [c] ∧ c.kind = 5 ∧ c.seq = v.job.seq ∧ p t
      ((∀ a ∈ v.areas, fits a) → v.streams = [] → (v.folds.map (·.1)).Nodup → wfMap Fold.init s.folds = true →
        (∀ e ∈ v.folds, e.2.dr.xfers = [] ∧ e.2.dr.taps = [] ∧ (s.fold e.1).dr.xfers = []) →
        resumes fun t => t.job = some { v.job with phase := .running } ∧
          ∀ e ∈ v.folds, t.fold e.1 = restoreFold [] (s.fold e.1) e.2) ∧
      ((∀ a ∈ v.areas, got a fun d => d.bad = none) → (∃ a ∈ v.areas, ¬ fits a) →
        resumes fun t => RaisesAlone s t 0x42 ∧ ∀ e ∈ v.folds, (t.fold e.1).ex.run = .stopped) ∧
      ((∃ a ∈ v.areas, got a fun d => d.bad ≠ none) →
        resumes fun t => RaisesAlone s t 0x53 ∧ ∀ e ∈ v.folds, (t.fold e.1).ex.run = .stopped))

/-- The first fault report aborts the job: its shepherds halt, its transfers and tasks are discarded and its requests for translations are
given up (the table stays until a job starts or resumes, R362; key 67 is that of the device's own accesses); once nothing of it is left,
the fault record and a completion record of kind 2 follow, or neither after fatal cause 0x04 (R276, R410, R411, R414, R416, R419). -/
def Obligations.AbortsEndTheJob : Prop :=
  ∀ (s : State) (j : Job), s.clocked = true → s.job = some j →
    (∀ r rest, j.reports = r :: rest → j.open_ = true → wfMap Fold.init s.folds = true →
      ∃ t k, exec .abort s = .next t ∧ t.job = some k ∧ k.phase = .aborting ∧ k.reports = [] ∧ k.seq = j.seq ∧
        k.abort = some (firstReport r rest, rest.length + tallyHolds s j) ∧ firstReport r rest ∈ r :: rest ∧
        t.host.tt = s.host.tt ∧ (∀ e ∈ t.host.ats, e.2.2.2 = 67) ∧ (s.moving = none → t.msd.mem = s.msd.mem) ∧
        ∀ f ∈ j.places, (t.fold f).sh.run = .halted ∧ (t.fold f).dr.xfers = [] ∧ (t.fold f).dr.tasks = [] ∧
          (t.fold f).qu.outMsg = [] ∧ (t.fold f).ex.wait = none) ∧
    (∀ r nsec, j.abort = some (r, nsec) → workGone s j = true →
      (s.chip.fatal = 4 → ∃ t, exec .abortComplete s = .next t ∧ t.job = none ∧ t.msd.mem = s.msd.mem ∧
        t.host.compWait = s.host.compWait) ∧
      (s.chip.fatal ≠ 4 → isHost j.hdr.records = false → j.hdr.records % 4096 ≤ 4032 →
        ∃ t c, exec .abortComplete s = .next t ∧ t.job = none ∧ t.msd.mem = s.msd.mem ∧
          (∃ q ∈ (t.port (portOf s.chip.grade j.hdr.records)).dq, q.who = .dev .out ∧ q.wr = true ∧
            q.addr = j.hdr.records ∧ q.data = r.bytes nsec) ∧
          t.host.compWait = s.host.compWait ++ [c] ∧ c.kind = 2 ∧ c.recptr = j.hdr.records ∧ c.tag = j.hdr.tag ∧
          c.seq = j.seq ∧ StatusBit t bitFault))

/-- A fold that reaches a tapped stall point waits there while its copy is made, or faults when the tapped tile is not in use;
the copy and its tap record are then sent to the destination, and once they are written the fold goes on; a destination beyond the
memory is an address fault, and a copy on which the tally units disagree a tally fault (R178, R181, R314, R425, R428). -/
def Obligations.ReplayTapsCopy : Prop :=
  ∀ (s : State) (f : FoldId) (j : Job) (l : TapList) (i : Nat) (e : TapEnt), s.clocked = true →
    let n := f.toNat
    let x := s.fold n
    s.job = some j → j.phase = .running → j.taps = some l → l.ents[i]? = some e →
    (x.executes = true → x.ex.ctlDue = false → x.ex.wait = none → x.db.req = false → atStall x = true →
      (if x.ex.issued then x.ex.unsettled else x.ex.overdue) = false → x.late x.ex.upTo = false →
      tapDue s x x.ex.nextBundle = some i →
      (e.sk = false ∨ (∀ k ∈ e.tiles, k < 16 ∧ x.ti.used k = true) →
        ∃ t, exec (.tapFire f) s = .next t ∧ (t.fold n).dr.tapping = some i ∧ (t.fold n).dr.fired = i :: x.dr.fired ∧
          (t.fold n).ex.nextBundle = x.ex.nextBundle ∧ t.job = s.job) ∧
      (e.sk = true → (∃ k ∈ e.tiles, 16 ≤ k ∨ x.ti.used k = false) →
        ∃ t, exec (.tapFire f) s = .next t ∧ Raises s t n 0x24 ∧ (t.fold n).ex.run = .stopped)) ∧
    (x.dr.tapping = some i → x.dr.tapSent = false → x.mx.vOpen = [] → x.mx.verdicts = [] → verdictFaulted n s = false →
      x.ex.run ≠ .idle → e.sk = false → x.sp.err = [] →
      let bytes := x.sp.bytes (64 * e.line) (64 * (e.len + 1))
      let rec_ := j.checkRecord { crc := crc64 bytes, addr := e.dest, len := bytes.length, tag := e.tag, index := i, step := e.step }
      let after := e.dest + bytes.length
      let sent (t : State) (a : Nat) (data : List Byte) := ∃ q ∈ (t.port (portOf s.chip.grade a)).dq, q.who = .dev .jobOut ∧
        q.wr = true ∧ q.addr = a ∧ q.data = data
      (∀ crcOk, s.beyond e.dest (bytes.length + 64) = true →
        ∃ t, exec (.tapCopyComplete ⟨f, crcOk⟩) s = .next t ∧ Raises s t n 0x12 ∧ t.msd.mem = s.msd.mem) ∧
      (s.beyond e.dest (bytes.length + 64) = false → isHost e.dest = false →
        (isHost after = false → ∃ t, exec (.tapCopyComplete ⟨f, true⟩) s = .next t ∧ (t.fold n).dr.tapSent = true ∧
          (t.fold n).dr.tapping = some i ∧ t.job = s.job ∧ t.msd.mem = s.msd.mem ∧
          (e.dest % 4096 + bytes.length + 64 ≤ 4096 → sent t e.dest bytes ∧ sent t after rec_)) ∧
        (j.tallyHold = false →
          ∃ t, exec (.tapCopyComplete ⟨f, false⟩) s = .next t ∧ Raises s t n 0x42 ∧ t.msd = s.msd))) ∧
    (∀ crcOk, x.dr.tapping = some i → x.dr.tapSent = true → x.ex.run ≠ .idle → s.host.snoop = [] → s.holdsOut .jobOut = false →
      ∃ t, exec (.tapCopyComplete ⟨f, crcOk⟩) s = .next t ∧ (t.fold n).dr.tapping = none ∧ t.job = s.job ∧ t.msd = s.msd)

/-! ### The block as a whole -/

/-- A step runs the command at the front of the queue on the state with the queue's rest; on an empty queue it is an idle
cycle (log entry 6). -/
def Obligations.StepRunsTheFrontCommand : Prop :=
  (∀ (c : Instr) (s : State) (rest : List Instr), s.pending = c :: rest → step s = exec c { s with pending := rest }) ∧
    (∀ s : State, s.pending = [] → step s = .next (tick s))

/-- Every step that answers a next state takes exactly one command from the queue, whatever the command is: none reads the
queue, adds to it or removes from it. -/
def Obligations.StepTakesOneCommand : Prop :=
  (∀ (s t : State), step s = .next t → t.pending = s.pending.tail) ∧
    (∀ (s t : State) (c : Instr), exec c s = .next t → t.pending = s.pending)

/-- No command ends in a fault, and only a management request with one of the OPC values 10 and 11 that R353 reserves is refused, where this
device is the one that answers it: every other command, in every state, answers a next state, and so does every other operand of this
one. -/
def Obligations.OnlyReservedOpcIsRefused : Prop :=
  ∀ (c : Instr) (s : State),
    let reserved := ∃ q u, c = .managementRequest q ∧ s.clocked = true ∧ s.chip.rigged = true ∧
      (q.directed = true ∨ q.h.dst = s.rig.nodeId) ∧ s.acceptFlit q.h 0 1 = some u ∧
      (q.directed = true → q.hops[q.hop.toNat]? = none) ∧ u.look.wdog = true ∧ 2 ≤ q.opc.toNat
    (reserved → exec c s = .refused .reservedOpc) ∧ (¬ reserved → ∃ t, exec c s = .next t)

/-- Device memory and host memory keep their canonical form: from any state in which they have it, a step leaves them in it,
whatever command it runs. -/
def Obligations.MemoriesStayCanonical : Prop :=
  ∀ (s t : State), s.memWf = true → step s = .next t → t.memWf = true

/-- Right after reset no command waits, no job runs, moves or is saved, both memories read as zero (log entry 8) and are canonical, the
release order has begun and the enabled links train (log entry 10), and the entries that the manual gives a reset value have it: the
default split, the rings disabled, every attention mask, the policies of R177 and R182 off, the trace off, the caps, floors and limits of
R454 to R458, no security lock and no abort group (R12, R177, R182, R333, R352, R382, R406, R454, R456, R458, R459, R496). That the device
is of grade F is log entry 1's, and how its straps and balls stand log entry 9's. -/
def Obligations.ResetState : Prop :=
  let s := State.reset
  s.pending = [] ∧ s.job = none ∧ s.saved = [] ∧ s.moving = none ∧ s.memWf = true ∧
    (∀ a, s.devByte a = 0 ∧ s.hostByte a = 0) ∧
    s.chip.phase = .released ∧ s.chip.fatal = 0 ∧ s.chip.cxlUp = false ∧ (∀ f, s.fold f = Fold.init) ∧
    (∀ l < 32, (s.link l).st = 1) ∧
    s.msd.split = (72, 18, 10) ∧ s.host.comp.en = false ∧ (∀ p, (s.ring p).en = false) ∧
    (∀ p, s.maskOf p = 0x7FE0) ∧ s.dict.satFault = false ∧ s.dict.tallyHold = false ∧ s.trace.enable = 0 ∧
    (∀ q, (s.quad q).kTherm = 32 ∧ (s.quad q).cap = 56 ∧ (s.quad q).floor = -30) ∧ s.pow.pkgCap = 760 ∧
    s.pow.warnJ = 95 ∧ s.pow.warnM = 85 ∧ s.look.lock = false ∧ s.rig.abEn = false
end

