-- ==== Sys2Proof/Laws/Sparse.lean ====
section
/-! SUPPORT. Sparse maps: what a read gives after a write, and that writes keep the canonical form. -/
namespace Sys2Proof.Machine

variable {α : Type}

@[simp] theorem peek_nil (d : α) (k : Nat) : peek d [] k = d := rfl

section
variable [DecidableEq α]

/-- A write leaves every other key alone, whatever the map. -/
theorem peek_put_other (d : α) (m : List (Nat × α)) {k i : Nat} (v : α) (h : i ≠ k) :
    peek d (put d m k v) i = peek d m i := by
  induction m with
  | nil =>
    unfold put; split
    · rfl
    · simp [peek, Ne.symm h]
  | cons e t ih =>
    obtain ⟨j, w⟩ := e
    unfold put
    split
    · split
      · rfl
      · simp [peek, Ne.symm h]
    · split
      · next hj =>
        subst hj
        split
        · simp [peek, Ne.symm h]
        · simp [peek, Ne.symm h]
      · simp [peek, ih]

/-- A write of anything but the default reads back, whatever the map. -/
theorem peek_put_same (d : α) (m : List (Nat × α)) (k : Nat) {v : α} (h : v ≠ d) : peek d (put d m k v) k = v := by
  induction m with
  | nil => simp [put, h, peek]
  | cons e t ih =>
    obtain ⟨j, w⟩ := e
    unfold put
    split
    · simp [peek]
    · split
      · simp [peek]
      · next hj => simp [peek, Ne.symm hj, ih]

/-- Keys below a canonical map read as the default. -/
theorem peek_below (d : α) {m : List (Nat × α)} {lo k : Nat} (h : wfFrom d lo m = true) (hk : k < lo) : peek d m k = d := by
  induction m generalizing lo with
  | nil => rfl
  | cons e t ih =>
    obtain ⟨j, w⟩ := e
    simp only [wfFrom, Bool.and_eq_true, decide_eq_true_eq] at h
    have hne : j ≠ k := by omega
    simp only [peek, hne, if_false]
    exact ih h.2 (by omega)

/-- In a canonical map every write reads back. -/
theorem peek_put (d : α) {m : List (Nat × α)} {lo : Nat} (h : wfFrom d lo m = true) (k : Nat) (v : α) :
    peek d (put d m k v) k = v := by
  by_cases hv : v = d
  · subst hv
    induction m generalizing lo with
    | nil => simp [put]
    | cons e t ih =>
      obtain ⟨j, w⟩ := e
      simp only [wfFrom, Bool.and_eq_true, decide_eq_true_eq] at h
      unfold put
      split
      · next hk =>
        simp only [if_true]
        have hne : j ≠ k := by omega
        simp only [peek, hne, if_false]
        exact peek_below v h.2 (by omega)
      · split
        · next hj =>
          subst hj
          simp only [if_true]
          exact peek_below v h.2 (by omega)
        · next hj =>
          simp only [peek, Ne.symm hj, if_false]
          exact ih h.2
  · exact peek_put_same d m k hv

/-- A write keeps the canonical form. -/
theorem wfFrom_put (d : α) {m : List (Nat × α)} {lo k : Nat} (v : α) (h : wfFrom d lo m = true) (hk : lo ≤ k) :
    wfFrom d lo (put d m k v) = true := by
  induction m generalizing lo with
  | nil =>
    unfold put; split
    · rfl
    · next hv => simp [wfFrom, hk, hv]
  | cons e t ih =>
    obtain ⟨j, w⟩ := e
    have h0 := h
    simp only [wfFrom, Bool.and_eq_true, decide_eq_true_eq] at h
    unfold put
    split
    · split
      · exact h0
      · next hlt hv =>
        simp only [wfFrom, Bool.and_eq_true, decide_eq_true_eq]
        exact ⟨⟨hk, hv⟩, ⟨hlt, h.1.2⟩, h.2⟩
    · split
      · next hj =>
        subst hj
        split
        · have hmono : ∀ {a b : Nat} {l : List (Nat × α)}, a ≤ b → wfFrom d b l = true → wfFrom d a l = true := by
            intro a b l hab hb
            cases l with
            | nil => rfl
            | cons f u =>
              simp only [wfFrom, Bool.and_eq_true, decide_eq_true_eq] at hb ⊢
              exact ⟨⟨by omega, hb.1.2⟩, hb.2⟩
          exact hmono (by omega) h.2
        · next hv =>
          simp only [wfFrom, Bool.and_eq_true, decide_eq_true_eq]
          exact ⟨⟨hk, hv⟩, h.2⟩
      · next hj =>
        simp only [wfFrom, Bool.and_eq_true, decide_eq_true_eq]
        exact ⟨h.1, ih h.2 (by omega)⟩

theorem wfMap_put (d : α) {m : List (Nat × α)} (k : Nat) (v : α) (h : wfMap d m = true) : wfMap d (put d m k v) = true :=
  wfFrom_put d v h (Nat.zero_le k)

/-- A run of writes keeps the canonical form. -/
theorem wfMap_putRun (d : α) {m : List (Nat × α)} (k : Nat) (l : List α) (h : wfMap d m = true) :
    wfMap d (putRun d m k l) = true := by
  induction l generalizing m k with
  | nil => exact h
  | cons v t ih => exact ih (k + 1) (wfMap_put d k v h)

/-- A run of writes leaves every key outside the run alone. -/
theorem peek_putRun_other (d : α) (m : List (Nat × α)) {k i : Nat} (l : List α) (h : i < k ∨ k + l.length ≤ i) :
    peek d (putRun d m k l) i = peek d m i := by
  induction l generalizing m k with
  | nil => rfl
  | cons v t ih =>
    simp only [List.length_cons] at h
    rw [putRun, ih _ (by omega), peek_put_other d m v (by omega)]

/-- In a canonical map each key of a run reads the value written to it. -/
theorem peek_putRun (d : α) {m : List (Nat × α)} (k : Nat) (l : List α) (h : wfMap d m = true) (i : Nat) (hi : i < l.length) :
    peek d (putRun d m k l) (k + i) = l[i] := by
  induction l generalizing m k i with
  | nil => simp at hi
  | cons v t ih =>
    cases i with
    | zero =>
      rw [putRun, peek_putRun_other d _ t (by omega)]
      simpa using peek_put d (m := m) (lo := 0) h k v
    | succ n =>
      rw [putRun]
      have := ih (k + 1) (wfMap_put d k v h) n (by simpa using hi)
      simpa [Nat.add_assoc, Nat.add_comm 1 n] using this

end

end Sys2Proof.Machine
end

