-- ==== Sys2Proof/Laws/Fold.lean ====
section
/-! SUPPORT. One fold of the state: what reading a fold gives after another, or the same, has been replaced. -/
namespace Sys2Proof.Machine

theorem fold_setFold_other (s : State) {f g : Nat} (x : Fold) (h : g ≠ f) : (s.setFold f x).fold g = s.fold g := by
  simp [State.fold, State.setFold, peek_put_other _ _ _ h]

theorem fold_setFold_same (s : State) (f : Nat) {x : Fold} (h : x ≠ Fold.init) : (s.setFold f x).fold f = x := by
  simp [State.fold, State.setFold, peek_put_same _ _ _ h]

/-- The same where the list of folds is canonical, whatever is stored. -/
theorem fold_setFold_wf (s : State) (f : Nat) (x : Fold) (h : wfMap Fold.init s.folds = true) :
    (s.setFold f x).fold f = x := by
  simp only [State.fold, State.setFold]
  exact peek_put Fold.init h f x

/-- A fold whose bundle has issued in this cycle is not the empty fold. -/
theorem ne_init_of_issued {x : Fold} (h : x.ex.issued = true) : x ≠ Fold.init := by
  intro e; rw [e] at h; cases h

/-- A fold that runs is not the empty fold. -/
theorem ne_init_of_run {x : Fold} {r : FoldRun} (h : x.ex.run = r) (hr : r ≠ .idle) : x ≠ Fold.init := by
  intro e; rw [e] at h; exact hr h.symm

theorem put_put {α : Type} [DecidableEq α] (d : α) (m : List (Nat × α)) (k : Nat) {v : α} (w : α) (hv : v ≠ d) :
    put d (put d m k v) k w = put d m k w := by
  induction m with
  | nil => by_cases h : w = d <;> simp [put, hv, h]
  | cons e t ih =>
    obtain ⟨j, u⟩ := e
    rcases Nat.lt_trichotomy k j with h | h | h
    · simp [put, h, hv]
    · subst h; simp [put, hv]
    · have h1 : ¬ k < j := by omega
      have h2 : ¬ k = j := by omega
      simp [put, h1, h2, ih]

theorem setFold_setFold (s : State) (f : Nat) {x : Fold} (y : Fold) (h : x ≠ Fold.init) :
    (s.setFold f x).setFold f y = s.setFold f y := by
  simp [State.setFold, put_put _ _ _ _ h]

@[simp] theorem setFold_pending (s : State) (f : Nat) (x : Fold) : (s.setFold f x).pending = s.pending := rfl
@[simp] theorem setFold_freeCtr (s : State) (f : Nat) (x : Fold) : (s.setFold f x).freeCtr = s.freeCtr := rfl
@[simp] theorem setFold_chip (s : State) (f : Nat) (x : Fold) : (s.setFold f x).chip = s.chip := rfl
@[simp] theorem setFold_job (s : State) (f : Nat) (x : Fold) : (s.setFold f x).job = s.job := rfl
@[simp] theorem setFold_saved (s : State) (f : Nat) (x : Fold) : (s.setFold f x).saved = s.saved := rfl
@[simp] theorem setFold_moving (s : State) (f : Nat) (x : Fold) : (s.setFold f x).moving = s.moving := rfl
@[simp] theorem setFold_host (s : State) (f : Nat) (x : Fold) : (s.setFold f x).host = s.host := rfl
@[simp] theorem setFold_dict (s : State) (f : Nat) (x : Fold) : (s.setFold f x).dict = s.dict := rfl
@[simp] theorem setFold_msd (s : State) (f : Nat) (x : Fold) : (s.setFold f x).msd = s.msd := rfl
@[simp] theorem setFold_rig (s : State) (f : Nat) (x : Fold) : (s.setFold f x).rig = s.rig := rfl
@[simp] theorem setFold_look (s : State) (f : Nat) (x : Fold) : (s.setFold f x).look = s.look := rfl
@[simp] theorem setFold_pow (s : State) (f : Nat) (x : Fold) : (s.setFold f x).pow = s.pow := rfl
@[simp] theorem setFold_trace (s : State) (f : Nat) (x : Fold) : (s.setFold f x).trace = s.trace := rfl

end Sys2Proof.Machine
end

