-- ==== Sys2Proof/Laws/Trace.lean ====
section
/-! SUPPORT. The log and the trace: what recording an event leaves alone. -/
namespace Sys2Proof.Machine

theorem Others.refl (s : State) (f : Nat) : Others s s f := ⟨rfl, fun _ _ => rfl, rfl, rfl, rfl, rfl, rfl, rfl, rfl, rfl, rfl⟩

theorem Others.trans {s t u : State} {f : Nat} (h : Others s t f) (k : Others t u f) : Others s u f :=
  ⟨k.pending.trans h.pending, fun g hg => (k.folds g hg).trans (h.folds g hg), k.job.trans h.job, k.saved.trans h.saved, k.moving.trans h.moving,
    k.chip.trans h.chip, k.host.trans h.host, k.msd.trans h.msd, k.rig.trans h.rig, k.pow.trans h.pow,
    k.pennant.trans h.pennant⟩

theorem others_setFold (s : State) (f : Nat) (x : Fold) : Others s (s.setFold f x) f :=
  ⟨rfl, fun _ hg => fold_setFold_other s x hg, rfl, rfl, rfl, rfl, rfl, rfl, rfl, rfl, rfl⟩

/-- Nothing but the log, the status bits it sets and the counter of free values differs. -/
structure LogOnly (s t : State) : Prop where
  pending : t.pending = s.pending
  folds   : t.folds = s.folds
  job     : t.job = s.job
  saved   : t.saved = s.saved
  moving  : t.moving = s.moving
  chip    : t.chip = s.chip
  host    : t.host = s.host
  msd     : t.msd = s.msd
  rig     : t.rig = s.rig
  pow     : t.pow = s.pow
  trace   : t.trace = s.trace
  gpnIdle : t.dict.gpnIdle = s.dict.gpnIdle

theorem LogOnly.refl (s : State) : LogOnly s s := ⟨rfl, rfl, rfl, rfl, rfl, rfl, rfl, rfl, rfl, rfl, rfl, rfl⟩

theorem LogOnly.trans {s t u : State} (h : LogOnly s t) (k : LogOnly t u) : LogOnly s u :=
  ⟨k.1.trans h.1, k.2.trans h.2, k.3.trans h.3, k.4.trans h.4, k.5.trans h.5, k.6.trans h.6, k.7.trans h.7, k.8.trans h.8,
    k.9.trans h.9, k.10.trans h.10, k.11.trans h.11, k.12.trans h.12⟩

theorem LogOnly.others {s t : State} (h : LogOnly s t) (f : Nat) : Others s t f :=
  ⟨h.pending, fun g _ => by simp only [State.fold, h.folds], h.job, h.saved, h.moving, h.chip, h.host, h.msd, h.rig, h.pow, h.gpnIdle⟩

theorem LogOnly.fold {s t : State} (h : LogOnly s t) (f : Nat) : t.fold f = s.fold f := by
  simp only [State.fold, h.folds]

theorem logAppend_only (cls code data : Nat) (s : State) : LogOnly s (logAppend cls code data s) := by
  unfold logAppend; split <;> exact ⟨rfl, rfl, rfl, rfl, rfl, rfl, rfl, rfl, rfl, rfl, rfl, rfl⟩

theorem logEntry_only (cls code data : Nat) (s : State) : LogOnly s (logEntry cls code data s) := by
  have h := logAppend_only cls code data s
  unfold logEntry
  split
  · have k : LogOnly s { logAppend cls code data s with dict := markStatus bitLog (logAppend cls code data s).dict } :=
      ⟨h.1, h.2, h.3, h.4, h.5, h.6, h.7, h.8, h.9, h.10, h.11, h.12⟩
    dsimp only
    split
    · exact k.trans (logAppend_only 8 0 0 _)
    · exact k
  · exact h

theorem logFree_only (cls : Nat) (s : State) : LogOnly s (logFree cls s) :=
  (⟨rfl, rfl, rfl, rfl, rfl, rfl, rfl, rfl, rfl, rfl, rfl, rfl⟩ : LogOnly s { s with freeCtr := s.freeCtr + 2 }).trans
    (logEntry_only _ _ _ _)

theorem logStick_only (b k : Nat) (s : State) : LogOnly s (logStick b k s) :=
  ⟨rfl, rfl, rfl, rfl, rfl, rfl, rfl, rfl, rfl, rfl, rfl, rfl⟩

theorem setStatus_only (bit : Nat) (s : State) : LogOnly s (setStatus bit s) := by
  have h := logStick_only (peek 0 s.dict.setCount (15 - bit)) 1 { s with dict := markStatus bit s.dict }
  exact ⟨h.1, h.2, h.3, h.4, h.5, h.6, h.7, h.8, h.9, h.10, h.11, h.12⟩

/-- A trace record changes the records of its fold, the count of lost records and the log; nothing else. -/
theorem tr_others (f c k e : Nat) (tag : BitVec 12) (d : Nat) (s : State) :
    Others s (s.trAt f c k e tag d) f ∧ ((s.trAt f c k e tag d).fold f).untraced = (s.fold f).untraced := by
  have lost : ∀ n : Nat,
      let t : State := { s.setFold f { s.fold f with db := { (s.fold f).db with lost := n + 1 } } with
        trace := { s.trace with lost := ctrAdd s.trace.lost 1 } }
      Others s (logStick s.trace.lost 1 t) f ∧ ((logStick s.trace.lost 1 t).fold f).untraced = (s.fold f).untraced := by
    intro n t
    have h1 : Others s t f := ⟨rfl, fun _ hg => fold_setFold_other s _ hg, rfl, rfl, rfl, rfl, rfl, rfl, rfl, rfl, rfl⟩
    have h2 := logStick_only s.trace.lost 1 t
    refine ⟨h1.trans (h2.others f), ?_⟩
    rw [h2.fold]
    have h3 : t.fold f = { s.fold f with db := { (s.fold f).db with lost := n + 1 } } :=
      fold_setFold_same s f (by intro e; have := congrArg (fun x : Fold => x.db.lost) e; exact absurd this (Nat.succ_ne_zero n))
    rw [h3]; rfl
  unfold State.trAt
  split
  · dsimp only
    split
    · split
      · refine ⟨others_setFold s f _, ?_⟩
        rw [fold_setFold_same s f]
        · rfl
        · intro e; have := congrArg (fun x : Fold => x.db.recs) e; simp [Fold.init, Debug.init] at this
      · exact lost 0
    · split
      · refine ⟨others_setFold s f _, ?_⟩
        rw [fold_setFold_same s f]
        · rfl
        · intro e; have := congrArg (fun x : Fold => x.db.recs) e; simp [Fold.init, Debug.init] at this
      · exact lost _
  · exact ⟨Others.refl s f, rfl⟩

end Sys2Proof.Machine
end

