-- ==== Sys2Proof/Laws/Issue.lean ====
section
/-! SUPPORT. The issue of a bundle: what the shared operations of the ctl and qp slots do in a state that is ready. -/
namespace Sys2Proof.Machine

theorem reach_go {s : State} {f : Nat} {i : Instr} {on : Option WaitOn} (h : Ready s f i on) :
    reach s f on (inBundle i) = .go (s.fold f) := by
  obtain ⟨h1, h2, h3, h4, h5, h6, h7, h8, h9, h10, h11, h12, h13, h14, h15, h16, hb, hi, h17, h18, h19, h20, h21⟩ := h
  have hnj : s.job.isNone = false := by cases hj : s.job <;> simp_all
  have hd : (s.fold f).db.stepped = false := by simp [Debug.stepped, h7]
  have he : (s.fold f).executes = true := by simp [Fold.executes, h4, h5, h8, h9]
  have h16' : ¬ (s.fold f).ex.bundleCnt ≤ (s.fold f).ex.nextBundle := by omega
  have h18' : ¬ 8192 ≤ (s.fold f).ex.sinceStall := by omega
  simp only [Fold.nextWord, BitVec.ofNat_eq_ofNat, Bool.or_eq_false_iff] at hi h17 h21
  unfold reach
  simp only [he, h10, hnj, hd, h12, h13, h14, h2, h3, h6]
  rcases h11 with hw | ⟨w, hw, ho, _⟩
  · rw [hw]
    cases on <;> simp [h6, h14, h15, h16', h17, h18', h19, hb, hi, h21]
  · rw [hw]; subst ho
    simp [hi]

/-- A bundle whose memory holds no error is read as it stands (R418). -/
theorem fetched_ready {s : State} {f : Nat} {i : Instr} {on : Option WaitOn} (h : Ready s f i on) :
    (s.fold f).fetched = s.fold f ∧ bundleStick (s.fold f) s = s := by
  simp [Fold.fetched, bundleStick, h.whole]

/-- A declaration that covers the active products raises nothing (R62). -/
theorem powerCheck_ok {s : State} {f : Nat} (h : (s.fold f).ex.overPower = false) : powerCheck f s = s := by
  simp [powerCheck, h]

@[simp] theorem passes_issued (x : Fold) (n : Nat) : (x.passes n).ex.issued = true := rfl

/-- The fold and the next bundle that an instruction gives at issue leave the issue, the declaration, the cycle and the active
products as they are. -/
def Plain (x : Fold) (r : Fold × Nat) : Prop :=
  r.1.ex.issued = true ∧ r.1.ex.pwr = bundlePwr x.nextWord ∧ r.1.ex.active = x.ex.active ∧ r.1.ex.cycle = x.ex.cycle

/-- A bundle without a stall point issues: only its fold changes. -/
theorem ctlIssue_ready {s : State} {f : Nat} {i : Instr} (h : Ready s f i none) (g : Fold → Fold × Nat)
    (hg : Plain (s.fold f) (g ((s.fold f).issue false false))) :
    ctlIssue s f i g = s.setFold f
      { (g ((s.fold f).issue false false)).1 with
        ex := { (g ((s.fold f).issue false false)).1.ex with nextBundle := (g ((s.fold f).issue false false)).2 } } := by
  obtain ⟨hi, hp, ha, hc⟩ := hg
  unfold ctlIssue
  simp only [h.ctlDue, reach_go h, fetched_ready h]
  rw [if_neg (by simp)]
  apply powerCheck_ok
  rw [fold_setFold_same _ _ (ne_init_of_issued (by exact hi))]
  have := h.power
  simp only [Exec.overPower, Exec.govern, Fold.nextWord] at this hp ⊢
  rw [hp, ha, hc]; exact this

/-- The wait of a fold that is ready has observed its condition. -/
theorem seen_ready {s : State} {f : Nat} {i : Instr} {on : Option WaitOn} (h : Ready s f i on) :
    (s.fold f).ex.unseen = false := by
  rcases h.wait with hw | ⟨w, hw, _, hs⟩ <;> simp [Exec.unseen, hw]
  exact hs

/-- A stall point that meets its condition issues: the fold after the issue goes to `take`. -/
theorem stallIssue_ready {s : State} {f : Nat} {i : Instr} {on : WaitOn} (h : Ready s f i (some on)) (ctl : Bool)
    (bad : State → Fold → Option (Nat × Nat × Nat)) (holds : State → Fold → Bool) (take : State → Fold → State × Nat)
    (hb : bad s (s.fold f) = none) (hh : holds s (s.fold f) = true) :
    stallIssue s f ctl on i bad holds take =
      (let x := s.fold f
       let y := x.issue true (tapped s x x.ex.nextBundle)
       let t := endWait (s.setFold f { y with ex := { y.ex with ctlDue := !ctl } }) f x.ex.wait
       let r := take t (t.fold f)
       powerCheck f (r.1.onFold f fun z =>
         { z with ex := { z.ex with nextBundle := if ctl then r.2 else z.ex.nextBundle } })) := by
  unfold stallIssue
  rw [reach_go h]
  simp [hb, hh, seen_ready h, fetched_ready h]

theorem endWait_others (s : State) (f : Nat) (w : Option Wait) :
    Others s (endWait s f w) f ∧ ((endWait s f w).fold f).untraced = (s.fold f).untraced := by
  cases w with
  | none => exact ⟨Others.refl s f, rfl⟩
  | some w =>
    simp only [endWait]
    split
    · exact tr_others f _ 2 engExec _ _ s
    · exact ⟨Others.refl s f, rfl⟩

theorem untraced_ex {x y : Fold} (h : x.untraced = y.untraced) : x.ex = y.ex := by
  show x.untraced.ex = y.untraced.ex
  rw [h]

/-- Setting the next bundle touches nothing that the trace unit holds. -/
def Fold.goto (x : Fold) (n : Nat) : Fold := { x with ex := { x.ex with nextBundle := n } }

theorem untraced_goto {x y : Fold} (h : x.untraced = y.untraced) (n : Nat) : (x.goto n).untraced = (y.goto n).untraced :=
  congrArg (fun z : Fold => z.goto n) h

/-- A ready stall point: `take` changes its fold to `G`, apart from the trace. -/
theorem stall_effect {s : State} {f : Nat} {i : Instr} {on : WaitOn} (h : Ready s f i (some on)) (ctl : Bool)
    (bad : State → Fold → Option (Nat × Nat × Nat)) (holds : State → Fold → Bool) (take : State → Fold → State × Nat)
    (hb : bad s (s.fold f) = none) (hh : holds s (s.fold f) = true) (Y z : Fold) (n : Nat)
    (hY : Y = { (s.fold f).issue true (tapped s (s.fold f) (s.fold f).ex.nextBundle) with
      ex := { ((s.fold f).issue true (tapped s (s.fold f) (s.fold f).ex.nextBundle)).ex with ctlDue := !ctl } })
    (ht : ∀ t : State, Others s t f → (t.fold f).untraced = Y.untraced →
      Others t (take t (t.fold f)).1 f ∧ ((take t (t.fold f)).1.fold f).untraced = z.untraced ∧
        (take t (t.fold f)).2 = n)
    (hz : Plain (s.fold f) (z, n)) :
    Others s (stallIssue s f ctl on i bad holds take) f ∧
      ((stallIssue s f ctl on i bad holds take).fold f).untraced =
        (z.goto (if ctl then n else z.ex.nextBundle)).untraced := by
  rw [stallIssue_ready h ctl bad holds take hb hh]
  have hYi : Y.ex.issued = true := by rw [hY]; rfl
  have h0 : Others s (s.setFold f Y) f := others_setFold s f Y
  have h1 := endWait_others (s.setFold f Y) f (s.fold f).ex.wait
  rw [fold_setFold_same s f (ne_init_of_issued hYi)] at h1
  obtain ⟨h2, h3, h4⟩ := ht _ (h0.trans h1.1) h1.2
  simp only [← hY]
  generalize endWait (s.setFold f Y) f (s.fold f).ex.wait = u at h1 h2 h3 h4 ⊢
  generalize take u (u.fold f) = r at h2 h3 h4 ⊢
  obtain ⟨v, m⟩ := r
  simp only at h2 h3 h4 ⊢
  subst h4
  have hex := untraced_ex h3
  have e : v.onFold f (fun z => { z with ex := { z.ex with nextBundle := if ctl then m else z.ex.nextBundle } }) =
      v.setFold f ((v.fold f).goto (if ctl then m else z.ex.nextBundle)) := by
    simp only [State.onFold, Fold.goto, hex]
  rw [e]
  have hne : (v.fold f).goto (if ctl then m else z.ex.nextBundle) ≠ Fold.init := by
    refine ne_init_of_issued ?_
    show (v.fold f).ex.issued = true
    rw [hex]; exact hz.1
  have hp : powerCheck f (v.setFold f ((v.fold f).goto (if ctl then m else z.ex.nextBundle))) =
      v.setFold f ((v.fold f).goto (if ctl then m else z.ex.nextBundle)) := by
    apply powerCheck_ok
    rw [fold_setFold_same _ _ hne]
    have := h.power
    obtain ⟨_, hz2, hz3, hz4⟩ := hz
    simp only [Exec.overPower, Exec.govern, Fold.nextWord, Fold.goto, hex] at this hz2 ⊢
    rw [hz2, hz3, hz4]; exact this
  rw [hp]
  refine ⟨((h0.trans h1.1).trans h2).trans (others_setFold v f _), ?_⟩
  rw [fold_setFold_same _ _ hne]
  exact untraced_goto h3 _

theorem tr_fold (f : Nat) (k e : Nat) (tag : BitVec 12) (d : Nat) (s : State) :
    Others s (s.tr f k e tag d) f ∧ ((s.tr f k e tag d).fold f).untraced = (s.fold f).untraced :=
  tr_others f _ k e tag d s

/-- A `take` that only replaces its fold by `g` of it, where `g` leaves the trace unit alone. -/
theorem take_ok {t : State} {f : Nat} {Y : Fold} (g : Fold → Fold) (hu : (t.fold f).untraced = Y.untraced)
    (hi : ∀ x, (g x).ex.issued = x.ex.issued) (hY : Y.ex.issued = true)
    (hg : ∀ x, (g x).untraced = (g x.untraced).untraced) :
    (t.setFold f (g (t.fold f))).fold f = g (t.fold f) ∧ (g (t.fold f)).untraced = (g Y).untraced := by
  constructor
  · apply fold_setFold_same
    apply ne_init_of_issued
    rw [hi, untraced_ex hu]; exact hY
  · rw [hg, hu, ← hg]

/-- A stall point whose condition does not hold begins to wait. -/
theorem stall_waits {s : State} {f : Nat} {i : Instr} {on : WaitOn} (h : Ready s f i (some on)) (ctl : Bool)
    (bad : State → Fold → Option (Nat × Nat × Nat)) (holds : State → Fold → Bool) (take : State → Fold → State × Nat)
    (hb : bad s (s.fold f) = none) (hh : holds s (s.fold f) = false) :
    stallIssue s f ctl on i bad holds take = beginWait s f (s.fold f) on := by
  unfold stallIssue
  rw [reach_go h]
  simp [hb, hh]

/-- The fold that begins to wait has not issued its bundle; it names what it waits for. -/
theorem beginWait_effect {s : State} {f : Nat} {i : Instr} {on : WaitOn} (h : Ready s f i (some on)) (hw : (s.fold f).ex.wait = none) :
    Others s (beginWait s f (s.fold f) on) f ∧
      ((beginWait s f (s.fold f) on).fold f).untraced =
        ({ s.fold f with ex := { (s.fold f).ex.govern with wait := some (.start on (s.fold f).ex.cycle true) } } : Fold).untraced := by
  unfold beginWait
  rw [hw]
  dsimp only
  rw [if_neg (by simp)]
  generalize hY : ({ s.fold f with
    ex := { (s.fold f).ex.govern with wait := some (.start on (s.fold f).ex.cycle true) } } : Fold) = Y
  have hne : Y ≠ Fold.init := by
    refine ne_init_of_run (r := .running) ?_ (by simp)
    rw [← hY]; exact h.run
  have h1 := tr_fold f 1 engExec (bundleTag (peek 0 (s.fold f).ex.bundles (s.fold f).ex.nextBundle))
    (at_ 60 4 on.kind.1 + at_ 44 16 on.kind.2) (s.setFold f Y)
  rw [fold_setFold_same _ _ hne] at h1
  have hp : (((s.setFold f Y).tr f 1 engExec (bundleTag (peek 0 (s.fold f).ex.bundles (s.fold f).ex.nextBundle))
      (at_ 60 4 on.kind.1 + at_ 44 16 on.kind.2)).fold f).ex.overPower = false := by
    rw [untraced_ex h1.2, ← hY]; exact h.power
  rw [powerCheck_ok hp]
  exact ⟨(others_setFold s f Y).trans h1.1, h1.2⟩

/-- A slot that is ready and has no fault of its own acts on the state with the slot marked. -/
theorem slotIssue_ready {s : State} {f slot : Nat} {i : Instr} (h : SlotReady s f slot i) (hs : 1 ≤ slot)
    (bad : State → Fold → Option (Nat × Nat × Nat)) (act : State → Fold → State)
    (hb : bad (s.setFold f ((s.fold f).marks slot)) ((s.fold f).marks slot) = none) :
    slotIssue s f slot i bad act = act (s.setFold f ((s.fold f).marks slot)) ((s.fold f).marks slot) := by
  have hne : (s.fold f).marks slot ≠ Fold.init := ne_init_of_issued (by exact h.issued)
  have ho : slotOpen s f slot = true := by
    have := h.run
    simp only [slotOpen, h.issued, h.unused, h.job, h.settled]
    simp [this, hs]
  have hf : (s.setFold f ((s.fold f).marks slot)).fold f = (s.fold f).marks slot := fold_setFold_same s f hne
  unfold slotIssue
  rw [if_pos (by rw [ho, h.word]; rfl)]
  show (let s := s.setFold f ((s.fold f).marks slot)
    let x := s.fold f
    match bad s x with
    | some (code, engine, detail) => slotFault s f slot code engine detail
    | none => if x.ex.bad.isSome then s else act s x) = _
  dsimp only
  rw [hf, hb]
  have hbad : ((s.fold f).marks slot).ex.bad = none := h.good
  simp [hbad]

/-- Changing a fold that has issued, once its slot is marked. -/
theorem setFold_marks {s : State} {f slot : Nat} {i : Instr} (h : SlotReady s f slot i) (y : Fold) :
    (s.setFold f ((s.fold f).marks slot)).setFold f y = s.setFold f y :=
  setFold_setFold s f y (ne_init_of_issued (by exact h.issued))

end Sys2Proof.Machine
end

