-- ==== Sys2Proof/Laws/Keeps.lean ====
section
/-! SUPPORT. What every operation leaves alone: the queue of commands, and the canonical form of both memories. The files
Keep….lean say it of each operation in turn. -/
namespace Sys2Proof.Machine

/-- What a state transformer leaves alone: the queue of commands, and the canonical form of both memories. -/
structure KeepsV (s : State) (p : List Instr) (m h : List (Nat × Byte)) : Prop where
  pending : p = s.pending
  mem     : s.memWf = true → wfMap memDefault m = true ∧ wfMap memDefault h = true

/-- A state transformer leaves the queue of commands alone and keeps both memories canonical. -/
structure Keeps (s t : State) : Prop where
  v : KeepsV s t.pending t.msd.mem t.host.hostMem

theorem Keeps.refl (s : State) : Keeps s s :=
  ⟨⟨rfl, fun h => by simpa only [State.memWf, Bool.and_eq_true] using h⟩⟩

theorem Keeps.foldl {α : Type} {s t : State} {f : State → α → State} {l : List α} (h : Keeps s t)
    (hf : ∀ u x, Keeps s u → Keeps s (f u x)) : Keeps s (l.foldl f t) := by
  induction l generalizing t with
  | nil => exact h
  | cons a l ih => exact ih (hf t a h)

/-- The same of a result that may be a refusal code. -/
structure KeepsW (s : State) (w : Except Nat State) : Prop where
  v : ∀ u, w = .ok u → Keeps s u

theorem KeepsW.ok {s t : State} (k : Keeps s t) : KeepsW s (.ok t) := ⟨fun _ e => by cases e; exact k⟩

theorem KeepsW.error {s : State} (c : Nat) : KeepsW s (.error c) := ⟨fun _ e => by cases e⟩

theorem KeepsW.guard {s : State} (bad : Bool) (code : Nat) {w : Except Nat State} (k : KeepsW s w) :
    KeepsW s (guardWr bad code w) := by
  unfold guardWr; split
  · exact .error _
  · exact k

theorem KeepsW.map {α : Type} {s : State} (w : Except Nat α) {f : α → State} (k : ∀ a, Keeps s (f a)) : KeepsW s (w.map f) := by
  cases w with
  | ok a => exact .ok (k a)
  | error c => exact .error c

/-- The same of a result that may be absent. -/
structure KeepsO (s : State) (o : Option State) : Prop where
  v : ∀ u, o = some u → Keeps s u

theorem KeepsO.some {s t : State} (k : Keeps s t) : KeepsO s (.some t) := ⟨fun _ e => by cases e; exact k⟩

theorem KeepsO.none {s : State} : KeepsO s .none := ⟨fun _ e => by cases e⟩

end Sys2Proof.Machine
end

