-- ==== Sys2Proof/Laws/KeepOps.lean ====
section
/-! SUPPORT. What Keeps.lean says, of the shared operations, tiles, flits and the ctl slot. -/
namespace Sys2Proof.Machine

/-! ### Ops -/

theorem keeps_setFold {s0 : State} (s : State) (f : Nat) (x : Fold) (k0 : Keeps s0 s) :
    Keeps s0 (s.setFold f x) := ⟨k0.v⟩
theorem keeps_onFold {s0 : State} (s : State) (f : Nat) (g : Fold → Fold) (k0 : Keeps s0 s) :
    Keeps s0 (s.onFold f g) := ⟨k0.v⟩
theorem keeps_onJob {s0 : State} (s : State) (g : Job → Job) (k0 : Keeps s0 s) :
    Keeps s0 (s.onJob g) := ⟨k0.v⟩
theorem keeps_used {s0 : State} (s : State) (k0 : Keeps s0 s) :
    Keeps s0 (s.used) := ⟨k0.v⟩
theorem keeps_logAppend {s0 : State} (cls code data : Nat) (s : State) (k0 : Keeps s0 s) :
    Keeps s0 (logAppend cls code data s) := by
  unfold logAppend
  try dsimp only
  repeat' first | with_reducible assumption | split | (refine Keeps.mk ?_; dsimp only; refine Keeps.v ?_)

theorem keeps_logEntry {s0 : State} (cls code data : Nat) (s : State) (k0 : Keeps s0 s) :
    Keeps s0 (logEntry cls code data s) := by
  unfold logEntry
  try dsimp only
  repeat' first | with_reducible assumption | with_reducible apply keeps_logAppend | split
                | (refine Keeps.mk ?_; dsimp only; refine Keeps.v ?_)

theorem keeps_logFree {s0 : State} (cls : Nat) (s : State) (k0 : Keeps s0 s) :
    Keeps s0 (logFree cls s) := by
  unfold logFree
  try dsimp only
  repeat' first | with_reducible assumption | with_reducible apply keeps_logEntry | split
                | (refine Keeps.mk ?_; dsimp only; refine Keeps.v ?_)

theorem keeps_logWith {s0 : State} (cls w v : Nat) (s : State) (k0 : Keeps s0 s) :
    Keeps s0 (logWith cls w v s) := by
  unfold logWith
  try dsimp only
  repeat' first | with_reducible assumption | with_reducible apply keeps_logEntry | split
                | (refine Keeps.mk ?_; dsimp only; refine Keeps.v ?_)

theorem keeps_flushRuns {s0 : State} (p : DbgRun → Bool) (s : State) (k0 : Keeps s0 s) :
    Keeps s0 (flushRuns p s) := by
  unfold flushRuns
  try dsimp only
  repeat' first | with_reducible assumption | with_reducible apply keeps_logEntry
                | (with_reducible refine Keeps.foldl ?_ ?_) | (intro _ _ _) | split
                | (refine Keeps.mk ?_; dsimp only; refine Keeps.v ?_)

theorem keeps_logStick {s0 : State} (before k : Nat) (s : State) (k0 : Keeps s0 s) :
    Keeps s0 (logStick before k s) := ⟨k0.v⟩
theorem keeps_keep {s0 : State} (g : Kept → Kept) (s : State) (k0 : Keeps s0 s) :
    Keeps s0 (State.keep g s) := ⟨k0.v⟩
theorem keeps_setStatus {s0 : State} (bit : Nat) (s : State) (k0 : Keeps s0 s) :
    Keeps s0 (setStatus bit s) := ⟨k0.v⟩
theorem keeps_checkCount {s0 : State} (key n : Nat) (s : State) (k0 : Keeps s0 s) :
    Keeps s0 (checkCount key n s) := by
  unfold checkCount
  try dsimp only
  repeat' first | with_reducible assumption | with_reducible apply keeps_logStick | with_reducible apply keeps_setStatus
                | split | (refine Keeps.mk ?_; dsimp only; refine Keeps.v ?_)

theorem keeps_trAt {s0 : State} (f c kind engine : Nat) (tag : BitVec 12) (data : Nat) (s : State) (k0 : Keeps s0 s) :
    Keeps s0 (State.trAt f c kind engine tag data s) := by
  unfold State.trAt
  try dsimp only
  repeat' first | with_reducible assumption | with_reducible apply keeps_setFold | with_reducible apply keeps_logStick
                | split | (refine Keeps.mk ?_; dsimp only; refine Keeps.v ?_)

theorem keeps_tr {s0 : State} (f kind engine : Nat) (tag : BitVec 12) (data : Nat) (s : State) (k0 : Keeps s0 s) :
    Keeps s0 (State.tr f kind engine tag data s) := by
  unfold State.tr
  try dsimp only
  repeat' first | with_reducible assumption | with_reducible apply keeps_trAt | split

theorem keeps_keepStretched {s0 : State} (f : Nat) (s : State) (k0 : Keeps s0 s) :
    Keeps s0 (keepStretched f s) := by
  unfold keepStretched
  try dsimp only
  repeat' first | with_reducible assumption | with_reducible apply keeps_logStick | split
                | (refine Keeps.mk ?_; dsimp only; refine Keeps.v ?_)

theorem keeps_raise {s0 : State} (r : FaultRep) (s : State) (k0 : Keeps s0 s) :
    Keeps s0 (raise r s) := by
  unfold raise
  try dsimp only
  repeat' first | with_reducible assumption | split | (refine Keeps.mk ?_; dsimp only; refine Keeps.v ?_)

theorem keeps_raiseAt {s0 : State} (f c code engine akind addr : Nat) (tag : BitVec 12) (detail : Nat) (s : State) (k0
    : Keeps s0 s) :
    Keeps s0 (State.raiseAt f c code engine akind addr tag detail s) := by
  unfold State.raiseAt
  try dsimp only
  repeat' first | with_reducible assumption | with_reducible apply keeps_trAt | with_reducible apply keeps_raise | split

theorem keeps_raiseFold {s0 : State} (f code engine akind addr : Nat) (tag : BitVec 12) (detail : Nat) (s : State) (k0
    : Keeps s0 s) :
    Keeps s0 (State.raiseFold f code engine akind addr tag detail s) := by
  unfold State.raiseFold
  try dsimp only
  repeat' first | with_reducible assumption | with_reducible apply keeps_raiseAt | split

theorem keeps_setFatal {s0 : State} (cause : Nat) (r : Option FaultRep) (s : State) (k0 : Keeps s0 s) :
    Keeps s0 (setFatal cause r s) := by
  unfold setFatal
  try dsimp only
  repeat' first | with_reducible assumption | with_reducible apply keeps_setStatus | with_reducible apply keeps_raise
                | split | (refine Keeps.mk ?_; dsimp only; refine Keeps.v ?_)

theorem keeps_setFatal70 {s0 : State} (cause : Nat) (s : State) (k0 : Keeps s0 s) :
    Keeps s0 (setFatal70 cause s) := by
  unfold setFatal70
  try dsimp only
  repeat' first | with_reducible assumption | with_reducible apply keeps_setFatal | split

theorem keeps_tallyFault {s0 : State} (f unit : Nat) (peer : Option (Bool × Nat)) (r : FaultRep) (s : State) (k0 :
    Keeps s0 s) :
    Keeps s0 (tallyFault f unit peer r s) := by
  unfold tallyFault
  try dsimp only
  repeat' first | with_reducible assumption | with_reducible apply keeps_checkCount | with_reducible apply keeps_onFold
                | with_reducible apply keeps_tr | with_reducible apply keeps_raise | split

theorem keeps_pokeMem {s0 : State} (s : State) (a : Nat) (l : List Byte) (k0 : Keeps s0 s) : Keeps s0 (s.pokeMem a l) := by
  exact ⟨⟨k0.v.pending, fun m => ⟨wfMap_putRun _ _ _ (k0.v.mem m).1, (k0.v.mem m).2⟩⟩⟩

theorem keeps_pokeHost {s0 : State} (s : State) (a : Nat) (l : List Byte) (k0 : Keeps s0 s) : Keeps s0 (s.pokeHost a
    l) := by
  exact ⟨⟨k0.v.pending, fun m => ⟨(k0.v.mem m).1, wfMap_putRun _ _ _ (k0.v.mem m).2⟩⟩⟩

theorem keeps_State_writeHost {s0 : State} (s : State) (a : Nat) (l : List Byte) (k0 : Keeps s0 s) :
    Keeps s0 (s.writeHost a l) := by
  unfold State.writeHost
  try dsimp only
  repeat' first | with_reducible assumption | with_reducible apply keeps_pokeHost
                | (with_reducible refine Keeps.foldl ?_ ?_) | (intro _ _ _) | split

theorem keeps_bundleStick {s0 : State} (x : Fold) (s : State) (k0 : Keeps s0 s) :
    Keeps s0 (bundleStick x s) := by
  unfold bundleStick
  try dsimp only
  repeat' first | with_reducible assumption | with_reducible apply keeps_logStick | split

theorem keeps_failIssue {s0 : State} (s : State) (f : Nat) (x : Fold) (code slot engine detail addr : Nat) (tag :
    BitVec 12) (k0 : Keeps s0 s) :
    Keeps s0 (failIssue s f x code slot engine detail addr tag) := by
  unfold failIssue
  try dsimp only
  repeat' first | with_reducible assumption | with_reducible apply keeps_raiseFold | with_reducible apply keeps_setFold
                | split

theorem keeps_failOpen {s0 : State} (s : State) (f : Nat) (x : Fold) (code slot engine detail : Nat) (k0 : Keeps s0 s) :
    Keeps s0 (failOpen s f x code slot engine detail) := by
  unfold failOpen
  try dsimp only
  repeat' first | with_reducible assumption | with_reducible apply keeps_failIssue | split

theorem keeps_dropIssueReport {s0 : State} (f cycle addr : Nat) (s : State) (k0 : Keeps s0 s) :
    Keeps s0 (dropIssueReport f cycle addr s) := ⟨k0.v⟩
theorem keeps_slotFault {s0 : State} (s : State) (f slot code engine detail : Nat) (k0 : Keeps s0 s) :
    Keeps s0 (slotFault s f slot code engine detail) := by
  unfold slotFault
  try dsimp only
  repeat' first | with_reducible assumption | with_reducible apply keeps_failIssue
                | with_reducible apply keeps_dropIssueReport | split

theorem keeps_powerCheck {s0 : State} (f : Nat) (s : State) (k0 : Keeps s0 s) :
    Keeps s0 (powerCheck f s) := by
  unfold powerCheck
  try dsimp only
  repeat' first | with_reducible assumption | with_reducible apply keeps_slotFault | split

theorem keeps_ctlIssue {s0 : State} (s : State) (f : Nat) (i : Instr) (g : Fold → Fold × Nat) (k0 : Keeps s0 s) :
    Keeps s0 (ctlIssue s f i g) := by
  unfold ctlIssue
  try dsimp only
  repeat' first | with_reducible assumption | with_reducible apply keeps_setFold | with_reducible apply keeps_failOpen
                | with_reducible apply keeps_failIssue | with_reducible apply keeps_bundleStick
                | with_reducible apply keeps_powerCheck | split

theorem keeps_beginWait {s0 : State} (s : State) (f : Nat) (x : Fold) (on : WaitOn) (k0 : Keeps s0 s) :
    Keeps s0 (beginWait s f x on) := by
  unfold beginWait
  try dsimp only
  repeat' first | with_reducible assumption | with_reducible apply keeps_setFold | with_reducible apply keeps_powerCheck
                | with_reducible apply keeps_tr | split

theorem keeps_endWait {s0 : State} (s : State) (f : Nat) (w : Option Wait) (k0 : Keeps s0 s) :
    Keeps s0 (endWait s f w) := by
  unfold endWait
  try dsimp only
  repeat' first | with_reducible assumption | with_reducible apply keeps_tr | split

theorem keeps_stallIssue {s0 : State} (s : State) (f : Nat) (ctl : Bool) (on : WaitOn) (i : Instr)
    (bad : State → Fold → Option (Nat × Nat × Nat)) (holds : State → Fold → Bool) (take : State → Fold → State × Nat)
    (k0 : Keeps s0 s) (hf : ∀ t x, Keeps s0 t → Keeps s0 (take t x).1) : Keeps s0 (stallIssue s f ctl on i bad holds take)
        := by
  unfold stallIssue
  dsimp only
  repeat' first | with_reducible assumption | with_reducible apply keeps_setFold | with_reducible apply keeps_failIssue
                | with_reducible apply keeps_powerCheck | with_reducible apply keeps_failOpen
                | with_reducible apply keeps_onFold | with_reducible apply keeps_setFold | with_reducible apply hf
                | with_reducible apply keeps_endWait | with_reducible apply keeps_beginWait
                | with_reducible apply keeps_bundleStick | split

theorem keeps_slotIssue {s0 : State} (s : State) (f slot : Nat) (i : Instr) (bad : State → Fold → Option (Nat × Nat × Nat))
    (act : State → Fold → State) (k0 : Keeps s0 s) (hf : ∀ t x, Keeps s0 t → Keeps s0 (act t x)) :
    Keeps s0 (slotIssue s f slot i bad act) := by
  unfold slotIssue
  dsimp only
  repeat' first | with_reducible assumption | with_reducible apply keeps_slotFault | with_reducible apply hf
                | with_reducible apply keeps_onFold | split

/-! ### Store -/

theorem keeps_touchWord {s0 : State} (f akind addr : Nat) (tag : BitVec 12) (s : State) (w : Nat) (k0 : Keeps s0 s) :
    Keeps s0 (touchWord f akind addr tag s w) := by
  unfold touchWord
  try dsimp only
  repeat' first | with_reducible assumption | with_reducible apply keeps_logStick | with_reducible apply keeps_setFold
                | with_reducible apply keeps_raiseFold | split

theorem keeps_spTouch {s0 : State} (f akind addr : Nat) (tag : BitVec 12) (a n : Nat) (s : State) (k0 : Keeps s0 s) :
    Keeps s0 (spTouch f akind addr tag a n s) := by
  unfold spTouch
  try dsimp only
  repeat' first | with_reducible assumption | with_reducible apply keeps_touchWord
                | (with_reducible refine Keeps.foldl ?_ ?_) | (intro _ _ _) | split

theorem keeps_spStore {s0 : State} (f akind addr : Nat) (tag : BitVec 12) (a : Nat) (l : List Byte) (s : State) (k0 :
    Keeps s0 s) :
    Keeps s0 (spStore f akind addr tag a l s) := by
  unfold spStore
  try dsimp only
  repeat' first | with_reducible assumption | with_reducible apply keeps_touchWord | with_reducible apply keeps_onFold
                | (with_reducible refine Keeps.foldl ?_ ?_) | (intro _ _ _) | split

theorem keeps_touchRow {s0 : State} (f baddr : Nat) (tag : BitVec 12) (t r : Nat) (s : State) (k0 : Keeps s0 s) :
    Keeps s0 (touchRow f baddr tag t r s) := by
  unfold touchRow
  try dsimp only
  repeat' first | with_reducible assumption | with_reducible apply keeps_raiseFold | split

theorem keeps_readPort {s0 : State} (f p t n r : Nat) (s : State) (k0 : Keeps s0 s) :
    Keeps s0 (readPort f p t n r s) := ⟨k0.v⟩

/-! ### Tile -/

theorem keeps_spIssue {s0 : State} (f n : Nat) (read : Bool) (after : Nat) (op : Fold → DueOp) (s : State) (x : Fold)
    (k0 : Keeps s0 s) :
    Keeps s0 (spIssue f n read after op s x) := ⟨k0.v⟩
theorem keeps_later {s0 : State} (f : Nat) (ds : List Due) (s : State) (k0 : Keeps s0 s) :
    Keeps s0 (later f ds s) := ⟨k0.v⟩
theorem keeps_latched {s0 : State} (f : Nat) (d : Due) (latch : List (Nat × List Byte)) (l : Nat) (s : State) (k0 :
    Keeps s0 s) :
    Keeps s0 (latched f d latch l s).1 := by
  unfold latched
  split
  · exact k0
  · exact keeps_spTouch _ _ _ _ _ _ _ k0

theorem keeps_latchedAll {s0 : State} (f : Nat) (d : Due) (latch : List (Nat × List Byte)) (ls : List Nat) (s : State)
    (k0 : Keeps s0 s) : Keeps s0 (latchedAll f d latch ls s).1 := by
  unfold latchedAll
  have go : ∀ (l : List Nat) (a : State × List (Nat × List Byte)), Keeps s0 a.1 →
      Keeps s0 (l.foldl (fun a l => let r := latched f d latch l a.1; (r.1, a.2 ++ [(l, r.2)])) a).1 := by
    intro l
    induction l with
    | nil => exact fun a k => k
    | cons m l ih => intro a k; rw [List.foldl_cons]; exact ih _ (keeps_latched _ _ _ _ _ k)
  exact go _ _ k0

theorem keeps_landTranspose {s0 : State} (f : Nat) (d : Due) (o : SpMove) (stride : Int) (cfg : BitVec 32) (j : Nat)
    (s : State) (k0 : Keeps s0 s) :
    Keeps s0 (landTranspose f d o stride cfg j s) := by
  unfold landTranspose
  try dsimp only
  repeat' first | with_reducible assumption | with_reducible apply keeps_spTouch | with_reducible apply keeps_later
                | (with_reducible refine Keeps.foldl ?_ ?_) | (intro _ _ _) | split

theorem keeps_landLdt {s0 : State} (f : Nat) (d : Due) (o : SpMove) (stride : Int) (cfg : BitVec 32) (j : Nat) (latch
    : List (Nat × List Byte)) (exps : List Byte) (s : State) (k0 : Keeps s0 s) :
    Keeps s0 (landLdt f d o stride cfg j latch exps s) := by
  unfold landLdt
  try dsimp only
  repeat' first | with_reducible assumption | with_reducible apply keeps_landTranspose
                | with_reducible apply keeps_spTouch | with_reducible apply keeps_later
                | with_reducible apply keeps_latchedAll | split

theorem keeps_landStt {s0 : State} (f : Nat) (d : Due) (o : SpMove) (stride : Int) (cfg : BitVec 32) (j : Nat)
    (gathered exps : List (Nat × List Byte)) (s : State) (k0 : Keeps s0 s) :
    Keeps s0 (landStt f d o stride cfg j gathered exps s) := by
  unfold landStt
  try dsimp only
  repeat' first | with_reducible assumption | with_reducible apply keeps_readPort | with_reducible apply keeps_touchRow
                | with_reducible apply keeps_later | split

theorem keeps_landSpWrite {s0 : State} (f : Nat) (d : Due) (chunks : List (Nat × List Byte)) (s : State) (k0 : Keeps s0 s) :
    Keeps s0 (landSpWrite f d chunks s) := by
  unfold landSpWrite
  try dsimp only
  repeat' first | with_reducible assumption | with_reducible apply keeps_spStore
                | (with_reducible refine Keeps.foldl ?_ ?_) | (intro _ _ _) | split

theorem keeps_landTileRow {s0 : State} (f t r : Nat) (bytes exps : List Byte) (s : State) (k0 : Keeps s0 s) :
    Keeps s0 (landTileRow f t r bytes exps s) := ⟨k0.v⟩
theorem keeps_landCfg {s0 : State} (f t : Nat) (w : BitVec 32) (s : State) (k0 : Keeps s0 s) :
    Keeps s0 (landCfg f t w s) := ⟨k0.v⟩
theorem keeps_landRel {s0 : State} (f : Nat) (m : BitVec 16) (s : State) (k0 : Keeps s0 s) :
    Keeps s0 (landRel f m s) := ⟨k0.v⟩
theorem keeps_landSset {s0 : State} (f ss : Nat) (v : BitVec 24) (s : State) (k0 : Keeps s0 s) :
    Keeps s0 (landSset f ss v s) := ⟨k0.v⟩
theorem keeps_landBankFault {s0 : State} (f baddr other bank : Nat) (s : State) (k0 : Keeps s0 s) :
    Keeps s0 (landBankFault f baddr other bank s) := by
  unfold landBankFault
  try dsimp only
  repeat' first | with_reducible assumption | with_reducible apply keeps_raiseFold | split

/-! ### RigOps -/

theorem keeps_setLink {s0 : State} (s : State) (l : Nat) (k : Link) (k0 : Keeps s0 s) :
    Keeps s0 (s.setLink l k) := ⟨k0.v⟩
theorem keeps_freeSpace {s0 : State} (s : State) (l key n : Nat) (k0 : Keeps s0 s) :
    Keeps s0 (s.freeSpace l key n) := by
  unfold State.freeSpace
  try dsimp only
  repeat' first | with_reducible assumption | with_reducible apply keeps_setLink | split

theorem keeps_State_pump {s0 : State} (s : State) (l : Nat) (k0 : Keeps s0 s) :
    Keeps s0 (s.pump l) := by
  unfold State.pump
  try dsimp only
  repeat' first | with_reducible assumption | with_reducible apply keeps_freeSpace | with_reducible apply keeps_setLink
                | (with_reducible refine Keeps.foldl ?_ ?_) | (intro _ _ _) | split

theorem keeps_sendOn {s0 : State} (s : State) (l : Nat) (fl : OutFlit) (k0 : Keeps s0 s) :
    Keeps s0 (s.sendOn l fl) := by
  unfold State.sendOn
  try dsimp only
  repeat' first | with_reducible assumption | with_reducible apply keeps_State_pump | with_reducible apply keeps_setLink
                | split

theorem keeps_dropFlit {s0 : State} (s : State) (k0 : Keeps s0 s) :
    Keeps s0 (s.dropFlit) := ⟨k0.v⟩
theorem keeps_freeDropped {s0 : State} (s : State) (fl : OutFlit) (k0 : Keeps s0 s) :
    Keeps s0 (s.freeDropped fl) := by
  unfold State.freeDropped
  try dsimp only
  repeat' first | with_reducible assumption | with_reducible apply keeps_freeSpace | split

theorem keeps_sendLink {s0 : State} (s : State) (l : Nat) (fl : OutFlit) (k0 : Keeps s0 s) :
    Keeps s0 (s.sendLink l fl) := by
  unfold State.sendLink
  try dsimp only
  repeat' first | with_reducible assumption | with_reducible apply keeps_sendOn | with_reducible apply keeps_dropFlit
                | with_reducible apply keeps_freeDropped | split

theorem keeps_sendFlit {s0 : State} (s : State) (fl : OutFlit) (k : Nat) (k0 : Keeps s0 s) :
    Keeps s0 (s.sendFlit fl k) := by
  unfold State.sendFlit
  try dsimp only
  repeat' first | with_reducible assumption | with_reducible apply keeps_sendOn | with_reducible apply keeps_dropFlit
                | with_reducible apply keeps_freeDropped | split

theorem keeps_bumpSendTally {s0 : State} (s : State) (node fold dir n : Nat) (k0 : Keeps s0 s) :
    Keeps s0 (s.bumpSendTally node fold dir n) := ⟨k0.v⟩
theorem keeps_sendNotices {s0 : State} (s : State) (k0 : Keeps s0 s) :
    Keeps s0 (s.sendNotices) := by
  unfold State.sendNotices
  try dsimp only
  repeat' first | with_reducible assumption | with_reducible apply keeps_sendOn
                | (with_reducible refine Keeps.foldl ?_ ?_) | (intro _ _ _) | split
                | (refine Keeps.mk ?_; dsimp only; refine Keeps.v ?_)

theorem keeps_sendDown {s0 : State} (s : State) (t : Nat) (fl : OutFlit) (k0 : Keeps s0 s) :
    Keeps s0 (s.sendDown t fl) := by
  unfold State.sendDown
  try dsimp only
  repeat' first | with_reducible assumption | with_reducible apply keeps_sendOn | with_reducible apply keeps_raise
                | (with_reducible refine Keeps.foldl ?_ ?_) | (intro _ _ _) | split

theorem keeps_sendGroupAbort {s0 : State} (s : State) (code : Nat) (k0 : Keeps s0 s) :
    Keeps s0 (s.sendGroupAbort code) := by
  unfold State.sendGroupAbort
  try dsimp only
  repeat' first | with_reducible assumption | with_reducible apply keeps_sendDown | with_reducible apply keeps_sendFlit
                | split

theorem keeps_revoke {s0 : State} (s : State) (f : Nat) (b : Binding) (k0 : Keeps s0 s) :
    Keeps s0 (s.revoke f b) := by
  unfold State.revoke
  try dsimp only
  repeat' first | with_reducible assumption | with_reducible apply keeps_sendFlit | with_reducible apply keeps_onFold
                | split

theorem keeps_closeQueue {s0 : State} (s : State) (f q : Nat) (k0 : Keeps s0 s) :
    Keeps s0 (s.closeQueue f q) := by
  unfold State.closeQueue
  try dsimp only
  repeat' first | with_reducible assumption | with_reducible apply keeps_onFold | with_reducible apply keeps_revoke
                | split

theorem keeps_closeQueues {s0 : State} (s : State) (f : Nat) (k0 : Keeps s0 s) :
    Keeps s0 (s.closeQueues f) := by
  unfold State.closeQueues
  try dsimp only
  repeat' first | with_reducible assumption | with_reducible apply keeps_closeQueue
                | (with_reducible refine Keeps.foldl ?_ ?_) | (intro _ _ _) | split

theorem keeps_peerReset {s0 : State} (s : State) (node : Nat) (k0 : Keeps s0 s) :
    Keeps s0 (s.peerReset node) := by
  unfold State.peerReset
  try dsimp only
  repeat' first | with_reducible assumption | with_reducible apply keeps_closeQueue
                | (with_reducible refine Keeps.foldl ?_ ?_) | (intro _ _ _) | split
                | (refine Keeps.mk ?_; dsimp only; refine Keeps.v ?_)

theorem keeps_lineNoise {s0 : State} (l : Nat) (bad : Bool) (s : State) (k0 : Keeps s0 s) :
    Keeps s0 (lineNoise l bad s) := ⟨k0.v⟩
theorem keeps_failLink {s0 : State} (l : Nat) (s : State) (k0 : Keeps s0 s) :
    Keeps s0 (failLink l s) := by
  unfold failLink
  try dsimp only
  repeat' first | with_reducible assumption | with_reducible apply keeps_setLink | with_reducible apply keeps_freeSpace
                | with_reducible apply keeps_logFree | with_reducible apply keeps_setStatus
                | with_reducible apply keeps_sendGroupAbort | with_reducible apply keeps_raise
                | (with_reducible refine Keeps.foldl ?_ ?_) | (intro _ _ _) | split
                | (refine Keeps.mk ?_; dsimp only; refine Keeps.v ?_)

theorem keeps_replay {s0 : State} (s : State) (l : Nat) (k0 : Keeps s0 s) :
    Keeps s0 (s.replay l) := by
  unfold State.replay
  try dsimp only
  repeat' first | with_reducible assumption | with_reducible apply keeps_failLink | with_reducible apply keeps_logStick
                | with_reducible apply keeps_setLink | split

theorem keeps_ack {s0 : State} (s : State) (h : FlitIn) (k0 : Keeps s0 s) :
    Keeps s0 (s.ack h) := by
  unfold State.ack
  try dsimp only
  repeat' first | with_reducible assumption | with_reducible apply keeps_lineNoise | with_reducible apply keeps_setLink
                | with_reducible apply keeps_State_pump | with_reducible apply keeps_replay | split

theorem keeps_seeEpoch {s0 : State} (s : State) (node : Nat) (e : BitVec 8) (k0 : Keeps s0 s) :
    Keeps s0 (s.seeEpoch node e) := by
  unfold State.seeEpoch
  try dsimp only
  repeat' first | with_reducible assumption | with_reducible apply keeps_peerReset | split
                | (refine Keeps.mk ?_; dsimp only; refine Keeps.v ?_)

theorem keeps_takeIn {s0 : State} (s : State) (h : FlitIn) (cls n : Nat) (k0 : Keeps s0 s) :
    KeepsO s0 (s.takeIn h cls n) := by
  unfold State.takeIn
  try dsimp only
  repeat' first | with_reducible assumption | with_reducible apply keeps_ack | with_reducible apply keeps_seeEpoch
                | with_reducible apply keeps_setLink | with_reducible apply KeepsO.some | exact KeepsO.none | split

theorem keeps_acceptFlit {s0 : State} (s : State) (h : FlitIn) (cls n : Nat) (k0 : Keeps s0 s) :
    KeepsO s0 (s.acceptFlit h cls n) := by
  unfold State.acceptFlit
  have k := keeps_takeIn s h cls n k0
  cases e : s.takeIn h cls n with
  | none => exact KeepsO.none
  | some t => exact KeepsO.some (keeps_freeSpace _ _ _ _ (k.v t e))

theorem keeps_discard {s0 : State} (s : State) (l : Nat) (k0 : Keeps s0 s) :
    Keeps s0 (s.discard l) := by
  unfold State.discard
  try dsimp only
  repeat' first | with_reducible assumption | with_reducible apply keeps_setLink | split

theorem keeps_takeFlit {s0 : State} (s : State) (h : FlitIn) (cls n : Nat) (act : State → State) (k0 : Keeps s0 s)
    (hf : ∀ t, Keeps s0 t → Keeps s0 (act t)) : Keeps s0 (s.takeFlit h cls n act) := by
  unfold State.takeFlit
  split
  · exact hf _ ((keeps_acceptFlit _ _ _ _ k0).v _ (by assumption))
  · exact keeps_discard _ _ k0

theorem keeps_bumpExpTally {s0 : State} (s : State) (node fold dir n : Nat) (k0 : Keeps s0 s) :
    Keeps s0 (s.bumpExpTally node fold dir n) := ⟨k0.v⟩

/-! ### Ctl -/

theorem keeps_endFold {s0 : State} (f : Nat) (s : State) (k0 : Keeps s0 s) :
    Keeps s0 (endFold f s) := by
  unfold endFold
  try dsimp only
  repeat' first | with_reducible assumption | with_reducible apply keeps_onFold | with_reducible apply keeps_onJob
                | with_reducible apply keeps_closeQueues | split

theorem keeps_releaseStep {s0 : State} (s : State) (f : Nat) (k0 : Keeps s0 s) :
    Keeps s0 (releaseStep s f) := by
  unfold releaseStep
  try dsimp only
  repeat' first | with_reducible assumption | with_reducible apply keeps_endWait | with_reducible apply keeps_setFold
                | with_reducible apply keeps_powerCheck | with_reducible apply keeps_tr | split

theorem keeps_clearArrivals {s0 : State} (f : Nat) (s : State) (k0 : Keeps s0 s) :
    Keeps s0 (clearArrivals f s) := ⟨k0.v⟩

end Sys2Proof.Machine
end

