-- ==== Sys2Proof/Laws/KeepFold.lean ====
section
/-! SUPPORT. What Keeps.lean says, of the queue unit, the matrix unit, the vector engine, the due results and the shepherd. -/
namespace Sys2Proof.Machine

/-! ### Queue -/

theorem keeps_arrive {s0 : State} (f q : Nat) (b : Binding) (r : MsgRec) (data : List Byte) (tally : BitVec 8) (crc : Nat)
    (s : State) (k0 : Keeps s0 s) {t : State} (e : arrive f q b r data tally crc s = .taken t) : Keeps s0 t := by
  unfold arrive at e
  split at e
  · cases e
  · split at e
    · cases e
    · cases e; exact keeps_setFold _ _ _ k0

theorem keeps_landTree {s0 : State} (s : State) (t src p : Nat) (m : NetMsg) (tally : BitVec 8) (k0 : Keeps s0 s) {u :
    State}
    (e : landTree s t src p m tally = .taken u) : Keeps s0 u := by
  unfold landTree at e
  dsimp only at e
  split at e
  · cases e; exact k0
  · split at e
    · cases e
    · split at e
      · cases e
      · split at e
        · cases e
        · exact keeps_arrive _ _ _ _ _ _ _ _ k0 e

theorem keeps_treeCredit {s0 : State} (i : Nat) (s : State) (k0 : Keeps s0 s) :
    Keeps s0 (treeCredit i s) := by
  unfold treeCredit
  try dsimp only
  repeat' first | with_reducible assumption | with_reducible apply keeps_onFold | with_reducible apply keeps_sendOn
                | with_reducible apply keeps_raise | split | (refine Keeps.mk ?_; dsimp only; refine Keeps.v ?_)

theorem keeps_holdTree {s0 : State} (s : State) (t p : Nat) (m : NetMsg) (k0 : Keeps s0 s) :
    Keeps s0 (s.holdTree t p m) := by
  unfold State.holdTree
  try dsimp only
  repeat' first | with_reducible assumption | with_reducible apply keeps_treeCredit | split
                | (refine Keeps.mk ?_; dsimp only; refine Keeps.v ?_)

theorem keeps_refusedFault {s0 : State} (f ch slot : Nat) (binding : Bool) (s : State) (k0 : Keeps s0 s) :
    Keeps s0 (refusedFault f ch slot binding s) := by
  unfold refusedFault
  try dsimp only
  repeat' first | with_reducible assumption | with_reducible apply keeps_raiseFold | split

theorem keeps_refuseMsg {s0 : State} (s : State) (node p ch slot k : Nat) (binding : Bool) (k0 : Keeps s0 s) :
    Keeps s0 (s.refuseMsg node p ch slot k binding) := by
  unfold State.refuseMsg
  try dsimp only
  repeat' first | with_reducible assumption | with_reducible apply keeps_refusedFault
                | with_reducible apply keeps_sendFlit | split

theorem keeps_leaveMsg {s0 : State} (f : Nat) (m : OutMsg) (s : State) (k0 : Keeps s0 s) :
    Keeps s0 (leaveMsg f m s) := by
  unfold leaveMsg
  try dsimp only
  repeat' first | with_reducible assumption | with_reducible apply keeps_setFold | with_reducible apply keeps_sendDown
                | with_reducible apply keeps_refuseMsg | with_reducible apply keeps_holdTree
                | with_reducible apply keeps_raiseFold | with_reducible apply keeps_sendFlit
                | refine keeps_landTree _ _ _ _ _ _ ?_ (by assumption) | split

theorem keeps_flushMsgs {s0 : State} (f : Nat) (s : State) (k0 : Keeps s0 s) : Keeps s0 (flushMsgs f s) := by
  unfold flushMsgs
  have go : ∀ (l : List OutMsg) (a : State × List Nat), Keeps s0 a.1 →
      Keeps s0 (l.foldl (fun (a : State × List Nat) m =>
        if !((s.fold f).cent m.ch).rem || a.2.contains m.ch || verdictFaulted f s then a
        else if m.ready && (s.fold f).mx.vOpen.all fun i => decide (m.hold ≤ i) then (leaveMsg f m a.1, a.2)
        else (a.1, m.ch :: a.2)) a).1 := by
    intro l
    induction l with
    | nil => exact fun a k => k
    | cons m l ih =>
      intro a k
      rw [List.foldl_cons]
      apply ih
      repeat' first | with_reducible assumption | with_reducible apply keeps_leaveMsg | split
  exact go _ _ k0

theorem keeps_returnCredit {s0 : State} (f : Nat) (b : Binding) (s : State) (k0 : Keeps s0 s) :
    Keeps s0 (returnCredit f b s) := by
  unfold returnCredit
  try dsimp only
  repeat' first | with_reducible assumption | with_reducible apply keeps_treeCredit | with_reducible apply keeps_sendFlit
                | with_reducible apply keeps_onFold | split | (refine Keeps.mk ?_; dsimp only; refine Keeps.v ?_)

theorem keeps_releaseHead {s0 : State} (f q : Nat) (s : State) (k0 : Keeps s0 s) :
    Keeps s0 (releaseHead f q s) := by
  unfold releaseHead
  try dsimp only
  repeat' first | with_reducible assumption | with_reducible apply keeps_onFold | with_reducible apply keeps_returnCredit
                | split

theorem keeps_landSendLine {s0 : State} (f : Nat) (d : Due) (seq src j : Nat) (s : State) (k0 : Keeps s0 s) :
    Keeps s0 (landSendLine f d seq src j s) := by
  unfold landSendLine
  try dsimp only
  repeat' first | with_reducible assumption | with_reducible apply keeps_spTouch | with_reducible apply keeps_onFold
                | with_reducible apply keeps_later | split

theorem keeps_landSendOut {s0 : State} (f seq : Nat) (s : State) (k0 : Keeps s0 s) :
    Keeps s0 (landSendOut f seq s) := by
  unfold landSendOut
  try dsimp only
  repeat' first | with_reducible assumption | with_reducible apply keeps_flushMsgs | with_reducible apply keeps_onFold
                | split

theorem keeps_glean {s0 : State} (s : State) (k0 : Keeps s0 s) :
    Keeps s0 (s.glean) := ⟨k0.v⟩
theorem keeps_addGlobal {s0 : State} (g inc : Nat) (last : Option Nat) (r : Nat → FaultRep) (s : State) (k0 : Keeps s0 s) :
    Keeps s0 (addGlobal g inc last r s) := by
  unfold addGlobal
  try dsimp only
  repeat' first | with_reducible assumption | with_reducible apply keeps_raise | split
                | (refine Keeps.mk ?_; dsimp only; refine Keeps.v ?_)

theorem keeps_sendGroup {s0 : State} (g inc p : Nat) (s : State) (k0 : Keeps s0 s) :
    Keeps s0 (sendGroup g inc p s) := by
  unfold sendGroup
  try dsimp only
  repeat' first | with_reducible assumption | with_reducible apply keeps_sendDown | with_reducible apply keeps_sendFlit
                | split

theorem keeps_bindGlobal {s0 : State} (f g : Nat) (s : State) (k0 : Keeps s0 s) :
    Keeps s0 (bindGlobal f g s) := ⟨k0.v⟩
theorem keeps_subGlobal {s0 : State} (g n : Nat) (s : State) (k0 : Keeps s0 s) :
    Keeps s0 (subGlobal g n s) := ⟨k0.v⟩
theorem keeps_dropPn {s0 : State} (src f : Nat) (s : State) (k0 : Keeps s0 s) :
    Keeps s0 (dropPn src f s) := ⟨k0.v⟩
theorem keeps_takePns {s0 : State} (f pn : Nat) (l : List FoldId) (s : State) (k0 : Keeps s0 s) {t : State}
    {r : List (Nat × Nat × PnMsg)} (e : takePns f pn l s = some (t, r)) : Keeps s0 t := by
  induction l generalizing s r with
  | nil => cases e; exact k0
  | cons g l ih =>
    unfold takePns at e
    split at e
    · cases e
    · split at e
      · cases e
      · next h => cases e; exact ih _ (keeps_dropPn _ _ _ k0) h

theorem keeps_pnReaching {s0 : State} (s : State) (f : Nat) (srcs : List FoldId) (k0 : Keeps s0 s) :
    Keeps s0 (s.pnReaching f srcs) := by
  unfold State.pnReaching
  try dsimp only
  repeat' first | with_reducible assumption | with_reducible apply keeps_setFold | split

theorem keeps_refuseLocal {s0 : State} (g : Nat) (m : OutMsg) (e : CEnt) (s : State) (k0 : Keeps s0 s) :
    Keeps s0 (refuseLocal g m e s) := by
  unfold refuseLocal
  try dsimp only
  repeat' first | with_reducible assumption | with_reducible apply keeps_raiseFold | split

theorem keeps_reachHere {s0 : State} (f g c : Nat) (s : State) (k0 : Keeps s0 s) :
    Keeps s0 (reachHere f g c s) := by
  unfold reachHere
  try dsimp only
  repeat' first | with_reducible assumption | with_reducible apply keeps_refuseLocal | with_reducible apply keeps_setFold
                | with_reducible apply keeps_onFold | split

theorem keeps_reachRig {s0 : State} (f : Nat) (h : FlitIn) (m : NetMsg) (s : State) (k0 : Keeps s0 s) :
    Keeps s0 (reachRig f h m s) := by
  unfold reachRig
  try dsimp only
  repeat' first | with_reducible assumption | with_reducible apply keeps_discard | with_reducible apply keeps_refuseMsg
                | refine (keeps_acceptFlit _ _ _ _ ?_).v _ (by assumption)
                | refine keeps_arrive _ _ _ _ _ _ _ _ ?_ (by assumption) | (with_reducible refine Keeps.foldl ?_ ?_)
                | (intro _ _ _) | split | (refine Keeps.mk ?_; dsimp only; refine Keeps.v ?_)

theorem keeps_settleSender {s0 : State} (m : InMsg) (s : State) (k0 : Keeps s0 s) :
    Keeps s0 (settleSender m s) := by
  unfold settleSender
  try dsimp only
  repeat' first | with_reducible assumption | with_reducible apply keeps_onFold | split

theorem keeps_refuseLanded {s0 : State} (f : Nat) (m : InMsg) (s : State) (k0 : Keeps s0 s) :
    Keeps s0 (refuseLanded f m s) := by
  unfold refuseLanded
  try dsimp only
  repeat' first | with_reducible assumption | with_reducible apply keeps_refuseMsg
                | with_reducible apply keeps_refuseLocal | with_reducible apply keeps_onFold | split

theorem keeps_compareMsg {s0 : State} (f : Nat) (m : InMsg) (crcOk : Bool) (s : State) (k0 : Keeps s0 s) :
    Keeps s0 (compareMsg f m crcOk s) := by
  unfold compareMsg
  try dsimp only
  repeat' first | with_reducible assumption | with_reducible apply keeps_tallyFault | with_reducible apply keeps_used
                | with_reducible apply keeps_raiseFold | with_reducible apply keeps_checkCount
                | with_reducible apply keeps_settleSender | with_reducible apply keeps_onFold | split

theorem keeps_arriveLanded {s0 : State} (f q : Nat) (crcOk : Bool) (s : State) (k0 : Keeps s0 s) :
    Keeps s0 (arriveLanded f q crcOk s) := by
  unfold arriveLanded
  try dsimp only
  repeat' first | with_reducible assumption | with_reducible apply keeps_onFold | with_reducible apply keeps_refuseLanded
                | with_reducible apply keeps_compareMsg | split

theorem keeps_creditTo {s0 : State} (f c : Nat) (s : State) (k0 : Keeps s0 s) :
    Keeps s0 (creditTo f c s) := ⟨k0.v⟩
theorem keeps_revokeTo {s0 : State} (f c : Nat) (s : State) (k0 : Keeps s0 s) :
    Keeps s0 (revokeTo f c s) := ⟨k0.v⟩
theorem keeps_tallyExpires {s0 : State} (f : Nat) (h : TallyHold) (s : State) (k0 : Keeps s0 s) :
    Keeps s0 (tallyExpires f h s) := by
  unfold tallyExpires
  try dsimp only
  repeat' first | with_reducible assumption | with_reducible apply keeps_onFold | with_reducible apply keeps_raise
                | with_reducible apply keeps_raiseFold | split

/-! ### Matrix -/

theorem keeps_touchSpan {s0 : State} (f : Nat) (d : Due) (t n r : Nat) (s : State) (k0 : Keeps s0 s) :
    Keeps s0 (touchSpan f d t n r s) := by
  unfold touchSpan
  try dsimp only
  repeat' first | with_reducible assumption | with_reducible apply keeps_touchRow
                | (with_reducible refine Keeps.foldl ?_ ?_) | (intro _ _ _) | split

theorem keeps_landLdw {s0 : State} (f : Nat) (d : Due) (l : LdwRec) (q : Nat) (got : List (List MX × List Nat × List
    Bool)) (s : State) (k0 : Keeps s0 s) :
    Keeps s0 (landLdw f d l q got s) := by
  unfold landLdw
  try dsimp only
  repeat' first | with_reducible assumption | with_reducible apply keeps_readPort | with_reducible apply keeps_touchSpan
                | with_reducible apply keeps_later | split

theorem keeps_landLdwDone {s0 : State} (f : Nat) (l : LdwRec) (got : List (List MX × List Nat × List Bool)) (s :
    State) (k0 : Keeps s0 s) :
    Keeps s0 (landLdwDone f l got s) := ⟨k0.v⟩
theorem keeps_issueRun {s0 : State} (f : Nat) (os : Bool) (c : Cls) (o : MmRun) (s : State) (x : Fold) (k0 : Keeps s0 s) :
    Keeps s0 (issueRun f os c o s x) := by
  unfold issueRun
  try dsimp only
  repeat' first | with_reducible assumption | with_reducible apply keeps_powerCheck | with_reducible apply keeps_setFold
                | split

theorem keeps_landRun {s0 : State} (f : Nat) (d : Due) (r : RunRec) (i : Nat) (s : State) (k0 : Keeps s0 s) :
    Keeps s0 (landRun f d r i s) := by
  unfold landRun
  try dsimp only
  repeat' first | with_reducible assumption | with_reducible apply keeps_readPort | with_reducible apply keeps_touchSpan
                | with_reducible apply keeps_touchRow | with_reducible apply keeps_onFold
                | with_reducible apply keeps_later | split

theorem keeps_landStep {s0 : State} (f : Nat) (d : Due) (t : StepRec) (s : State) (k0 : Keeps s0 s) :
    Keeps s0 (landStep f d t s) := by
  unfold landStep
  try dsimp only
  repeat' first | with_reducible assumption | with_reducible apply keeps_later | with_reducible apply keeps_setFold
                | split

theorem keeps_landZero {s0 : State} (f arrs b : Nat) (s : State) (k0 : Keeps s0 s) :
    Keeps s0 (landZero f arrs b s) := ⟨k0.v⟩
theorem keeps_convCheck {s0 : State} (f : Nat) (d : DrainRec) (row : Nat) (s : State) (k0 : Keeps s0 s) :
    Keeps s0 (convCheck f d row s) := by
  unfold convCheck
  try dsimp only
  repeat' first | with_reducible assumption | with_reducible apply keeps_raiseFold | with_reducible apply keeps_checkCount
                | split

theorem keeps_landDrain {s0 : State} (f : Nat) (due : Due) (d : DrainRec) (i : Nat) (s : State) (k0 : Keeps s0 s) :
    Keeps s0 (landDrain f due d i s) := by
  unfold landDrain
  try dsimp only
  repeat' first | with_reducible assumption | with_reducible apply keeps_convCheck | with_reducible apply keeps_later
                | with_reducible apply keeps_onFold | split

theorem keeps_countVerdict {s0 : State} (f : Nat) (v : PendVerdict) (p : Nat) (k : VKind × Nat) (s : State) (k0 :
    Keeps s0 s) :
    Keeps s0 (countVerdict f v p k s) := by
  unfold countVerdict
  try dsimp only
  repeat' first | with_reducible assumption | with_reducible apply keeps_trAt | with_reducible apply keeps_checkCount
                | with_reducible apply keeps_onJob | with_reducible apply keeps_raiseAt | split

theorem keeps_deliver {s0 : State} (f : Nat) (v : PendVerdict) (s : State) (k0 : Keeps s0 s) :
    Keeps s0 (deliver f v s) := by
  unfold deliver
  try dsimp only
  repeat' first | with_reducible assumption | with_reducible apply keeps_countVerdict | with_reducible apply keeps_onFold
                | (with_reducible refine Keeps.foldl ?_ ?_) | (intro _ _ _) | split

/-! ### Vector -/

theorem keeps_touchVec {s0 : State} (f : Nat) (d : Due) (keys : List Nat) (s : State) (k0 : Keeps s0 s) :
    Keeps s0 (touchVec f d keys s) := by
  unfold touchVec
  try dsimp only
  repeat' first | with_reducible assumption | with_reducible apply keeps_raiseFold
                | (with_reducible refine Keeps.foldl ?_ ?_) | (intro _ _ _) | split

theorem keeps_landVecWrite {s0 : State} (f : Nat) (ws : List (Nat × Word)) (low : Option (Nat × BitVec 16)) (s :
    State) (k0 : Keeps s0 s) :
    Keeps s0 (landVecWrite f ws low s) := ⟨k0.v⟩
theorem keeps_issueVx {s0 : State} (op : VxOp) (i : Instr) (f : FoldId) (o : Vx) (s : State) (k0 : Keeps s0 s) :
    Keeps s0 (issueVx op i f o s) := by
  unfold issueVx
  try dsimp only
  repeat' first | with_reducible assumption | with_reducible apply keeps_slotIssue | with_reducible apply keeps_setFold
                | (with_reducible refine Keeps.foldl ?_ ?_) | (intro _ _ _) | split

theorem keeps_pairedCheck {s0 : State} (f : Nat) (d : Due) (paired : Bool) (lo n : Nat) (s : State) (k0 : Keeps s0 s) :
    Keeps s0 (pairedCheck f d paired lo n s) := by
  unfold pairedCheck
  try dsimp only
  repeat' first | with_reducible assumption | with_reducible apply keeps_raiseFold | with_reducible apply keeps_checkCount
                | with_reducible apply keeps_onFold | split

theorem keeps_landVx {s0 : State} (f : Nat) (d : Due) (op : VxOp) (o : Vx) (paired : Bool) (g : Nat) (s : State) (k0 :
    Keeps s0 s) :
    Keeps s0 (landVx f d op o paired g s) := by
  unfold landVx
  try dsimp only
  repeat' first | with_reducible assumption | with_reducible apply keeps_touchVec | with_reducible apply keeps_pairedCheck
                | with_reducible apply keeps_later | split

theorem keeps_issueRow {s0 : State} (op : VxRow) (i : Instr) (f : FoldId) (o : Vx) (s : State) (k0 : Keeps s0 s) :
    Keeps s0 (issueRow op i f o s) := by
  unfold issueRow
  try dsimp only
  repeat' first | with_reducible assumption | with_reducible apply keeps_slotIssue | with_reducible apply keeps_setFold
                | (with_reducible refine Keeps.foldl ?_ ?_) | (intro _ _ _) | split

theorem keeps_landRow {s0 : State} (f : Nat) (d : Due) (op : VxRow) (o : Vx) (paired : Bool) (g : Nat) (c : Word) (got
    : List Word) (s : State) (k0 : Keeps s0 s) :
    Keeps s0 (landRow f d op o paired g c got s) := by
  unfold landRow
  try dsimp only
  repeat' first | with_reducible assumption | with_reducible apply keeps_touchVec | with_reducible apply keeps_later
                | with_reducible apply keeps_pairedCheck | split

theorem keeps_landVld {s0 : State} (f : Nat) (d : Due) (o : VxMem) (stride : Int) (base g : Nat) (s : State) (k0 :
    Keeps s0 s) :
    Keeps s0 (landVld f d o stride base g s) := by
  unfold landVld
  try dsimp only
  repeat' first | with_reducible assumption | with_reducible apply keeps_spTouch | with_reducible apply keeps_later
                | (with_reducible refine Keeps.foldl ?_ ?_) | (intro _ _ _) | split

theorem keeps_landVst {s0 : State} (f : Nat) (d : Due) (o : VxMem) (stride : Int) (g : Nat) (s : State) (k0 : Keeps s0 s) :
    Keeps s0 (landVst f d o stride g s) := by
  unfold landVst
  try dsimp only
  repeat' first | with_reducible assumption | with_reducible apply keeps_touchVec | with_reducible apply keeps_later
                | split

theorem keeps_landRelease {s0 : State} (f q baddr : Nat) (d : Due) (s : State) (k0 : Keeps s0 s) :
    Keeps s0 (landRelease f q baddr d s) := by
  unfold landRelease
  try dsimp only
  repeat' first | with_reducible assumption | with_reducible apply keeps_onFold | with_reducible apply keeps_releaseHead
                | with_reducible apply keeps_raiseFold | split

/-! ### Due -/

theorem keeps_landOp {s0 : State} (f : Nat) (d : Due) (s : State) (k0 : Keeps s0 s) :
    Keeps s0 (landOp f d s) := by
  unfold landOp
  try dsimp only
  repeat' first | with_reducible assumption | with_reducible apply keeps_landCfg | with_reducible apply keeps_landRel
                | with_reducible apply keeps_landSset | with_reducible apply keeps_landZero
                | with_reducible apply keeps_onFold | with_reducible apply keeps_landLdt
                | with_reducible apply keeps_landTileRow | with_reducible apply keeps_landStt
                | with_reducible apply keeps_landBankFault | with_reducible apply keeps_landSpWrite
                | with_reducible apply keeps_landLdw | with_reducible apply keeps_landLdwDone
                | with_reducible apply keeps_landRun | with_reducible apply keeps_landStep
                | with_reducible apply keeps_landDrain | with_reducible apply keeps_landVx
                | with_reducible apply keeps_landRow | with_reducible apply keeps_landVld
                | with_reducible apply keeps_landVst | with_reducible apply keeps_landVecWrite
                | with_reducible apply keeps_landSendLine | with_reducible apply keeps_landSendOut
                | with_reducible apply keeps_landRelease | split

theorem keeps_landNow {s0 : State} (n : Nat) (x : Fold) (d : Due) (s : State) (k0 : Keeps s0 s) :
    Keeps s0 (landNow n x d s) := by
  unfold landNow
  try dsimp only
  repeat' first | with_reducible assumption | with_reducible apply keeps_landOp | with_reducible apply keeps_setFold
                | split

/-! ### Shepherd -/

theorem keeps_shStop {s0 : State} (f code detail : Nat) (s : State) (k0 : Keeps s0 s) :
    Keeps s0 (shStop f code detail s) := by
  unfold shStop
  try dsimp only
  repeat' first | with_reducible assumption | with_reducible apply keeps_onFold | with_reducible apply keeps_raiseFold
                | split

theorem keeps_shFault {s0 : State} (f cause : Nat) (s : State) (k0 : Keeps s0 s) :
    Keeps s0 (shFault f cause s) := by
  unfold shFault
  try dsimp only
  repeat' first | with_reducible assumption | with_reducible apply keeps_shStop | split

theorem keeps_shMemFault {s0 : State} (f w : Nat) (s : State) (k0 : Keeps s0 s) :
    Keeps s0 (shMemFault f w s) := by
  unfold shMemFault
  try dsimp only
  repeat' first | with_reducible assumption | with_reducible apply keeps_shStop | split

theorem keeps_shCorrect {s0 : State} (f : Nat) (err : Shepherd → List (Nat × Nat)) (fix : Shepherd → List (Nat × Nat)
    → Shepherd) (ws : List Nat) (s : State) (k0 : Keeps s0 s) :
    Keeps s0 (shCorrect f err fix ws s) := by
  unfold shCorrect
  try dsimp only
  repeat' first | with_reducible assumption | with_reducible apply keeps_logStick | with_reducible apply keeps_setFold
                | split

theorem keeps_shFetch {s0 : State} (f : Nat) (s : State) (k0 : Keeps s0 s) :
    Keeps s0 (shFetch f s) := by
  unfold shFetch
  try dsimp only
  repeat' first | with_reducible assumption | with_reducible apply keeps_shCorrect | split

theorem keeps_shExec {s0 : State} (s : State) (f : FoldId) (i : Instr) (on : Option WaitOn) (act : State → State) (k0
    : Keeps s0 s)
    (hf : ∀ t, Keeps s0 t → Keeps s0 (act t)) : Keeps s0 (shExec s f i on act) := by
  unfold shExec
  dsimp only
  repeat' first | with_reducible assumption | with_reducible apply hf | with_reducible apply keeps_shFetch
                | with_reducible apply keeps_shMemFault | split

theorem keeps_shDo {s0 : State} (f : FoldId) (g : Shepherd → Shepherd) (s : State) (k0 : Keeps s0 s) :
    Keeps s0 (shDo f g s) := ⟨k0.v⟩
theorem keeps_shAlu {s0 : State} (s : State) (f : FoldId) (i : Instr) (ds : BitVec 5) (v : Shepherd → Word) (k0 :
    Keeps s0 s) :
    Keeps s0 (shAlu s f i ds v) := by
  unfold shAlu
  try dsimp only
  repeat' first | with_reducible assumption | with_reducible apply keeps_shDo
                | refine keeps_shExec _ _ _ _ _ ?_ (fun _ _ => ?_) | split

theorem keeps_shGoto {s0 : State} (f : Nat) (target : Int) (g : Shepherd → Shepherd) (s : State) (k0 : Keeps s0 s) :
    Keeps s0 (shGoto f target g s) := by
  unfold shGoto
  try dsimp only
  repeat' first | with_reducible assumption | with_reducible apply keeps_shFault | with_reducible apply keeps_onFold
                | split

theorem keeps_shBranch {s0 : State} (s : State) (f : FoldId) (i : Instr) (off : BitVec 15) (taken : Shepherd → Bool)
    (k0 : Keeps s0 s) :
    Keeps s0 (shBranch s f i off taken) := by
  unfold shBranch
  try dsimp only
  repeat' first | with_reducible assumption | with_reducible apply keeps_shGoto | with_reducible apply keeps_shDo
                | refine keeps_shExec _ _ _ _ _ ?_ (fun _ _ => ?_) | split

theorem keeps_shData {s0 : State} (f a n : Nat) (s : State) (k0 : Keeps s0 s) :
    Keeps s0 (shData f a n s) := by
  unfold shData
  try dsimp only
  repeat' first | with_reducible assumption | with_reducible apply keeps_shCorrect | split

theorem keeps_shLoad {s0 : State} (s : State) (f : FoldId) (i : Instr) (n : Nat) (ds sa : BitVec 5) (imm : BitVec 15)
    (ext : Nat → Word) (k0 : Keeps s0 s) :
    Keeps s0 (shLoad s f i n ds sa imm ext) := by
  unfold shLoad
  try dsimp only
  repeat' first | with_reducible assumption | with_reducible apply keeps_shFault | with_reducible apply keeps_shMemFault
                | with_reducible apply keeps_shDo | with_reducible apply keeps_shData
                | refine keeps_shExec _ _ _ _ _ ?_ (fun _ _ => ?_) | split

theorem keeps_shStore {s0 : State} (s : State) (f : FoldId) (i : Instr) (n : Nat) (sa sb : BitVec 5) (off : BitVec 15)
    (k0 : Keeps s0 s) :
    Keeps s0 (shStore s f i n sa sb off) := by
  unfold shStore
  try dsimp only
  repeat' first | with_reducible assumption | with_reducible apply keeps_shFault | with_reducible apply keeps_shMemFault
                | with_reducible apply keeps_shDo | with_reducible apply keeps_shData
                | refine keeps_shExec _ _ _ _ _ ?_ (fun _ _ => ?_) | split

theorem keeps_shRequest {s0 : State} (s : State) (f : FoldId) (i : Instr) (store : Bool) (ds sa : BitVec 5) (imm :
    BitVec 15) (data : Shepherd → Word) (k0 : Keeps s0 s) :
    Keeps s0 (shRequest s f i store ds sa imm data) := by
  unfold shRequest
  try dsimp only
  repeat' first | with_reducible assumption | with_reducible apply keeps_shFault | with_reducible apply keeps_shDo
                | refine keeps_shExec _ _ _ _ _ ?_ (fun _ _ => ?_) | split

theorem keeps_shWait {s0 : State} (f : Nat) (on : WaitOn) (s : State) (k0 : Keeps s0 s) :
    Keeps s0 (shWait f on s) := ⟨k0.v⟩

end Sys2Proof.Machine
end

