-- ==== Sys2Proof/Laws/KeepMemory.lean ====
section
/-! SUPPORT. What Keeps.lean says, of the ports, the translations, the drover and the mast. -/
namespace Sys2Proof.Machine

/-! ### Memory -/

theorem keeps_newFrames {s0 : State} (split : Nat × Nat × Nat) (s : State) (k0 : Keeps s0 s) :
    Keeps s0 (State.newFrames split s) := ⟨k0.v⟩
theorem keeps_setPort {s0 : State} (s : State) (p : Nat) (x : Port) (k0 : Keeps s0 s) :
    Keeps s0 (s.setPort p x) := ⟨k0.v⟩
theorem keeps_ask {s0 : State} (c : MemCls) (r : Req) (s : State) (k0 : Keeps s0 s) :
    Keeps s0 (State.ask c r s) := ⟨k0.v⟩
theorem keeps_dropReqs {s0 : State} (drop : ReqFor → Bool) (s : State) (k0 : Keeps s0 s) :
    Keeps s0 (State.dropReqs drop s) := ⟨k0.v⟩
theorem keeps_askDev {s0 : State} (r : Req) (s : State) (k0 : Keeps s0 s) :
    Keeps s0 (State.askDev r s) := ⟨k0.v⟩
theorem keeps_writeFor {s0 : State} (k : DevKey) (a : Nat) (l : List Byte) (s : State) (k0 : Keeps s0 s) :
    Keeps s0 (State.writeFor k a l s) := by
  unfold State.writeFor
  try dsimp only
  repeat' first | with_reducible assumption | with_reducible apply keeps_State_writeHost
                | with_reducible apply keeps_askDev | (with_reducible refine Keeps.foldl ?_ ?_) | (intro _ _ _) | split

theorem keeps_writeOut {s0 : State} (s : State) (a : Nat) (l : List Byte) (k0 : Keeps s0 s) :
    Keeps s0 (s.writeOut a l) := by
  unfold State.writeOut
  try dsimp only
  repeat' first | with_reducible assumption | with_reducible apply keeps_writeFor | split

theorem keeps_dropDevRead {s0 : State} (s : State) (k : DevKey) (k0 : Keeps s0 s) :
    Keeps s0 (s.dropDevRead k) := ⟨k0.v⟩
theorem keeps_readFor {s0 : State} (k : DevKey) (ranges : List (Nat × Nat)) (s : State) (k0 : Keeps s0 s) :
    Keeps s0 (State.readFor k ranges s) := by
  unfold State.readFor
  try dsimp only
  repeat' first | with_reducible assumption | with_reducible apply keeps_askDev
                | (with_reducible refine Keeps.foldl ?_ ?_) | (intro _ _ _) | split
                | (refine Keeps.mk ?_; dsimp only; refine Keeps.v ?_)

theorem keeps_onDevRead {s0 : State} (k : DevKey) (g : DevRead → DevRead) (s : State) (k0 : Keeps s0 s) :
    Keeps s0 (State.onDevRead k g s) := ⟨k0.v⟩
theorem keeps_askSrc {s0 : State} (who : ReqFor) (one : Bool) (x : Src) (s : State) (k0 : Keeps s0 s) {y : Src} {t : State}
    (e : askSrc who one x s = .ok (y, t)) : Keeps s0 t := by
  unfold askSrc at e
  dsimp only at e
  split at e
  · cases e
  · cases e; exact Keeps.foldl k0 fun u r k => keeps_ask _ _ _ k

theorem keeps_descFault {s0 : State} (f die : Nat) (d : Desc) (code engine detail : Nat) (s : State) (k0 : Keeps s0 s) :
    Keeps s0 (descFault f die d code engine detail s) := by
  unfold descFault
  try dsimp only
  repeat' first | with_reducible assumption | with_reducible apply keeps_tr | with_reducible apply keeps_raise | split

theorem keeps_memCorrected {s0 : State} (p : Nat) (s : State) (k0 : Keeps s0 s) :
    Keeps s0 (memCorrected p s) := by
  unfold memCorrected
  try dsimp only
  repeat' first | with_reducible assumption | with_reducible apply keeps_logStick | with_reducible apply keeps_setPort
                | with_reducible apply keeps_setStatus | split | (refine Keeps.mk ?_; dsimp only; refine Keeps.v ?_)

theorem keeps_setDetail {s0 : State} (d : Nat) (s : State) (k0 : Keeps s0 s) :
    Keeps s0 (State.setDetail d s) := ⟨k0.v⟩
theorem keeps_memUncorrectable {s0 : State} (p addr : Nat) (s : State) (k0 : Keeps s0 s) :
    Keeps s0 (memUncorrectable p addr s) := by
  unfold memUncorrectable
  try dsimp only
  repeat' first | with_reducible assumption | with_reducible apply keeps_logWith | with_reducible apply keeps_setStatus
                | with_reducible apply keeps_logStick | split | (refine Keeps.mk ?_; dsimp only; refine Keeps.v ?_)

theorem keeps_setMark {s0 : State} (s : State) (a : Nat) (m : LineMark) (k0 : Keeps s0 s) :
    Keeps s0 (s.setMark a m) := ⟨k0.v⟩
theorem keeps_strike {s0 : State} (first n : Nat) (errs : List LineErr) (s : State) (k0 : Keeps s0 s) :
    Keeps s0 (State.strike first n errs s) := by
  unfold State.strike
  try dsimp only
  repeat' first | with_reducible assumption | with_reducible apply keeps_setMark
                | (with_reducible refine Keeps.foldl ?_ ?_) | (intro _ _ _) | split

theorem keeps_checkLines {s0 : State} (p : Nat) (l : List (Nat × List Byte × LineMark)) (s : State) (k0 : Keeps s0 s) :
    Keeps s0 (checkLines p l s).1 := by
  induction l generalizing s with
  | nil => exact k0
  | cons e l ih =>
    obtain ⟨a, b, m⟩ := e
    unfold checkLines
    dsimp only
    apply ih
    repeat' first | with_reducible assumption | with_reducible apply keeps_memCorrected
                  | with_reducible apply keeps_memUncorrectable | with_reducible apply keeps_used | split

theorem keeps_freshMarks {s0 : State} (s : State) (a n : Nat) (k0 : Keeps s0 s) :
    Keeps s0 (s.freshMarks a n) := by
  unfold State.freshMarks
  try dsimp only
  repeat' first | with_reducible assumption | split | (refine Keeps.mk ?_; dsimp only; refine Keeps.v ?_)

theorem keeps_feedXfer {s0 : State} (f t off : Nat) (bytes : List Byte) (s : State) (k0 : Keeps s0 s) :
    Keeps s0 (feedXfer f t off bytes s) := by
  unfold feedXfer
  try dsimp only
  repeat' first | with_reducible assumption | with_reducible apply keeps_descFault | with_reducible apply keeps_onFold
                | refine keeps_askSrc _ _ _ _ ?_ (by assumption) | split

theorem keeps_feedStream {s0 : State} (die id off : Nat) (bytes : List Byte) (s : State) (k0 : Keeps s0 s) :
    Keeps s0 (feedStream die id off bytes s) := by
  unfold feedStream
  try dsimp only
  repeat' first | with_reducible assumption | with_reducible apply keeps_descFault
                | refine keeps_askSrc _ _ _ _ ?_ (by assumption) | split
                | (refine Keeps.mk ?_; dsimp only; refine Keeps.v ?_)

theorem keeps_setStage {s0 : State} (s : State) (k : Nat) (g : Option Stage) (k0 : Keeps s0 s) :
    Keeps s0 (s.setStage k g) := ⟨k0.v⟩
theorem keeps_dropStage {s0 : State} (k : Nat) (s : State) (k0 : Keeps s0 s) :
    Keeps s0 (dropStage k s) := by
  unfold dropStage
  try dsimp only
  repeat' first | with_reducible assumption | with_reducible apply keeps_setStage | with_reducible apply keeps_logStick
                | split | (refine Keeps.mk ?_; dsimp only; refine Keeps.v ?_)

theorem keeps_failStage {s0 : State} (k : Nat) (s : State) (k0 : Keeps s0 s) :
    Keeps s0 (failStage k s) := by
  unfold failStage
  try dsimp only
  repeat' first | with_reducible assumption | with_reducible apply keeps_setStage | split

theorem keeps_feedStage {s0 : State} (die block gen off : Nat) (bytes : List Byte) (s : State) (k0 : Keeps s0 s) :
    Keeps s0 (feedStage die block gen off bytes s) := by
  unfold feedStage
  try dsimp only
  repeat' first | with_reducible assumption | with_reducible apply keeps_failStage | with_reducible apply keeps_setStage
                | refine keeps_askSrc _ _ _ _ ?_ (by assumption) | split

theorem keeps_sendServe {s0 : State} (v : Serve) (s : State) (k0 : Keeps s0 s) :
    Keeps s0 (sendServe v s) := by
  unfold sendServe
  try dsimp only
  repeat' first | with_reducible assumption | with_reducible apply keeps_sendFlit
                | with_reducible apply keeps_bumpSendTally | split | (refine Keeps.mk ?_; dsimp only; refine Keeps.v ?_)

theorem keeps_feedServe {s0 : State} (node fold req off : Nat) (bytes : List Byte) (s : State) (k0 : Keeps s0 s) :
    Keeps s0 (feedServe node fold req off bytes s) := by
  unfold feedServe
  try dsimp only
  repeat' first | with_reducible assumption | with_reducible apply keeps_sendServe | split

theorem keeps_listFault {s0 : State} (f dl : Nat) (d : Desc) (code die engine detail : Nat) (s : State) (k0 : Keeps s0 s) :
    Keeps s0 (listFault f dl d code die engine detail s) := by
  unfold listFault
  try dsimp only
  repeat' first | with_reducible assumption | with_reducible apply keeps_onFold | with_reducible apply keeps_descFault
                | split

theorem keeps_takeBurst {s0 : State} (f dl : Nat) (l : List Byte) (s : State) (k0 : Keeps s0 s) :
    Keeps s0 (takeBurst f dl l s) := ⟨k0.v⟩
theorem keeps_feedBurst {s0 : State} (f dl addr : Nat) (bytes : List Byte) (s : State) (k0 : Keeps s0 s) :
    Keeps s0 (feedBurst f dl addr bytes s) := by
  unfold feedBurst
  try dsimp only
  repeat' first | with_reducible assumption | with_reducible apply keeps_takeBurst | split

theorem keeps_feed {s0 : State} (r : Req) (bytes : List Byte) (s : State) (k0 : Keeps s0 s) :
    Keeps s0 (feed r bytes s) := by
  unfold feed
  try dsimp only
  repeat' first | with_reducible assumption | with_reducible apply keeps_feedXfer | with_reducible apply keeps_feedStream
                | with_reducible apply keeps_feedStage | with_reducible apply keeps_feedBurst
                | with_reducible apply keeps_onDevRead | with_reducible apply keeps_feedServe | split
                | (refine Keeps.mk ?_; dsimp only; refine Keeps.v ?_)

theorem keeps_feedBad {s0 : State} (p addr : Nat) (r : Req) (s : State) (k0 : Keeps s0 s) :
    Keeps s0 (feedBad p addr r s) := by
  unfold feedBad
  try dsimp only
  repeat' first | with_reducible assumption | with_reducible apply keeps_descFault | with_reducible apply keeps_failStage
                | with_reducible apply keeps_listFault | with_reducible apply keeps_onDevRead | split
                | (refine Keeps.mk ?_; dsimp only; refine Keeps.v ?_)

theorem keeps_dropTouched {s0 : State} (addr : Nat) (s : State) (k0 : Keeps s0 s) :
    Keeps s0 (dropTouched addr s) := by
  unfold dropTouched
  try dsimp only
  repeat' first | with_reducible assumption | with_reducible apply keeps_dropStage
                | (with_reducible refine Keeps.foldl ?_ ?_) | (intro _ _ _) | split

theorem keeps_unfix {s0 : State} (s : State) (a n : Nat) (k0 : Keeps s0 s) :
    Keeps s0 (s.unfix a n) := by
  unfold State.unfix
  try dsimp only
  repeat' first | with_reducible assumption | with_reducible apply keeps_setPort | split

theorem keeps_store {s0 : State} (a : Nat) (l : List Byte) (s : State) (k0 : Keeps s0 s) :
    Keeps s0 (State.store a l s) := by
  unfold State.store
  try dsimp only
  repeat' first | with_reducible assumption | with_reducible apply keeps_unfix | with_reducible apply keeps_freshMarks
                | with_reducible apply keeps_dropTouched | with_reducible apply keeps_pokeMem | split

theorem keeps_writePiece {s0 : State} (s : State) (a : Nat) (l : List Byte) (k0 : Keeps s0 s) :
    Keeps s0 (s.writePiece a l) := by
  unfold State.writePiece
  try dsimp only
  repeat' first | with_reducible assumption | with_reducible apply keeps_store | split
                | (refine Keeps.mk ?_; dsimp only; refine Keeps.v ?_)

theorem keeps_writeDevFuel {s0 : State} (n : Nat) (s : State) (a : Nat) (l : List Byte) (k0 : Keeps s0 s) :
    Keeps s0 (State.writeDevFuel n s a l) := by
  induction n generalizing s a l with
  | zero => exact k0
  | succ n ih => unfold State.writeDevFuel; split; exact k0; exact ih _ _ _ (keeps_writePiece _ _ _ k0)

theorem keeps_writeDev {s0 : State} (s : State) (a : Nat) (l : List Byte) (k0 : Keeps s0 s) :
    Keeps s0 (s.writeDev a l) := by
  unfold State.writeDev
  try dsimp only
  repeat' first | with_reducible assumption | with_reducible apply keeps_writeDevFuel | split

theorem keeps_wroteLines {s0 : State} (f t n : Nat) (s : State) (k0 : Keeps s0 s) :
    Keeps s0 (wroteLines f t n s) := ⟨k0.v⟩
theorem keeps_performWrite {s0 : State} (r : Req) (s : State) (k0 : Keeps s0 s) :
    Keeps s0 (performWrite r s) := by
  unfold performWrite
  try dsimp only
  repeat' first | with_reducible assumption | with_reducible apply keeps_wroteLines | with_reducible apply keeps_writeDev
                | with_reducible apply keeps_store | with_reducible apply keeps_setMark | split
                | (refine Keeps.mk ?_; dsimp only; refine Keeps.v ?_)

theorem keeps_writeBad {s0 : State} (p addr : Nat) (r : Req) (s : State) (k0 : Keeps s0 s) :
    Keeps s0 (writeBad p addr r s) := by
  unfold writeBad
  try dsimp only
  repeat' first | with_reducible assumption | with_reducible apply keeps_descFault | split

theorem keeps_serveReq {s0 : State} (p : Nat) (e : Req) (errs : List LineErr) (s : State) (k0 : Keeps s0 s) :
    Keeps s0 (serveReq p e errs s) := by
  unfold serveReq
  try dsimp only
  repeat' first | with_reducible assumption | with_reducible apply keeps_strike | with_reducible apply keeps_writeBad
                | with_reducible apply keeps_performWrite | with_reducible apply keeps_setPort
                | with_reducible apply keeps_checkLines | split

theorem keeps_scrubLine {s0 : State} (p : Nat) (r : State × List (Nat × List Byte)) (a : Nat) (k0 : Keeps s0 r.1) :
    Keeps s0 (scrubLine p r a).1 := by
  unfold scrubLine
  exact keeps_checkLines _ _ _ k0

theorem keeps_scrub {s0 : State} (p : Nat) (x : ScrubPart) (errs : List LineErr) (s : State) (k0 : Keeps s0 s) :
    Keeps s0 (scrub p x errs s) := by
  have go : ∀ (l : List Nat) (r : State × List (Nat × List Byte)), Keeps s0 r.1 → Keeps s0 (l.foldl (scrubLine p) r).1 := by
    intro l
    induction l with
    | nil => exact fun r k => k
    | cons m l ih => intro r k; rw [List.foldl_cons]; exact ih _ (keeps_scrubLine _ _ _ k)
  unfold scrub
  dsimp only
  repeat' first | with_reducible assumption | with_reducible apply keeps_setPort | with_reducible apply keeps_strike
                | apply go
                | split | (refine Keeps.mk ?_; dsimp only; refine Keeps.v ?_)

theorem keeps_writeBack {s0 : State} (s : State) (e : Nat × List Byte) (k0 : Keeps s0 s) :
    Keeps s0 (writeBack s e) := by
  unfold writeBack
  try dsimp only
  repeat' first | with_reducible assumption | with_reducible apply keeps_setMark | with_reducible apply keeps_pokeMem
                | split

theorem keeps_failRecord {s0 : State} (p : Nat) (s : State) (k0 : Keeps s0 s) :
    Keeps s0 (failRecord p s) := ⟨k0.v⟩

/-! ### Trans -/

theorem keeps_needPage {s0 : State} (f t a : Nat) (wr : Bool) (s : State) (k0 : Keeps s0 s) :
    Keeps s0 (needPage f t a wr s) := by
  unfold needPage
  try dsimp only
  repeat' first | with_reducible assumption | with_reducible apply keeps_logStick | split
                | (refine Keeps.mk ?_; dsimp only; refine Keeps.v ?_)

theorem keeps_askPages {s0 : State} (slot : Nat) (l : List (Nat × Nat × Bool)) (s : State) (k0 : Keeps s0 s) :
    Keeps s0 (State.askPages slot l s) := by
  unfold State.askPages
  try dsimp only
  repeat' first | with_reducible assumption | with_reducible apply keeps_needPage
                | (with_reducible refine Keeps.foldl ?_ ?_) | (intro _ _ _) | split

theorem keeps_ownAsk {s0 : State} (l : List (Nat × Nat × Bool)) (s : State) (k0 : Keeps s0 s) :
    Keeps s0 (State.ownAsk l s) := by
  unfold State.ownAsk
  try dsimp only
  repeat' first | with_reducible assumption | with_reducible apply keeps_askPages | split

theorem keeps_jobAsk {s0 : State} (l : List (Nat × Nat × Bool)) (s : State) (k0 : Keeps s0 s) :
    Keeps s0 (State.jobAsk l s) := by
  unfold State.jobAsk
  try dsimp only
  repeat' first | with_reducible assumption | with_reducible apply keeps_askPages | split

theorem keeps_pumpRead {s0 : State} (n f t : Nat) (s : State) (k0 : Keeps s0 s) : Keeps s0 (pumpRead n f t s) := by
  induction n generalizing s with
  | zero => exact k0
  | succ n ih =>
    unfold pumpRead
    dsimp only
    repeat' first | with_reducible assumption | with_reducible apply ih | with_reducible apply keeps_onFold
                  | with_reducible apply keeps_needPage | split

theorem keeps_pumpWrite {s0 : State} (n f t : Nat) (s : State) (k0 : Keeps s0 s) : Keeps s0 (pumpWrite n f t s) := by
  induction n generalizing s with
  | zero => exact k0
  | succ n ih =>
    unfold pumpWrite
    dsimp only
    repeat' first | with_reducible assumption | with_reducible apply ih | with_reducible apply keeps_onFold
                  | with_reducible apply keeps_State_writeHost | with_reducible apply keeps_needPage | split

theorem keeps_pump {s0 : State} (f : Nat) (y : Xfer) (s : State) (k0 : Keeps s0 s) :
    Keeps s0 (pump f y s) := by
  unfold pump
  try dsimp only
  repeat' first | with_reducible assumption | with_reducible apply keeps_pumpRead | with_reducible apply keeps_pumpWrite
                | (with_reducible refine Keeps.foldl ?_ ?_) | (intro _ _ _) | split
                | (refine Keeps.mk ?_; dsimp only; refine Keeps.v ?_)

theorem keeps_pumpAll {s0 : State} (s : State) (k0 : Keeps s0 s) :
    Keeps s0 (pumpAll s) := by
  unfold pumpAll
  try dsimp only
  repeat' first | with_reducible assumption | with_reducible apply keeps_pump | (with_reducible refine Keeps.foldl ?_ ?_)
                | (intro _ _ _) | split | (refine Keeps.mk ?_; dsimp only; refine Keeps.v ?_)

theorem keeps_fillEntry {s0 : State} (e : TtEnt) (s : State) (k0 : Keeps s0 s) :
    Keeps s0 (fillEntry e s) := by
  unfold fillEntry
  try dsimp only
  repeat' first | with_reducible assumption | split | (refine Keeps.mk ?_; dsimp only; refine Keeps.v ?_)

/-! ### Drover -/

theorem keeps_takeStart {s0 : State} (f dl : Nat) (d : Desc) (s : State) (k0 : Keeps s0 s) :
    Keeps s0 (takeStart f dl d s) := by
  unfold takeStart
  try dsimp only
  repeat' first | with_reducible assumption | with_reducible apply keeps_onFold | with_reducible apply keeps_tr | split

theorem keeps_startDesc {s0 : State} (s : State) (f dl kind : Nat) (bad : State → Fold → Desc → Option (Nat × Nat × Nat))
    (act : State → Fold → Desc → State) (k0 : Keeps s0 s) (hf : ∀ t x d, Keeps s0 t → Keeps s0 (act t x d)) :
    Keeps s0 (startDesc s f dl kind bad act) := by
  unfold startDesc
  dsimp only
  repeat' first | with_reducible assumption | with_reducible apply keeps_listFault | with_reducible apply hf
                | with_reducible apply keeps_takeStart | split

theorem keeps_emit {s0 : State} (f : Nat) (d : Desc) (s : State) (k0 : Keeps s0 s) :
    Keeps s0 (emit f d s) := by
  unfold emit
  try dsimp only
  repeat' first | with_reducible assumption | with_reducible apply keeps_tr | with_reducible apply keeps_onFold | split

theorem keeps_finish {s0 : State} (f : Nat) (y : Xfer) (s : State) (k0 : Keeps s0 s) :
    Keeps s0 (finish f y s) := by
  unfold finish
  try dsimp only
  repeat' first | with_reducible assumption | with_reducible apply keeps_emit | with_reducible apply keeps_onFold | split

theorem keeps_addXfer {s0 : State} (f : Nat) (y : Xfer) (s : State) (k0 : Keeps s0 s) :
    Keeps s0 (addXfer f y s) := ⟨k0.v⟩
theorem keeps_askPeer {s0 : State} (f : Nat) (y : Xfer) (first : Nat) (s : State) (k0 : Keeps s0 s) :
    Keeps s0 (askPeer f y first s) := by
  unfold askPeer
  try dsimp only
  repeat' first | with_reducible assumption | with_reducible apply keeps_sendFlit
                | with_reducible apply keeps_bumpSendTally | split

theorem keeps_startRead {s0 : State} (f : Nat) (y : Xfer) (s : State) (k0 : Keeps s0 s) :
    Keeps s0 (startRead f y s) := by
  unfold startRead
  try dsimp only
  repeat' first | with_reducible assumption | with_reducible apply keeps_askPeer | with_reducible apply keeps_addXfer
                | with_reducible apply keeps_pumpRead | with_reducible apply keeps_descFault
                | refine keeps_askSrc _ _ _ _ ?_ (by assumption) | split

theorem keeps_serveBank {s0 : State} (f b : Nat) (s : State) (k0 : Keeps s0 s) :
    Keeps s0 (serveBank f b s) := ⟨k0.v⟩
theorem keeps_holdXfer {s0 : State} (f : Nat) (y : Xfer) (s : State) (k0 : Keeps s0 s) :
    Keeps s0 (holdXfer f y s) := ⟨k0.v⟩
theorem keeps_leaveWrite {s0 : State} (f : Nat) (y : Xfer) (s : State) (k0 : Keeps s0 s) :
    Keeps s0 (leaveWrite f y s) := by
  unfold leaveWrite
  try dsimp only
  repeat' first | with_reducible assumption | with_reducible apply keeps_descFault | with_reducible apply keeps_holdXfer
                | with_reducible apply keeps_bumpSendTally | with_reducible apply keeps_sendFlit
                | with_reducible apply keeps_onFold | with_reducible apply keeps_ask
                | (with_reducible refine Keeps.foldl ?_ ?_) | (intro _ _ _) | split

theorem keeps_flushWrites {s0 : State} (f : Nat) (s : State) (k0 : Keeps s0 s) :
    Keeps s0 (flushWrites f s) := by
  unfold flushWrites
  try dsimp only
  repeat' first | with_reducible assumption | with_reducible apply keeps_leaveWrite
                | (with_reducible refine Keeps.foldl ?_ ?_) | (intro _ _ _) | split

theorem keeps_sourced {s0 : State} (f : Nat) (y : Xfer) (s : State) (k0 : Keeps s0 s) :
    Keeps s0 (sourced f y s) := by
  unfold sourced
  try dsimp only
  repeat' first | with_reducible assumption | with_reducible apply keeps_flushWrites
                | with_reducible apply keeps_flushMsgs | with_reducible apply keeps_onFold | split

theorem keeps_readUnit {s0 : State} (f : Nat) (y : Xfer) (i : Nat) (s : State) (k0 : Keeps s0 s) :
    Keeps s0 (readUnit f y i s).1 := by
  unfold readUnit
  dsimp only
  repeat' first | with_reducible assumption | with_reducible apply keeps_raiseFold | with_reducible apply keeps_spTouch
                | split

theorem keeps_tallyBad {s0 : State} (f at_f unit : Nat) (peer : Option (Bool × Nat)) (y : Xfer) (detail : Nat) (s :
    State) (k0 : Keeps s0 s) :
    Keeps s0 (tallyBad f at_f unit peer y detail s) := by
  unfold tallyBad
  try dsimp only
  repeat' first | with_reducible assumption | with_reducible apply keeps_tallyFault | with_reducible apply keeps_holdXfer
                | split

theorem keeps_compareXfer {s0 : State} (f at_f unit : Nat) (peer : Option (Bool × Nat)) (y : Xfer) (crcOk : Bool) (s :
    State) (k0 : Keeps s0 s) :
    Keeps s0 (compareXfer f at_f unit peer y crcOk s) := by
  unfold compareXfer
  try dsimp only
  repeat' first | with_reducible assumption | with_reducible apply keeps_onFold | with_reducible apply keeps_finish
                | with_reducible apply keeps_tallyBad | with_reducible apply keeps_used | split

theorem keeps_refuseWrite {s0 : State} (f : Nat) (y : Xfer) (s : State) (k0 : Keeps s0 s) :
    Keeps s0 (refuseWrite f y s) := by
  unfold refuseWrite
  try dsimp only
  repeat' first | with_reducible assumption | with_reducible apply keeps_used | with_reducible apply keeps_dropReqs
                | with_reducible apply keeps_tallyFault | with_reducible apply keeps_holdXfer | split

theorem keeps_peerBad {s0 : State} (f : Nat) (y : Xfer) (code engine detail : Nat) (s : State) (k0 : Keeps s0 s) :
    Keeps s0 (peerBad f y code engine detail s) := by
  unfold peerBad
  try dsimp only
  repeat' first | with_reducible assumption | with_reducible apply keeps_holdXfer | with_reducible apply keeps_tr
                | with_reducible apply keeps_raise | split

/-! ### Mast -/

theorem keeps_setStream {s0 : State} (s : State) (v : Stream) (k0 : Keeps s0 s) :
    Keeps s0 (s.setStream v) := ⟨k0.v⟩
theorem keeps_dropStream {s0 : State} (s : State) (v : Stream) (k0 : Keeps s0 s) :
    Keeps s0 (s.dropStream v) := ⟨k0.v⟩
theorem keeps_joinTap {s0 : State} (f : Nat) (u : Tap) (v : Stream) (s : State) (k0 : Keeps s0 s) :
    Keeps s0 (joinTap f u v s) := by
  unfold joinTap
  try dsimp only
  repeat' first | with_reducible assumption | with_reducible apply keeps_setFold | with_reducible apply keeps_descFault
                | with_reducible apply keeps_holdXfer | split

theorem keeps_matchTaps {s0 : State} (f : Nat) (s : State) (k0 : Keeps s0 s) :
    Keeps s0 (matchTaps f s) := by
  unfold matchTaps
  try dsimp only
  repeat' first | with_reducible assumption | with_reducible apply keeps_joinTap
                | (with_reducible refine Keeps.foldl ?_ ?_) | (intro _ _ _) | split

theorem keeps_dropTap {s0 : State} (f slot : Nat) (s : State) (k0 : Keeps s0 s) :
    Keeps s0 (dropTap f slot s) := ⟨k0.v⟩
theorem keeps_grantLanes {s0 : State} (die : Nat) (s : State) (k0 : Keeps s0 s) :
    Keeps s0 (grantLanes die s) := by
  unfold grantLanes
  try dsimp only
  repeat' first | with_reducible assumption | with_reducible apply keeps_setStream | with_reducible apply keeps_descFault
                | refine keeps_askSrc _ _ _ _ ?_ (by assumption) | (with_reducible refine Keeps.foldl ?_ ?_)
                | (intro _ _ _) | split

theorem keeps_startStream {s0 : State} (f : Nat) (d : Desc) (msid subs a : Nat) (g : Geom) (go : Bool) (s : State) (k0
    : Keeps s0 s) :
    Keeps s0 (startStream f d msid subs a g go s) := by
  unfold startStream
  try dsimp only
  repeat' first | with_reducible assumption | with_reducible apply keeps_addXfer | with_reducible apply keeps_onJob
                | with_reducible apply keeps_matchTaps | with_reducible apply keeps_grantLanes
                | (with_reducible refine Keeps.foldl ?_ ?_) | (intro _ _ _) | split
                | (refine Keeps.mk ?_; dsimp only; refine Keeps.v ?_)

theorem keeps_tapUnit {s0 : State} (v : Stream) (lines : List (List Byte)) (last : Bool) (g : Nat) (s : State) (k0 :
    Keeps s0 s) :
    Keeps s0 (tapUnit v lines last g s) := by
  unfold tapUnit
  try dsimp only
  repeat' first | with_reducible assumption | with_reducible apply keeps_setFold | split

theorem keeps_countEcc {s0 : State} (e : Ecc) (s : State) (k0 : Keeps s0 s) :
    Keeps s0 (countEcc e s) := ⟨k0.v⟩
theorem keeps_sendUnit {s0 : State} (v : Stream) (s : State) (k0 : Keeps s0 s) :
    Keeps s0 (sendUnit v s) := by
  unfold sendUnit
  try dsimp only
  repeat' first | with_reducible assumption | with_reducible apply keeps_tapUnit | with_reducible apply keeps_grantLanes
                | with_reducible apply keeps_onFold | with_reducible apply keeps_dropStream
                | with_reducible apply keeps_setStream | (with_reducible refine Keeps.foldl ?_ ?_) | (intro _ _ _) | split

theorem keeps_tickStreams {s0 : State} (s : State) (k0 : Keeps s0 s) :
    Keeps s0 (tickStreams s) := by
  unfold tickStreams
  try dsimp only
  repeat' first | with_reducible assumption | split | (refine Keeps.mk ?_; dsimp only; refine Keeps.v ?_)

theorem keeps_requestStage {s0 : State} (prog site slot part expert block a : Nat) (g : Geom) (s : State) (k0 : Keeps
    s0 s) :
    Keeps s0 (requestStage prog site slot part expert block a g s) := by
  unfold requestStage
  try dsimp only
  repeat' first | with_reducible assumption | with_reducible apply keeps_dropStage | with_reducible apply keeps_setStage
                | refine keeps_askSrc _ _ _ _ ?_ (by assumption) | split
                | (refine Keeps.mk ?_; dsimp only; refine Keeps.v ?_)

theorem keeps_dropSite {s0 : State} (prog site : Nat) (s : State) (k0 : Keeps s0 s) :
    Keeps s0 (dropSite prog site s) := by
  unfold dropSite
  try dsimp only
  repeat' first | with_reducible assumption | with_reducible apply keeps_dropStage
                | (with_reducible refine Keeps.foldl ?_ ?_) | (intro _ _ _) | split

theorem keeps_predict {s0 : State} (f : Nat) (d : Desc) (s : State) (k0 : Keeps s0 s) :
    Keeps s0 (predict f d s) := by
  unfold predict
  try dsimp only
  repeat' first | with_reducible assumption | with_reducible apply keeps_dropSite | with_reducible apply keeps_setFold
                | with_reducible apply keeps_requestStage | (with_reducible refine Keeps.foldl ?_ ?_) | (intro _ _ _)
                | split

theorem keeps_nextClaim {s0 : State} (die : Nat) (s : State) (k0 : Keeps s0 s) :
    Keeps s0 (nextClaim die s) := by
  unfold nextClaim
  try dsimp only
  repeat' first | with_reducible assumption | split | (refine Keeps.mk ?_; dsimp only; refine Keeps.v ?_)

theorem keeps_claimMiss {s0 : State} (die : Nat) (v : Stream) (s : State) (k0 : Keeps s0 s) :
    Keeps s0 (claimMiss die v s) := by
  unfold claimMiss
  try dsimp only
  repeat' first | with_reducible assumption | with_reducible apply keeps_logStick | with_reducible apply keeps_grantLanes
                | with_reducible apply keeps_setStream | split | (refine Keeps.mk ?_; dsimp only; refine Keeps.v ?_)

theorem keeps_completeWrite {s0 : State} (f : Nat) (y : Xfer) (r : EndResult) (s : State) (k0 : Keeps s0 s) :
    Keeps s0 (completeWrite f y r s) := by
  unfold completeWrite
  try dsimp only
  repeat' first | with_reducible assumption | with_reducible apply keeps_refuseWrite | with_reducible apply keeps_finish
                | with_reducible apply keeps_pumpWrite | with_reducible apply keeps_onFold | split

theorem keeps_peerFinds {s0 : State} (f : Nat) (y : Xfer) (r : EndResult) (s : State) (k0 : Keeps s0 s) :
    Keeps s0 (peerFinds f y r s) := by
  unfold peerFinds
  try dsimp only
  repeat' first | with_reducible assumption | with_reducible apply keeps_peerBad | split

theorem keeps_clearMast {s0 : State} (s : State) (k0 : Keeps s0 s) :
    Keeps s0 (clearMast s) := by
  unfold clearMast
  try dsimp only
  repeat' first | with_reducible assumption | with_reducible apply keeps_dropStage | with_reducible apply keeps_dropReqs
                | (with_reducible refine Keeps.foldl ?_ ?_) | (intro _ _ _) | split
                | (refine Keeps.mk ?_; dsimp only; refine Keeps.v ?_)

end Sys2Proof.Machine
end

