-- ==== Sys2Proof/Laws/KeepDevice.lean ====
section
/-! SUPPORT. What Keeps.lean says, of reset, power, jobs, records, preemption, abort, host link, lookout and debugger. -/
namespace Sys2Proof.Machine

/-! ### Flags -/

theorem keeps_clearStatus {s0 : State} (path : Nat) (w : BitVec 16) (s : State) (k0 : Keeps s0 s) :
    Keeps s0 (clearStatus path w s) := ⟨k0.v⟩
theorem keeps_noteWarm {s0 : State} (was : Bool) (s : State) (k0 : Keeps s0 s) :
    Keeps s0 (noteWarm was s) := by
  unfold noteWarm
  try dsimp only
  repeat' first | with_reducible assumption | with_reducible apply keeps_setStatus | split

/-! ### Reset -/

theorem keeps_assertReset {s0 : State} (src : Nat) (s : State) (k0 : Keeps s0 s) : Keeps s0 (assertReset src s) := by
  have h := keeps_flushRuns (fun _ => true) s k0
  exact ⟨⟨h.v.pending, fun m => ⟨rfl, (h.v.mem m).2⟩⟩⟩

theorem keeps_takeReset {s0 : State} (src : Nat) (s : State) (k0 : Keeps s0 s) :
    Keeps s0 (takeReset src s) := by
  unfold takeReset
  try dsimp only
  repeat' first | with_reducible assumption | with_reducible apply keeps_assertReset | with_reducible apply keeps_used
                | split | (refine Keeps.mk ?_; dsimp only; refine Keeps.v ?_)

theorem keeps_lowReset {s0 : State} (ns : Nat) (s : State) (k0 : Keeps s0 s) :
    Keeps s0 (lowReset ns s) := ⟨k0.v⟩
theorem keeps_linkGone {s0 : State} (s : State) (k0 : Keeps s0 s) :
    Keeps s0 (linkGone s) := by
  unfold linkGone
  try dsimp only
  repeat' first | with_reducible assumption | with_reducible apply keeps_takeReset | split
                | (refine Keeps.mk ?_; dsimp only; refine Keeps.v ?_)

theorem keeps_releaseLinks {s0 : State} (s : State) (k0 : Keeps s0 s) :
    Keeps s0 (releaseLinks s) := by
  unfold releaseLinks
  try dsimp only
  repeat' first | with_reducible assumption | (with_reducible refine Keeps.foldl ?_ ?_) | (intro _ _ _) | split
                | (refine Keeps.mk ?_; dsimp only; refine Keeps.v ?_)

theorem keeps_fatalOther {s0 : State} (s : State) (k0 : Keeps s0 s) :
    Keeps s0 (fatalOther s) := by
  unfold fatalOther
  try dsimp only
  repeat' first | with_reducible assumption | with_reducible apply keeps_logFree | with_reducible apply keeps_setFatal
                | split

theorem keeps_releaseDies {s0 : State} (s : State) (k0 : Keeps s0 s) :
    Keeps s0 (releaseDies s) := by
  unfold releaseDies
  try dsimp only
  repeat' first | with_reducible assumption | with_reducible apply keeps_releaseLinks
                | with_reducible apply keeps_fatalOther | split | (refine Keeps.mk ?_; dsimp only; refine Keeps.v ?_)

theorem keeps_release {s0 : State} (s : State) (k0 : Keeps s0 s) :
    Keeps s0 (release s) := by
  unfold release
  try dsimp only
  repeat' first | with_reducible assumption | with_reducible apply keeps_releaseDies | split
                | (refine Keeps.mk ?_; dsimp only; refine Keeps.v ?_)

theorem keeps_secEvent {s0 : State} (s : State) (k0 : Keeps s0 s) :
    Keeps s0 (secEvent s) := by
  unfold secEvent
  try dsimp only
  repeat' first | with_reducible assumption | with_reducible apply keeps_logFree | with_reducible apply keeps_setStatus
                | split

theorem keeps_runImage {s0 : State} (slot : Nat) (s : State) (k0 : Keeps s0 s) :
    Keeps s0 (runImage slot s) := by
  unfold runImage
  try dsimp only
  repeat' first | with_reducible assumption | with_reducible apply keeps_secEvent | split
                | (refine Keeps.mk ?_; dsimp only; refine Keeps.v ?_)

theorem keeps_logReset {s0 : State} (s : State) (k0 : Keeps s0 s) :
    Keeps s0 (logReset s) := by
  unfold logReset
  try dsimp only
  repeat' first | with_reducible assumption | with_reducible apply keeps_logAppend | with_reducible apply keeps_logWith
                | (with_reducible refine Keeps.foldl ?_ ?_) | (intro _ _ _) | split
                | (refine Keeps.mk ?_; dsimp only; refine Keeps.v ?_)

theorem keeps_fallBack {s0 : State} (s : State) (k0 : Keeps s0 s) :
    Keeps s0 (fallBack s) := by
  unfold fallBack
  try dsimp only
  repeat' first | with_reducible assumption | with_reducible apply keeps_logFree | with_reducible apply keeps_setStatus
                | split

theorem keeps_trainedAt {s0 : State} (r : Nat) (ps : List PortReport) (s : State) (k0 : Keeps s0 s) :
    Keeps s0 (trainedAt r ps s) := by
  exact ⟨⟨k0.v.pending, fun m => ⟨rfl, (k0.v.mem m).2⟩⟩⟩

theorem keeps_setFailed {s0 : State} (f : Nat) (bad : Bool) (s : State) (k0 : Keeps s0 s) :
    Keeps s0 (setFailed f bad s) := by
  unfold setFailed
  try dsimp only
  repeat' first | with_reducible assumption | with_reducible apply keeps_onFold | with_reducible apply keeps_logWith
                | split | (refine Keeps.mk ?_; dsimp only; refine Keeps.v ?_)

theorem keeps_beginBlock {s0 : State} (mask : Nat) (s : State) (k0 : Keeps s0 s) :
    Keeps s0 (beginBlock mask s) := ⟨k0.v⟩
theorem keeps_resetGovernor {s0 : State} (q : Nat) (s : State) (k0 : Keeps s0 s) :
    Keeps s0 (resetGovernor q s) := ⟨k0.v⟩

/-! ### Power -/

theorem keeps_setQuad {s0 : State} (s : State) (q : Nat) (u : Quad) (k0 : Keeps s0 s) :
    Keeps s0 (s.setQuad q u) := ⟨k0.v⟩
theorem keeps_overCount {s0 : State} (key : Nat) (on : Bool) (s : State) (k0 : Keeps s0 s) :
    Keeps s0 (overCount key on s) := by
  unfold overCount
  try dsimp only
  repeat' first | with_reducible assumption | with_reducible apply keeps_logStick | split
                | (refine Keeps.mk ?_; dsimp only; refine Keeps.v ?_)

theorem keeps_windowCheck {s0 : State} (q : Nat) (s : State) (k0 : Keeps s0 s) :
    Keeps s0 (windowCheck q s) := by
  unfold windowCheck
  try dsimp only
  repeat' first | with_reducible assumption | with_reducible apply keeps_raiseFold | with_reducible apply keeps_raise
                | split

theorem keeps_governAs {s0 : State} (again : Bool) (q total : Nat) (s : State) (k0 : Keeps s0 s) :
    Keeps s0 (governAs again q total s) := by
  unfold governAs
  try dsimp only
  repeat' first | with_reducible assumption | with_reducible apply keeps_overCount | with_reducible apply keeps_setQuad
                | split

theorem keeps_govern {s0 : State} (q total : Nat) (s : State) (k0 : Keeps s0 s) :
    Keeps s0 (govern q total s) := by
  unfold govern
  try dsimp only
  repeat' first | with_reducible assumption | with_reducible apply keeps_governAs | with_reducible apply keeps_logFree
                | with_reducible apply keeps_used | split

theorem keeps_throttle {s0 : State} (q : Nat) (s : State) (k0 : Keeps s0 s) :
    Keeps s0 (throttle q s) := by
  unfold throttle
  try dsimp only
  repeat' first | with_reducible assumption | with_reducible apply keeps_overCount | with_reducible apply keeps_setQuad
                | split

theorem keeps_trip {s0 : State} (i : Nat) (v : Int) (s : State) (k0 : Keeps s0 s) :
    Keeps s0 (trip i v s) := by
  unfold trip
  try dsimp only
  repeat' first | with_reducible assumption | with_reducible apply keeps_takeReset | with_reducible apply keeps_logWith
                | with_reducible apply keeps_setFatal70 | split

/-! ### Jobs -/

theorem keeps_setRing {s0 : State} (s : State) (p : Nat) (r : Ring) (k0 : Keeps s0 s) :
    Keeps s0 (s.setRing p r) := ⟨k0.v⟩
theorem keeps_startAsk {s0 : State} (l : List OwnRead) (s : State) (k0 : Keeps s0 s) :
    Keeps s0 (State.startAsk l s) := by
  unfold State.startAsk
  try dsimp only
  repeat' first | with_reducible assumption | with_reducible apply keeps_readFor | with_reducible apply keeps_ownAsk
                | (with_reducible refine Keeps.foldl ?_ ?_) | (intro _ _ _) | split

theorem keeps_dropStart {s0 : State} (s : State) (k0 : Keeps s0 s) :
    Keeps s0 (s.dropStart) := ⟨k0.v⟩
theorem keeps_queueComp {s0 : State} (c : CompRec) (s : State) (k0 : Keeps s0 s) :
    Keeps s0 (queueComp c s) := by
  unfold queueComp
  try dsimp only
  repeat' first | with_reducible assumption | with_reducible apply keeps_setStatus | split
                | (refine Keeps.mk ?_; dsimp only; refine Keeps.v ?_)

theorem keeps_reject {s0 : State} (ring reason : Nat) (x : JobIn) (s : State) (k0 : Keeps s0 s) :
    Keeps s0 (reject ring reason x s) := ⟨k0.v⟩
theorem keeps_clearTt {s0 : State} (s : State) (k0 : Keeps s0 s) :
    Keeps s0 (clearTt s) := ⟨k0.v⟩
theorem keeps_dropAsks {s0 : State} (s : State) (k0 : Keeps s0 s) :
    Keeps s0 (dropAsks s) := ⟨k0.v⟩
theorem keeps_beginLoad {s0 : State} (prog f : Nat) (s : State) (k0 : Keeps s0 s) :
    Keeps s0 (beginLoad prog f s) := by
  unfold beginLoad
  try dsimp only
  repeat' first | with_reducible assumption | with_reducible apply keeps_flushRuns
                | with_reducible apply keeps_keepStretched | with_reducible apply keeps_setFold | split

theorem keeps_takeHead {s0 : State} (ring : Nat) (s : State) (k0 : Keeps s0 s) :
    Keeps s0 (takeHead ring s) := ⟨k0.v⟩
theorem keeps_freshSums {s0 : State} (s : State) (k0 : Keeps s0 s) :
    Keeps s0 (freshSums s) := ⟨k0.v⟩
theorem keeps_acceptJob {s0 : State} (ring : Nat) (x : JobIn) (p : ProgHdr) (s : State) (k0 : Keeps s0 s) :
    Keeps s0 (acceptJob ring x p s) := by
  unfold acceptJob
  try dsimp only
  repeat' first | with_reducible assumption | with_reducible apply keeps_clearTt | with_reducible apply keeps_freshSums
                | with_reducible apply keeps_beginLoad | with_reducible apply keeps_newFrames
                | (with_reducible refine Keeps.foldl ?_ ?_) | (intro _ _ _) | split
                | (refine Keeps.mk ?_; dsimp only; refine Keeps.v ?_)

theorem keeps_readsAs {s0 : State} (s : State) (p : Option Nat) (k0 : Keeps s0 s) :
    Keeps s0 (s.readsAs p) := ⟨k0.v⟩
theorem keeps_loseTaps {s0 : State} (bad : Option Nat) (s : State) (k0 : Keeps s0 s) :
    Keeps s0 (loseTaps bad s) := by
  unfold loseTaps
  try dsimp only
  repeat' first | with_reducible assumption | with_reducible apply keeps_raise | split

theorem keeps_startJob {s0 : State} (p : Nat) (d : JobHdr × SubBlk) (desc : Bool) (said : JobReads) (s : State) (k0 :
    Keeps s0 s) :
    Keeps s0 (startJob p d desc said s) := by
  unfold startJob
  try dsimp only
  repeat' first | with_reducible assumption | with_reducible apply keeps_readsAs | with_reducible apply keeps_startAsk
                | with_reducible apply keeps_takeHead | with_reducible apply keeps_dropStart
                | with_reducible apply keeps_reject | with_reducible apply keeps_loseTaps
                | with_reducible apply keeps_acceptJob | split

theorem keeps_loadFault {s0 : State} (f code engine detail : Nat) (s : State) (k0 : Keeps s0 s) :
    Keeps s0 (loadFault f code engine detail s) := by
  unfold loadFault
  try dsimp only
  repeat' first | with_reducible assumption | with_reducible apply keeps_raiseFold | with_reducible apply keeps_onFold
                | split

theorem keeps_loadLost {s0 : State} (f a : Nat) (s : State) (k0 : Keeps s0 s) :
    Keeps s0 (loadLost f a s) := by
  unfold loadLost
  try dsimp only
  repeat' first | with_reducible assumption | with_reducible apply keeps_onFold | with_reducible apply keeps_raise | split

theorem keeps_finishLoad {s0 : State} (n : Nat) (j : Job) (e : Sect) (i : SectIn) (s : State) (k0 : Keeps s0 s) :
    Keeps s0 (finishLoad n j e i s) := by
  unfold finishLoad
  try dsimp only
  repeat' first | with_reducible assumption | with_reducible apply keeps_onFold | with_reducible apply keeps_loadFault
                | split | (refine Keeps.mk ?_; dsimp only; refine Keeps.v ?_)

theorem keeps_startFold {s0 : State} (f : Nat) (s : State) (k0 : Keeps s0 s) :
    Keeps s0 (startFold f s) := ⟨k0.v⟩

/-! ### Records -/

theorem keeps_writeComp {s0 : State} (c : CompRec) (s : State) (k0 : Keeps s0 s) :
    Keeps s0 (writeComp c s) := by
  unfold writeComp
  try dsimp only
  repeat' first | with_reducible assumption | with_reducible apply keeps_writeOut | split
                | (refine Keeps.mk ?_; dsimp only; refine Keeps.v ?_)

theorem keeps_leaveJob {s0 : State} (s : State) (k0 : Keeps s0 s) :
    Keeps s0 (leaveJob s) := by
  unfold leaveJob
  try dsimp only
  repeat' first | with_reducible assumption | with_reducible apply keeps_onFold | with_reducible apply keeps_flushRuns
                | with_reducible apply keeps_dropAsks | with_reducible apply keeps_clearMast
                | with_reducible apply keeps_freshSums | (with_reducible refine Keeps.foldl ?_ ?_) | (intro _ _ _) | split
                | (refine Keeps.mk ?_; dsimp only; refine Keeps.v ?_)

theorem keeps_endJob {s0 : State} (kind rcount : Nat) (s : State) (k0 : Keeps s0 s) :
    Keeps s0 (endJob kind rcount s) := by
  unfold endJob
  try dsimp only
  repeat' first | with_reducible assumption | with_reducible apply keeps_queueComp | with_reducible apply keeps_used
                | with_reducible apply keeps_leaveJob | split

theorem keeps_setCrc {s0 : State} (n crc : Nat) (s : State) (k0 : Keeps s0 s) :
    Keeps s0 (setCrc n crc s) := ⟨k0.v⟩
theorem keeps_signDigest {s0 : State} (s : State) (k0 : Keeps s0 s) :
    Keeps s0 (signDigest s) := by
  unfold signDigest
  try dsimp only
  repeat' first | with_reducible assumption | with_reducible apply keeps_endJob | with_reducible apply keeps_used
                | with_reducible apply keeps_writeOut | split

/-! ### Preempt -/

theorem keeps_writeContext {s0 : State} (j : Job) (a : List SavedArea × State) (f : Nat) (k0 : Keeps s0 a.2) :
    Keeps s0 (writeContext j a f).2 := by
  unfold writeContext
  dsimp only
  repeat' first | with_reducible assumption | with_reducible apply keeps_writeFor | with_reducible apply keeps_used | split
                | (refine Keeps.mk ?_; dsimp only; refine Keeps.v ?_)

theorem keeps_beginSave {s0 : State} (j : Job) (s : State) (k0 : Keeps s0 s) : Keeps s0 (beginSave j s) := by
  have go : ∀ (l : List Nat) (a : List SavedArea × State), Keeps s0 a.2 → Keeps s0 (l.foldl (writeContext j) a).2 := by
    intro l
    induction l with
    | nil => exact fun a k => k
    | cons m l ih => intro a k; rw [List.foldl_cons]; exact ih _ (keeps_writeContext _ _ _ k)
  exact ⟨(go j.places ([], s) k0).v⟩

theorem keeps_endSave {s0 : State} (v : Saved) (s : State) (k0 : Keeps s0 s) :
    Keeps s0 (endSave v s) := by
  unfold endSave
  try dsimp only
  repeat' first | with_reducible assumption | with_reducible apply keeps_used | with_reducible apply keeps_newFrames
                | with_reducible apply keeps_leaveJob | with_reducible apply keeps_logStick
                | with_reducible apply keeps_queueComp | split | (refine Keeps.mk ?_; dsimp only; refine Keeps.v ?_)

theorem keeps_resendWrite {s0 : State} (f : Nat) (y : Xfer) (s : State) (k0 : Keeps s0 s) :
    Keeps s0 (resendWrite f y s) := by
  unfold resendWrite
  try dsimp only
  repeat' first | with_reducible assumption | with_reducible apply keeps_pumpWrite | with_reducible apply keeps_ask
                | with_reducible apply keeps_onFold | (with_reducible refine Keeps.foldl ?_ ?_) | (intro _ _ _) | split

theorem keeps_resendXfer {s0 : State} (f : Nat) (y : Xfer) (s : State) (k0 : Keeps s0 s) :
    Keeps s0 (resendXfer f y s) := by
  unfold resendXfer
  try dsimp only
  repeat' first | with_reducible assumption | with_reducible apply keeps_askPeer | with_reducible apply keeps_onFold
                | with_reducible apply keeps_pumpRead | with_reducible apply keeps_descFault
                | with_reducible apply keeps_resendWrite | refine keeps_askSrc _ _ _ _ ?_ (by assumption) | split

theorem keeps_restoreJob {s0 : State} (v : Saved) (s : State) (k0 : Keeps s0 s) :
    Keeps s0 (restoreJob v s) := by
  unfold restoreJob
  try dsimp only
  repeat' first | with_reducible assumption | with_reducible apply keeps_setFold | with_reducible apply keeps_grantLanes
                | with_reducible apply keeps_resendXfer | (with_reducible refine Keeps.foldl ?_ ?_) | (intro _ _ _)
                | split | (refine Keeps.mk ?_; dsimp only; refine Keeps.v ?_)

theorem keeps_restoreStop {s0 : State} (v : Saved) (r : FaultRep) (s : State) (k0 : Keeps s0 s) :
    Keeps s0 (restoreStop v r s) := by
  unfold restoreStop
  try dsimp only
  repeat' first | with_reducible assumption | with_reducible apply keeps_onJob | with_reducible apply keeps_onFold
                | with_reducible apply keeps_raise | (with_reducible refine Keeps.foldl ?_ ?_) | (intro _ _ _) | split

theorem keeps_beginResume {s0 : State} (v : Saved) (s : State) (k0 : Keeps s0 s) :
    Keeps s0 (beginResume v s) := by
  unfold beginResume
  try dsimp only
  repeat' first | with_reducible assumption | with_reducible apply keeps_readFor | with_reducible apply keeps_clearTt
                | with_reducible apply keeps_newFrames | (with_reducible refine Keeps.foldl ?_ ?_) | (intro _ _ _) | split
                | (refine Keeps.mk ?_; dsimp only; refine Keeps.v ?_)

theorem keeps_endResume {s0 : State} (v : Saved) (s : State) (k0 : Keeps s0 s) :
    Keeps s0 (endResume v s) := by
  unfold endResume
  try dsimp only
  repeat' first | with_reducible assumption | with_reducible apply keeps_dropDevRead | with_reducible apply keeps_logStick
                | with_reducible apply keeps_queueComp | with_reducible apply keeps_used
                | with_reducible apply keeps_restoreStop | with_reducible apply keeps_checkCount
                | with_reducible apply keeps_restoreJob | (with_reducible refine Keeps.foldl ?_ ?_) | (intro _ _ _)
                | split | (refine Keeps.mk ?_; dsimp only; refine Keeps.v ?_)

/-! ### Abort -/

theorem keeps_scramble {s0 : State} (v : Saved) (s : State) (k0 : Keeps s0 s) :
    Keeps s0 (scramble v s) := by
  unfold scramble
  try dsimp only
  repeat' first | with_reducible assumption | with_reducible apply keeps_used | with_reducible apply keeps_pokeMem
                | (with_reducible refine Keeps.foldl ?_ ?_) | (intro _ _ _) | split

theorem keeps_abandonMove {s0 : State} (j : Job) (s : State) (k0 : Keeps s0 s) :
    Keeps s0 (abandonMove j s) := by
  unfold abandonMove
  try dsimp only
  repeat' first | with_reducible assumption | with_reducible apply keeps_scramble | split
                | (refine Keeps.mk ?_; dsimp only; refine Keeps.v ?_)

theorem keeps_abortJob {s0 : State} (r : FaultRep) (nsec : Nat) (s : State) (k0 : Keeps s0 s) :
    Keeps s0 (abortJob r nsec s) := by
  unfold abortJob
  try dsimp only
  repeat' first | with_reducible assumption | with_reducible apply keeps_flushRuns | with_reducible apply keeps_onJob
                | with_reducible apply keeps_onFold | with_reducible apply keeps_abandonMove
                | with_reducible apply keeps_dropAsks | with_reducible apply keeps_clearMast
                | with_reducible apply keeps_sendGroupAbort | (with_reducible refine Keeps.foldl ?_ ?_) | (intro _ _ _)
                | split

theorem keeps_logFault {s0 : State} (r : FaultRep) (nsec : Nat) (s : State) (k0 : Keeps s0 s) :
    Keeps s0 (logFault r nsec s) := by
  unfold logFault
  try dsimp only
  repeat' first | with_reducible assumption | with_reducible apply keeps_logEntry | split

theorem keeps_writeFault {s0 : State} (j : Job) (r : FaultRep) (nsec : Nat) (s : State) (k0 : Keeps s0 s) :
    Keeps s0 (writeFault j r nsec s) := by
  unfold writeFault
  try dsimp only
  repeat' first | with_reducible assumption | with_reducible apply keeps_writeOut | split

theorem keeps_abortSaved {s0 : State} (path : Nat) (v : Saved) (s : State) (k0 : Keeps s0 s) :
    Keeps s0 (abortSaved path v s) := by
  unfold abortSaved
  try dsimp only
  repeat' first | with_reducible assumption | with_reducible apply keeps_writeFault | with_reducible apply keeps_scramble
                | with_reducible apply keeps_logFault | with_reducible apply keeps_queueComp
                | with_reducible apply keeps_used | split | (refine Keeps.mk ?_; dsimp only; refine Keeps.v ?_)

theorem keeps_abortTag {s0 : State} (path tag : Nat) (s : State) (k0 : Keeps s0 s) :
    Keeps s0 (abortTag path tag s) := by
  unfold abortTag
  try dsimp only
  repeat' first | with_reducible assumption | with_reducible apply keeps_raise | with_reducible apply keeps_abortSaved
                | (with_reducible refine Keeps.foldl ?_ ?_) | (intro _ _ _) | split

theorem keeps_tapBytes {s0 : State} (f baddr : Nat) (tag : BitVec 12) (e : TapEnt) (s : State) (k0 : Keeps s0 s) :
    Keeps s0 (tapBytes f baddr tag e s).1 := by
  unfold tapBytes
  dsimp only
  repeat' first | with_reducible assumption | (with_reducible refine Keeps.foldl ?_ ?_)
                | with_reducible apply keeps_touchRow | with_reducible apply keeps_spTouch | (intro _ _ _) | split

theorem keeps_sendTap {s0 : State} (n i : Nat) (j : Job) (e : TapEnt) (crcOk : Bool) (s : State) (k0 : Keeps s0 s) :
    Keeps s0 (sendTap n i j e crcOk s) := by
  unfold sendTap
  try dsimp only
  repeat' first | with_reducible assumption | with_reducible apply keeps_raiseFold | with_reducible apply keeps_setFold
                | with_reducible apply keeps_jobAsk | with_reducible apply keeps_onFold
                | with_reducible apply keeps_tallyFault | with_reducible apply keeps_used
                | with_reducible apply keeps_writeFor | with_reducible apply keeps_tapBytes | split

/-! ### HostLink -/

theorem keeps_invalidate {s0 : State} (base size : Nat) (pasid : Option Nat) (s : State) (k0 : Keeps s0 s) :
    Keeps s0 (invalidate base size pasid s) := ⟨k0.v⟩
theorem keeps_pageFault {s0 : State} (f t page : Nat) (s : State) (k0 : Keeps s0 s) :
    Keeps s0 (pageFault f t page s) := by
  unfold pageFault
  try dsimp only
  repeat' first | with_reducible assumption | with_reducible apply keeps_descFault | with_reducible apply keeps_holdXfer
                | with_reducible apply keeps_raise | with_reducible apply keeps_listFault | split

theorem keeps_dropPage {s0 : State} (page : Nat) (s : State) (k0 : Keeps s0 s) :
    Keeps s0 (dropPage page s) := ⟨k0.v⟩
theorem keeps_failPage {s0 : State} (page : Nat) (s : State) (k0 : Keeps s0 s) :
    Keeps s0 (failPage page s) := by
  unfold failPage
  try dsimp only
  repeat' first | with_reducible assumption | with_reducible apply keeps_pageFault | with_reducible apply keeps_dropPage
                | (with_reducible refine Keeps.foldl ?_ ?_) | (intro _ _ _) | split

theorem keeps_cxlAccess {s0 : State} (h : Nat) (wr poison : Bool) (data : List Byte) (s : State) (k0 : Keeps s0 s) :
    Keeps s0 (cxlAccess h wr poison data s) := by
  unfold cxlAccess
  try dsimp only
  repeat' first | with_reducible assumption | with_reducible apply keeps_ask | split
                | (refine Keeps.mk ?_; dsimp only; refine Keeps.v ?_)

/-! ### Lookout -/

theorem keeps_respond {s0 : State} (r : Spdm) (s : State) (k0 : Keeps s0 s) :
    Keeps s0 (respond r s) := ⟨k0.v⟩
theorem keeps_sign {s0 : State} (j : RsaJob) (s : State) (k0 : Keeps s0 s) :
    Keeps s0 (sign j s) := by
  unfold sign
  try dsimp only
  repeat' first | with_reducible assumption | with_reducible apply keeps_respond | split
                | (refine Keeps.mk ?_; dsimp only; refine Keeps.v ?_)

/-! ### Debug -/

theorem keeps_haltFold {s0 : State} (f : Nat) (all : Bool) (s : State) (k0 : Keeps s0 s) :
    Keeps s0 (haltFold f all s) := by
  unfold haltFold
  try dsimp only
  repeat' first | with_reducible assumption | with_reducible apply keeps_onFold | split

theorem keeps_endRuns {s0 : State} (f : Nat) (s : State) (k0 : Keeps s0 s) :
    Keeps s0 (endRuns f s) := by
  unfold endRuns
  try dsimp only
  repeat' first | with_reducible assumption | with_reducible apply keeps_flushRuns | split

theorem keeps_stepFold {s0 : State} (f n : Nat) (s : State) (k0 : Keeps s0 s) :
    Keeps s0 (stepFold f n s) := by
  unfold stepFold
  try dsimp only
  repeat' first | with_reducible assumption | with_reducible apply keeps_endRuns | with_reducible apply keeps_onFold
                | split

theorem keeps_releaseTally {s0 : State} (f : Nat) (s : State) (k0 : Keeps s0 s) :
    Keeps s0 (releaseTally f s) := by
  unfold releaseTally
  try dsimp only
  repeat' first | with_reducible assumption | with_reducible apply keeps_tr | with_reducible apply keeps_raise
                | with_reducible apply keeps_onFold | split

theorem keeps_resumeFold {s0 : State} (f : Nat) (s : State) (k0 : Keeps s0 s) :
    Keeps s0 (resumeFold f s) := by
  unfold resumeFold
  try dsimp only
  repeat' first | with_reducible assumption | with_reducible apply keeps_releaseTally | with_reducible apply keeps_onFold
                | with_reducible apply keeps_endRuns | with_reducible apply keeps_tr | split

theorem keeps_holdFold {s0 : State} (f : Nat) (s : State) (k0 : Keeps s0 s) :
    Keeps s0 (holdFold f s) := by
  unfold holdFold
  try dsimp only
  repeat' first | with_reducible assumption | with_reducible apply keeps_onFold | with_reducible apply keeps_endRuns
                | with_reducible apply keeps_tr | split

theorem keeps_noteRun {s0 : State} (path f index sub off n : Nat) (s : State) (k0 : Keeps s0 s) :
    Keeps s0 (noteRun path f index sub off n s) := by
  unfold noteRun
  try dsimp only
  repeat' first | with_reducible assumption | split | (refine Keeps.mk ?_; dsimp only; refine Keeps.v ?_)

theorem keeps_closeRun {s0 : State} (path index sub off : Nat) (s : State) (k0 : Keeps s0 s) :
    Keeps s0 (closeRun path index sub off s) := by
  unfold closeRun
  try dsimp only
  repeat' first | with_reducible assumption | with_reducible apply keeps_flushRuns | split

theorem keeps_debugWrite {s0 : State} (path f sub off : Nat) (data : List Byte) (s : State) (k0 : Keeps s0 s) :
    Keeps s0 (debugWrite path f sub off data s) := by
  unfold debugWrite
  try dsimp only
  repeat' first | with_reducible assumption | with_reducible apply keeps_noteRun | with_reducible apply keeps_onFold
                | with_reducible apply keeps_tr | split

theorem keeps_logPennant {s0 : State} (path : Nat) (global : Bool) (f pn before v : Nat) (s : State) (k0 : Keeps s0 s) :
    Keeps s0 (logPennant path global f pn before v s) := by
  unfold logPennant
  try dsimp only
  repeat' first | with_reducible assumption | with_reducible apply keeps_logWith | split

theorem keeps_setPennant {s0 : State} (path f pn : Nat) (v : BitVec 16) (s : State) (k0 : Keeps s0 s) :
    Keeps s0 (setPennant path f pn v s) := by
  unfold setPennant
  try dsimp only
  repeat' first | with_reducible assumption | with_reducible apply keeps_onFold | with_reducible apply keeps_logPennant
                | with_reducible apply keeps_tr | split

theorem keeps_setGlobal {s0 : State} (path g : Nat) (v : BitVec 16) (s : State) (k0 : Keeps s0 s) :
    Keeps s0 (setGlobal path g v s) := by
  unfold setGlobal
  try dsimp only
  repeat' first | with_reducible assumption | with_reducible apply keeps_onJob | with_reducible apply keeps_logPennant
                | with_reducible apply keeps_tr | split | (refine Keeps.mk ?_; dsimp only; refine Keeps.v ?_)

theorem keeps_putRecord {s0 : State} (r : BitVec 256) (s : State) (k0 : Keeps s0 s) :
    Keeps s0 (putRecord r s) := by
  unfold putRecord
  try dsimp only
  repeat' first | with_reducible assumption | with_reducible apply keeps_writeOut | split
                | (refine Keeps.mk ?_; dsimp only; refine Keeps.v ?_)

end Sys2Proof.Machine
end

