-- ==== Sys2Proof/Laws/KeepDict.lean ====
section
/-! SUPPORT. What Keeps.lean says, of the dictionary, the rigging and the tick. -/
namespace Sys2Proof.Machine

/-! ### Catalogue -/

theorem keeps_readEntry {s0 : State} (s : State) (path i sub off n : Nat) (k0 : Keeps s0 s) :
    Keeps s0 (s.readEntry path i sub off n).2.2 := by
  unfold State.readEntry
  repeat' first | with_reducible assumption | with_reducible apply keeps_used | split

/-! ### DictWrite -/

theorem keeps_writeStatus {s0 : State} (path i sub v : Nat) (s : State) (k0 : Keeps s0 s) :
    KeepsW s0 (writeStatus path i sub v s) := by
  unfold writeStatus
  try dsimp only
  repeat' first | with_reducible assumption | with_reducible apply keeps_clearStatus | with_reducible apply KeepsW.ok
                | exact KeepsW.error _ | with_reducible apply KeepsW.guard | refine KeepsW.map _ fun _ => ?_ | split
                | (refine Keeps.mk ?_; dsimp only; refine Keeps.v ?_)

theorem keeps_writeWindow {s0 : State} (n v : Nat) (s : State) (k0 : Keeps s0 s) :
    KeepsW s0 (writeWindow n v s) := by
  unfold writeWindow
  try dsimp only
  repeat' first | with_reducible assumption | with_reducible apply KeepsW.ok | exact KeepsW.error _
                | with_reducible apply KeepsW.guard | refine KeepsW.map _ fun _ => ?_ | split
                | (refine Keeps.mk ?_; dsimp only; refine Keeps.v ?_)

theorem keeps_writeQuadReset {s0 : State} (v : Nat) (s : State) (k0 : Keeps s0 s) :
    KeepsW s0 (writeQuadReset v s) := by
  unfold writeQuadReset
  try dsimp only
  repeat' first | with_reducible assumption | with_reducible apply keeps_resetGovernor
                | with_reducible apply keeps_beginBlock | with_reducible apply KeepsW.ok | exact KeepsW.error _
                | with_reducible apply KeepsW.guard | refine KeepsW.map _ fun _ => ?_
                | (with_reducible refine Keeps.foldl ?_ ?_) | (intro _ _ _) | split

theorem keeps_writeFoldReset {s0 : State} (v : Nat) (s : State) (k0 : Keeps s0 s) :
    KeepsW s0 (writeFoldReset v s) := by
  unfold writeFoldReset
  try dsimp only
  repeat' first | with_reducible assumption | with_reducible apply keeps_beginBlock | with_reducible apply KeepsW.ok
                | exact KeepsW.error _ | with_reducible apply KeepsW.guard | refine KeepsW.map _ fun _ => ?_ | split

theorem keeps_writeHost {s0 : State} (path i sub v : Nat) (s : State) (k0 : Keeps s0 s) :
    KeepsW s0 (writeHost path i sub v s) := by
  unfold writeHost
  try dsimp only
  repeat' first | with_reducible assumption | with_reducible apply keeps_abortTag | with_reducible apply keeps_writeWindow
                | with_reducible apply keeps_takeReset | with_reducible apply keeps_writeFoldReset
                | with_reducible apply keeps_writeQuadReset | with_reducible apply keeps_setRing
                | with_reducible apply keeps_dropStart | with_reducible apply KeepsW.ok | exact KeepsW.error _
                | with_reducible apply KeepsW.guard | refine KeepsW.map _ fun _ => ?_ | split
                | (refine Keeps.mk ?_; dsimp only; refine Keeps.v ?_)

theorem keeps_writeWarn {s0 : State} (p : Power) (s : State) (k0 : Keeps s0 s) :
    KeepsW s0 (writeWarn p s) := by
  unfold writeWarn
  try dsimp only
  repeat' first | with_reducible assumption | with_reducible apply keeps_noteWarm | with_reducible apply KeepsW.ok
                | exact KeepsW.error _ | with_reducible apply KeepsW.guard | refine KeepsW.map _ fun _ => ?_ | split
                | (refine Keeps.mk ?_; dsimp only; refine Keeps.v ?_)

theorem keeps_writePower {s0 : State} (i sub v : Nat) (s : State) (k0 : Keeps s0 s) :
    KeepsW s0 (writePower i sub v s) := by
  unfold writePower
  try dsimp only
  repeat' first | with_reducible assumption | with_reducible apply keeps_setQuad | with_reducible apply keeps_keep
                | with_reducible apply keeps_writeWarn | with_reducible apply KeepsW.ok | exact KeepsW.error _
                | with_reducible apply KeepsW.guard | refine KeepsW.map _ fun _ => ?_ | split
                | (refine Keeps.mk ?_; dsimp only; refine Keeps.v ?_)

theorem keeps_writeTree {s0 : State} (t sub v : Nat) (s : State) (k0 : Keeps s0 s) :
    Keeps s0 (writeTree t sub v s) := ⟨k0.v⟩
theorem keeps_writeRigging {s0 : State} (i sub v : Nat) (s : State) (k0 : Keeps s0 s) :
    KeepsW s0 (writeRigging i sub v s) := by
  unfold writeRigging
  try dsimp only
  repeat' first | with_reducible assumption | with_reducible apply keeps_writeTree | with_reducible apply keeps_keep
                | with_reducible apply KeepsW.ok | exact KeepsW.error _ | with_reducible apply KeepsW.guard
                | refine KeepsW.map _ fun _ => ?_ | split | (refine Keeps.mk ?_; dsimp only; refine Keeps.v ?_)

theorem keeps_writeRoutes {s0 : State} (off : Nat) (data : List Byte) (s : State) (k0 : Keeps s0 s) :
    Keeps s0 (writeRoutes off data s) := by
  unfold writeRoutes
  try dsimp only
  repeat' first | with_reducible assumption | with_reducible apply keeps_sendNotices | split
                | (refine Keeps.mk ?_; dsimp only; refine Keeps.v ?_)

theorem keeps_writeImage {s0 : State} (path off : Nat) (data : List Byte) (s : State) (k0 : Keeps s0 s) :
    KeepsW s0 (writeImage path off data s) := by
  unfold writeImage
  try dsimp only
  repeat' first | with_reducible assumption | with_reducible apply KeepsW.ok | exact KeepsW.error _
                | with_reducible apply KeepsW.guard | refine KeepsW.map _ fun _ => ?_ | split
                | (refine Keeps.mk ?_; dsimp only; refine Keeps.v ?_)

theorem keeps_verifyImage {s0 : State} (s : State) (k0 : Keeps s0 s) :
    Keeps s0 (verifyImage s) := by
  unfold verifyImage
  try dsimp only
  repeat' first | with_reducible assumption | with_reducible apply keeps_secEvent | split
                | (refine Keeps.mk ?_; dsimp only; refine Keeps.v ?_)

theorem keeps_commit {s0 : State} (path : Nat) (s : State) (k0 : Keeps s0 s) :
    Keeps s0 (commit path s) := ⟨k0.v⟩
theorem keeps_writeCommand {s0 : State} (path v : Nat) (s : State) (k0 : Keeps s0 s) :
    KeepsW s0 (writeCommand path v s) := by
  unfold writeCommand
  try dsimp only
  repeat' first | with_reducible assumption | with_reducible apply keeps_verifyImage | with_reducible apply keeps_commit
                | with_reducible apply KeepsW.ok | exact KeepsW.error _ | with_reducible apply KeepsW.guard
                | refine KeepsW.map _ fun _ => ?_ | split | (refine Keeps.mk ?_; dsimp only; refine Keeps.v ?_)

theorem keeps_writeSecurity {s0 : State} (path i sub v : Nat) (s : State) (k0 : Keeps s0 s) :
    KeepsW s0 (writeSecurity path i sub v s) := by
  unfold writeSecurity
  try dsimp only
  repeat' first | with_reducible assumption | with_reducible apply keeps_writeCommand | with_reducible apply KeepsW.ok
                | exact KeepsW.error _ | with_reducible apply KeepsW.guard | refine KeepsW.map _ fun _ => ?_ | split
                | (refine Keeps.mk ?_; dsimp only; refine Keeps.v ?_)

theorem keeps_writeTrace {s0 : State} (sub v : Nat) (s : State) (k0 : Keeps s0 s) :
    KeepsW s0 (writeTrace sub v s) := by
  unfold writeTrace
  try dsimp only
  repeat' first | with_reducible assumption | with_reducible apply KeepsW.ok | exact KeepsW.error _
                | with_reducible apply KeepsW.guard | refine KeepsW.map _ fun _ => ?_ | split
                | (refine Keeps.mk ?_; dsimp only; refine Keeps.v ?_)

theorem keeps_writeControl {s0 : State} (f sub v : Nat) (s : State) (k0 : Keeps s0 s) :
    KeepsW s0 (writeControl f sub v s) := by
  unfold writeControl
  try dsimp only
  repeat' first | with_reducible assumption | with_reducible apply keeps_haltFold | with_reducible apply keeps_stepFold
                | with_reducible apply keeps_resumeFold | with_reducible apply keeps_onFold
                | with_reducible apply KeepsW.ok | exact KeepsW.error _ | with_reducible apply KeepsW.guard
                | refine KeepsW.map _ fun _ => ?_ | split

theorem keeps_writeDebug {s0 : State} (path i sub v : Nat) (s : State) (k0 : Keeps s0 s) :
    KeepsW s0 (writeDebug path i sub v s) := by
  unfold writeDebug
  try dsimp only
  repeat' first | with_reducible assumption | with_reducible apply keeps_writeControl
                | with_reducible apply keeps_setPennant | with_reducible apply keeps_setGlobal
                | with_reducible apply keeps_writeTrace | with_reducible apply KeepsW.ok | exact KeepsW.error _
                | with_reducible apply KeepsW.guard | refine KeepsW.map _ fun _ => ?_ | split

theorem keeps_writeValue {s0 : State} (path i sub v : Nat) (s : State) (k0 : Keeps s0 s) :
    KeepsW s0 (writeValue path i sub v s) := by
  unfold writeValue
  try dsimp only
  repeat' first | with_reducible assumption | with_reducible apply keeps_writeStatus
                | with_reducible apply keeps_writeHost | with_reducible apply keeps_writePower
                | with_reducible apply keeps_writeRigging | with_reducible apply keeps_writeDebug
                | with_reducible apply keeps_writeSecurity | with_reducible apply KeepsW.ok | exact KeepsW.error _
                | with_reducible apply KeepsW.guard | refine KeepsW.map _ fun _ => ?_ | split

theorem keeps_writeDomain {s0 : State} (path i sub off : Nat) (data : List Byte) (s : State) (k0 : Keeps s0 s) :
    KeepsW s0 (writeDomain path i sub off data s) := by
  unfold writeDomain
  try dsimp only
  repeat' first | with_reducible assumption | with_reducible apply keeps_writeRoutes
                | with_reducible apply keeps_writeImage | with_reducible apply keeps_debugWrite
                | with_reducible apply KeepsW.ok | exact KeepsW.error _ | with_reducible apply KeepsW.guard
                | refine KeepsW.map _ fun _ => ?_ | split

theorem keeps_storeEntry {s0 : State} (path i sub off : Nat) (t : Ty) (data : List Byte) (s : State) (k0 : Keeps s0 s) :
    KeepsW s0 (storeEntry path i sub off t data s) := by
  unfold storeEntry
  try dsimp only
  repeat' first | with_reducible assumption | with_reducible apply keeps_writeDomain
                | with_reducible apply keeps_writeValue | with_reducible apply KeepsW.ok | exact KeepsW.error _
                | with_reducible apply KeepsW.guard | refine KeepsW.map _ fun _ => ?_ | split

theorem keeps_logRefusal {s0 : State} (i sub code : Nat) (s : State) (k0 : Keeps s0 s) :
    Keeps s0 (logRefusal i sub code s) := by
  unfold logRefusal
  try dsimp only
  repeat' first | with_reducible assumption | with_reducible apply keeps_logFree | split

theorem keeps_perform {s0 : State} (s : State) (path i sub off : Nat) (t : Ty) (data : List Byte) (k0 : Keeps s0 s) :
    Keeps s0 (s.perform path i sub off t data).2 := by
  unfold State.perform
  repeat' first | with_reducible assumption | with_reducible apply keeps_secEvent | with_reducible apply keeps_logRefusal
                | exact (keeps_storeEntry _ _ _ _ _ _ _ (keeps_closeRun _ _ _ _ _ k0)).v _ (by assumption) | split

theorem keeps_writeEntry {s0 : State} (s : State) (path : Nat) (admitted : Bool) (i sub off : Nat) (data : List Byte)
    (k0 : Keeps s0 s) : Keeps s0 (s.writeEntry path admitted i sub off data).2 := by
  unfold State.writeEntry
  repeat' first | with_reducible assumption | with_reducible apply keeps_perform | split

/-! ### Dict -/

theorem keeps_setSlot {s0 : State} (s : State) (n : Nat) (u : Slot) (k0 : Keeps s0 s) :
    Keeps s0 (s.setSlot n u) := ⟨k0.v⟩
theorem keeps_endAccess {s0 : State} (n c : Nat) (moved : Bool) (g : Slot → Slot) (s : State) (k0 : Keeps s0 s) :
    Keeps s0 (endAccess n c moved g s) := by
  unfold endAccess
  try dsimp only
  repeat' first | with_reducible assumption | with_reducible apply keeps_setSlot | split

theorem keeps_writeSel {s0 : State} (n : Nat) (v : BitVec 64) (s : State) (k0 : Keeps s0 s) :
    Keeps s0 (writeSel n v s) := ⟨k0.v⟩
theorem keeps_writeData {s0 : State} (n : Nat) (v : DWord) (s : State) (k0 : Keeps s0 s) :
    Keeps s0 (writeData n v s) := by
  unfold writeData
  try dsimp only
  repeat' first | with_reducible assumption | with_reducible apply keeps_endAccess | with_reducible apply keeps_perform
                | split

theorem keeps_writeReg {s0 : State} (o : Nat) (data : List Byte) (s : State) (a : Nat) (k0 : Keeps s0 s) :
    Keeps s0 (writeReg o data s a) := by
  unfold writeReg
  try dsimp only
  repeat' first | with_reducible assumption | with_reducible apply keeps_writeSel | with_reducible apply keeps_writeData
                | split

theorem keeps_readSlot {s0 : State} (n : Nat) (s : State) (k0 : Keeps s0 s) :
    Keeps s0 (readSlot n s) := by
  unfold readSlot
  try dsimp only
  repeat' first | with_reducible assumption | with_reducible apply keeps_setSlot | with_reducible apply keeps_endAccess
                | with_reducible apply keeps_readEntry | split

theorem keeps_readReg {s0 : State} (same : Bool) (s : State) (a : Nat) (k0 : Keeps s0 s) : Keeps s0 (readReg same s
    a).2 := by
  unfold readReg
  dsimp only
  repeat' first | with_reducible assumption | with_reducible apply keeps_readSlot | split

theorem keeps_hostWrite {s0 : State} (n i sub off : Nat) (v : DWord) (s : State) (k0 : Keeps s0 s) :
    Keeps s0 (hostWrite n i sub off v s) := by
  unfold hostWrite
  try dsimp only
  repeat' first | with_reducible assumption | with_reducible apply keeps_writeData | with_reducible apply keeps_writeSel
                | split

theorem keeps_segment {s0 : State} (path : Nat) (admitted write : Bool) (i sub off len : Nat) (data : List Byte) (s : State)
    (k0 : Keeps s0 s) : Keeps s0 (segment path admitted write i sub off len data s).2.2 := by
  unfold segment
  repeat' first | with_reducible assumption | with_reducible apply keeps_writeEntry | with_reducible apply keeps_readEntry
                | split

theorem keeps_sendReply {s0 : State} (r : MgReply) (s : State) (k0 : Keeps s0 s) :
    Keeps s0 (sendReply r s) := by
  unfold sendReply
  try dsimp only
  repeat' first | with_reducible assumption | with_reducible apply keeps_sendLink | with_reducible apply keeps_sendFlit
                | split

theorem keeps_passOn {s0 : State} (r : MgReq) (out : BitVec 5) (s : State) (k0 : Keeps s0 s) :
    Keeps s0 (passOn r out s) := by
  unfold passOn
  try dsimp only
  repeat' first | with_reducible assumption | with_reducible apply keeps_sendReply | with_reducible apply keeps_sendLink
                | split | (refine Keeps.mk ?_; dsimp only; refine Keeps.v ?_)

theorem keeps_answer {s0 : State} (r : MgReq) (s : State) (k0 : Keeps s0 s) :
    Keeps s0 (answer r s) := by
  unfold answer
  try dsimp only
  repeat' first | with_reducible assumption | with_reducible apply keeps_sendReply | with_reducible apply keeps_segment
                | split | (refine Keeps.mk ?_; dsimp only; refine Keeps.v ?_)

/-! ### Rigging -/

theorem keeps_clockBack {s0 : State} (s : State) (l : Nat) (k0 : Keeps s0 s) :
    Keeps s0 (s.clockBack l) := by
  unfold State.clockBack
  try dsimp only
  repeat' first | with_reducible assumption | with_reducible apply keeps_setLink
                | (with_reducible refine Keeps.foldl ?_ ?_) | (intro _ _ _) | split
                | (refine Keeps.mk ?_; dsimp only; refine Keeps.v ?_)

theorem keeps_countFault {s0 : State} (h : FlitIn) (dir : Nat) (f : Option Nat) (s : State) (k0 : Keeps s0 s) :
    Keeps s0 (countFault h dir f s) := by
  unfold countFault
  try dsimp only
  repeat' first | with_reducible assumption | with_reducible apply keeps_checkCount | with_reducible apply keeps_raiseFold
                | with_reducible apply keeps_raise | split

theorem keeps_askRemote {s0 : State} (who : ReqFor) (wr : Bool) (addr : Nat → Nat) (n : Nat) (data : List Byte) (s :
    State) (k0 : Keeps s0 s) :
    Keeps s0 (askRemote who wr addr n data s) := by
  unfold askRemote
  try dsimp only
  repeat' first | with_reducible assumption | with_reducible apply keeps_ask | (with_reducible refine Keeps.foldl ?_ ?_)
                | (intro _ _ _) | split

/-! ### Tick -/

theorem keeps_stickStretches {s0 : State} (s : State) (k0 : Keeps s0 s) :
    Keeps s0 (stickStretches s) := by
  unfold stickStretches
  try dsimp only
  repeat' first | with_reducible assumption | with_reducible apply keeps_logStick | split
                | (refine Keeps.mk ?_; dsimp only; refine Keeps.v ?_)

theorem keeps_lookoutAccess {s0 : State} (s : State) (k0 : Keeps s0 s) :
    Keeps s0 (lookoutAccess s) := by
  unfold lookoutAccess
  try dsimp only
  repeat' first | with_reducible assumption | with_reducible apply keeps_used | with_reducible apply keeps_setFatal70
                | split | (refine Keeps.mk ?_; dsimp only; refine Keeps.v ?_)

theorem keeps_burnBit {s0 : State} (s : State) (k0 : Keeps s0 s) :
    Keeps s0 (burnBit s) := by
  unfold burnBit
  try dsimp only
  repeat' first | with_reducible assumption | split | (refine Keeps.mk ?_; dsimp only; refine Keeps.v ?_)

theorem keeps_ownRequest {s0 : State} (s : State) (k0 : Keeps s0 s) :
    Keeps s0 (ownRequest s) := by
  unfold ownRequest
  try dsimp only
  repeat' first | with_reducible assumption | with_reducible apply keeps_takeReset | with_reducible apply keeps_used
                | split

theorem keeps_tick {s0 : State} (s : State) (k0 : Keeps s0 s) :
    Keeps s0 (tick s) := by
  unfold tick
  try dsimp only
  repeat' first | with_reducible assumption | with_reducible apply keeps_burnBit
                | with_reducible apply keeps_lookoutAccess | with_reducible apply keeps_ownRequest
                | with_reducible apply keeps_tickStreams | with_reducible apply keeps_stickStretches | split
                | (refine Keeps.mk ?_; dsimp only; refine Keeps.v ?_)

end Sys2Proof.Machine
end

