-- ==== Sys2Proof/Laws/State.lean ====
section
/-! SUPPORT. Every shared update of State, field by field: what it changes, and that it changes nothing else. -/
namespace Sys2Proof.Machine

/-! ### onFold -/

@[simp] theorem onFold_pending (s : State) (f : Nat) (g : Fold → Fold) : (s.onFold f g).pending = s.pending := rfl
@[simp] theorem onFold_freeCtr (s : State) (f : Nat) (g : Fold → Fold) : (s.onFold f g).freeCtr = s.freeCtr := rfl
@[simp] theorem onFold_chip (s : State) (f : Nat) (g : Fold → Fold) : (s.onFold f g).chip = s.chip := rfl
@[simp] theorem onFold_folds (s : State) (f : Nat) (g : Fold → Fold) :
    (s.onFold f g).folds = put Fold.init s.folds f (g (s.fold f)) := rfl
@[simp] theorem onFold_job (s : State) (f : Nat) (g : Fold → Fold) : (s.onFold f g).job = s.job := rfl
@[simp] theorem onFold_saved (s : State) (f : Nat) (g : Fold → Fold) : (s.onFold f g).saved = s.saved := rfl
@[simp] theorem onFold_moving (s : State) (f : Nat) (g : Fold → Fold) : (s.onFold f g).moving = s.moving := rfl
@[simp] theorem onFold_host (s : State) (f : Nat) (g : Fold → Fold) : (s.onFold f g).host = s.host := rfl
@[simp] theorem onFold_dict (s : State) (f : Nat) (g : Fold → Fold) : (s.onFold f g).dict = s.dict := rfl
@[simp] theorem onFold_msd (s : State) (f : Nat) (g : Fold → Fold) : (s.onFold f g).msd = s.msd := rfl
@[simp] theorem onFold_rig (s : State) (f : Nat) (g : Fold → Fold) : (s.onFold f g).rig = s.rig := rfl
@[simp] theorem onFold_look (s : State) (f : Nat) (g : Fold → Fold) : (s.onFold f g).look = s.look := rfl
@[simp] theorem onFold_pow (s : State) (f : Nat) (g : Fold → Fold) : (s.onFold f g).pow = s.pow := rfl
@[simp] theorem onFold_trace (s : State) (f : Nat) (g : Fold → Fold) : (s.onFold f g).trace = s.trace := rfl

/-! ### onJob -/

@[simp] theorem onJob_pending (s : State) (g : Job → Job) : (s.onJob g).pending = s.pending := rfl
@[simp] theorem onJob_freeCtr (s : State) (g : Job → Job) : (s.onJob g).freeCtr = s.freeCtr := rfl
@[simp] theorem onJob_chip (s : State) (g : Job → Job) : (s.onJob g).chip = s.chip := rfl
@[simp] theorem onJob_folds (s : State) (g : Job → Job) : (s.onJob g).folds = s.folds := rfl
@[simp] theorem onJob_job (s : State) (g : Job → Job) : (s.onJob g).job = s.job.map g := rfl
@[simp] theorem onJob_saved (s : State) (g : Job → Job) : (s.onJob g).saved = s.saved := rfl
@[simp] theorem onJob_moving (s : State) (g : Job → Job) : (s.onJob g).moving = s.moving := rfl
@[simp] theorem onJob_host (s : State) (g : Job → Job) : (s.onJob g).host = s.host := rfl
@[simp] theorem onJob_dict (s : State) (g : Job → Job) : (s.onJob g).dict = s.dict := rfl
@[simp] theorem onJob_msd (s : State) (g : Job → Job) : (s.onJob g).msd = s.msd := rfl
@[simp] theorem onJob_rig (s : State) (g : Job → Job) : (s.onJob g).rig = s.rig := rfl
@[simp] theorem onJob_look (s : State) (g : Job → Job) : (s.onJob g).look = s.look := rfl
@[simp] theorem onJob_pow (s : State) (g : Job → Job) : (s.onJob g).pow = s.pow := rfl
@[simp] theorem onJob_trace (s : State) (g : Job → Job) : (s.onJob g).trace = s.trace := rfl

/-! ### used -/

@[simp] theorem used_pending (s : State) : (s.used).pending = s.pending := rfl
@[simp] theorem used_freeCtr (s : State) : (s.used).freeCtr = s.freeCtr + 1 := rfl
@[simp] theorem used_chip (s : State) : (s.used).chip = s.chip := rfl
@[simp] theorem used_folds (s : State) : (s.used).folds = s.folds := rfl
@[simp] theorem used_job (s : State) : (s.used).job = s.job := rfl
@[simp] theorem used_saved (s : State) : (s.used).saved = s.saved := rfl
@[simp] theorem used_moving (s : State) : (s.used).moving = s.moving := rfl
@[simp] theorem used_host (s : State) : (s.used).host = s.host := rfl
@[simp] theorem used_dict (s : State) : (s.used).dict = s.dict := rfl
@[simp] theorem used_msd (s : State) : (s.used).msd = s.msd := rfl
@[simp] theorem used_rig (s : State) : (s.used).rig = s.rig := rfl
@[simp] theorem used_look (s : State) : (s.used).look = s.look := rfl
@[simp] theorem used_pow (s : State) : (s.used).pow = s.pow := rfl
@[simp] theorem used_trace (s : State) : (s.used).trace = s.trace := rfl

/-! ### pokeMem -/

@[simp] theorem pokeMem_pending (s : State) (a : Nat) (l : List Byte) : (s.pokeMem a l).pending = s.pending := rfl
@[simp] theorem pokeMem_freeCtr (s : State) (a : Nat) (l : List Byte) : (s.pokeMem a l).freeCtr = s.freeCtr := rfl
@[simp] theorem pokeMem_chip (s : State) (a : Nat) (l : List Byte) : (s.pokeMem a l).chip = s.chip := rfl
@[simp] theorem pokeMem_folds (s : State) (a : Nat) (l : List Byte) : (s.pokeMem a l).folds = s.folds := rfl
@[simp] theorem pokeMem_job (s : State) (a : Nat) (l : List Byte) : (s.pokeMem a l).job = s.job := rfl
@[simp] theorem pokeMem_saved (s : State) (a : Nat) (l : List Byte) : (s.pokeMem a l).saved = s.saved := rfl
@[simp] theorem pokeMem_moving (s : State) (a : Nat) (l : List Byte) : (s.pokeMem a l).moving = s.moving := rfl
@[simp] theorem pokeMem_host (s : State) (a : Nat) (l : List Byte) : (s.pokeMem a l).host = s.host := rfl
@[simp] theorem pokeMem_dict (s : State) (a : Nat) (l : List Byte) : (s.pokeMem a l).dict = s.dict := rfl
@[simp] theorem pokeMem_msd_mem (s : State) (a : Nat) (l : List Byte) :
    (s.pokeMem a l).msd.mem = putRun memDefault s.msd.mem a l := rfl
@[simp] theorem pokeMem_msd_lineErr (s : State) (a : Nat) (l : List Byte) : (s.pokeMem a l).msd.lineErr = s.msd.lineErr := rfl
@[simp] theorem pokeMem_msd_devReads (s : State) (a : Nat) (l : List Byte) :
    (s.pokeMem a l).msd.devReads = s.msd.devReads := rfl
@[simp] theorem pokeMem_msd_config (s : State) (a : Nat) (l : List Byte) : (s.pokeMem a l).msd.config = s.msd.config := rfl
@[simp] theorem pokeMem_msd_rawGiB (s : State) (a : Nat) (l : List Byte) : (s.pokeMem a l).msd.rawGiB = s.msd.rawGiB := rfl
@[simp] theorem pokeMem_msd_rate (s : State) (a : Nat) (l : List Byte) : (s.pokeMem a l).msd.rate = s.msd.rate := rfl
@[simp] theorem pokeMem_msd_rateNow (s : State) (a : Nat) (l : List Byte) : (s.pokeMem a l).msd.rateNow = s.msd.rateNow := rfl
@[simp] theorem pokeMem_msd_fullNow (s : State) (a : Nat) (l : List Byte) : (s.pokeMem a l).msd.fullNow = s.msd.fullNow := rfl
@[simp] theorem pokeMem_msd_trainKind (s : State) (a : Nat) (l : List Byte) :
    (s.pokeMem a l).msd.trainKind = s.msd.trainKind := rfl
@[simp] theorem pokeMem_msd_trainMs (s : State) (a : Nat) (l : List Byte) : (s.pokeMem a l).msd.trainMs = s.msd.trainMs := rfl
@[simp] theorem pokeMem_msd_recWriting (s : State) (a : Nat) (l : List Byte) :
    (s.pokeMem a l).msd.recWriting = s.msd.recWriting := rfl
@[simp] theorem pokeMem_msd_split (s : State) (a : Nat) (l : List Byte) : (s.pokeMem a l).msd.split = s.msd.split := rfl
@[simp] theorem pokeMem_msd_ports (s : State) (a : Nat) (l : List Byte) : (s.pokeMem a l).msd.ports = s.msd.ports := rfl
@[simp] theorem pokeMem_msd_corrected (s : State) (a : Nat) (l : List Byte) :
    (s.pokeMem a l).msd.corrected = s.msd.corrected := rfl
@[simp] theorem pokeMem_msd_uncorrected (s : State) (a : Nat) (l : List Byte) :
    (s.pokeMem a l).msd.uncorrected = s.msd.uncorrected := rfl
@[simp] theorem pokeMem_msd_threshold (s : State) (a : Nat) (l : List Byte) :
    (s.pokeMem a l).msd.threshold = s.msd.threshold := rfl
@[simp] theorem pokeMem_msd_scrubPass (s : State) (a : Nat) (l : List Byte) :
    (s.pokeMem a l).msd.scrubPass = s.msd.scrubPass := rfl
@[simp] theorem pokeMem_msd_lastAddr (s : State) (a : Nat) (l : List Byte) :
    (s.pokeMem a l).msd.lastAddr = s.msd.lastAddr := rfl
@[simp] theorem pokeMem_msd_lastDetail (s : State) (a : Nat) (l : List Byte) :
    (s.pokeMem a l).msd.lastDetail = s.msd.lastDetail := rfl
@[simp] theorem pokeMem_msd_eccSingle (s : State) (a : Nat) (l : List Byte) :
    (s.pokeMem a l).msd.eccSingle = s.msd.eccSingle := rfl
@[simp] theorem pokeMem_msd_eccDouble (s : State) (a : Nat) (l : List Byte) :
    (s.pokeMem a l).msd.eccDouble = s.msd.eccDouble := rfl
@[simp] theorem pokeMem_msd_streams (s : State) (a : Nat) (l : List Byte) : (s.pokeMem a l).msd.streams = s.msd.streams := rfl
@[simp] theorem pokeMem_msd_streamN (s : State) (a : Nat) (l : List Byte) : (s.pokeMem a l).msd.streamN = s.msd.streamN := rfl
@[simp] theorem pokeMem_msd_stages (s : State) (a : Nat) (l : List Byte) : (s.pokeMem a l).msd.stages = s.msd.stages := rfl
@[simp] theorem pokeMem_msd_claims (s : State) (a : Nat) (l : List Byte) : (s.pokeMem a l).msd.claims = s.msd.claims := rfl
@[simp] theorem pokeMem_msd_serves (s : State) (a : Nat) (l : List Byte) : (s.pokeMem a l).msd.serves = s.msd.serves := rfl
@[simp] theorem pokeMem_msd_specHit (s : State) (a : Nat) (l : List Byte) : (s.pokeMem a l).msd.specHit = s.msd.specHit := rfl
@[simp] theorem pokeMem_msd_specMiss (s : State) (a : Nat) (l : List Byte) :
    (s.pokeMem a l).msd.specMiss = s.msd.specMiss := rfl
@[simp] theorem pokeMem_msd_specDrop (s : State) (a : Nat) (l : List Byte) :
    (s.pokeMem a l).msd.specDrop = s.msd.specDrop := rfl
@[simp] theorem pokeMem_msd_specErr (s : State) (a : Nat) (l : List Byte) : (s.pokeMem a l).msd.specErr = s.msd.specErr := rfl
@[simp] theorem pokeMem_rig (s : State) (a : Nat) (l : List Byte) : (s.pokeMem a l).rig = s.rig := rfl
@[simp] theorem pokeMem_look (s : State) (a : Nat) (l : List Byte) : (s.pokeMem a l).look = s.look := rfl
@[simp] theorem pokeMem_pow (s : State) (a : Nat) (l : List Byte) : (s.pokeMem a l).pow = s.pow := rfl
@[simp] theorem pokeMem_trace (s : State) (a : Nat) (l : List Byte) : (s.pokeMem a l).trace = s.trace := rfl

/-! ### setMark -/

@[simp] theorem setMark_pending (s : State) (a : Nat) (m : LineMark) : (s.setMark a m).pending = s.pending := rfl
@[simp] theorem setMark_freeCtr (s : State) (a : Nat) (m : LineMark) : (s.setMark a m).freeCtr = s.freeCtr := rfl
@[simp] theorem setMark_chip (s : State) (a : Nat) (m : LineMark) : (s.setMark a m).chip = s.chip := rfl
@[simp] theorem setMark_folds (s : State) (a : Nat) (m : LineMark) : (s.setMark a m).folds = s.folds := rfl
@[simp] theorem setMark_job (s : State) (a : Nat) (m : LineMark) : (s.setMark a m).job = s.job := rfl
@[simp] theorem setMark_saved (s : State) (a : Nat) (m : LineMark) : (s.setMark a m).saved = s.saved := rfl
@[simp] theorem setMark_moving (s : State) (a : Nat) (m : LineMark) : (s.setMark a m).moving = s.moving := rfl
@[simp] theorem setMark_host (s : State) (a : Nat) (m : LineMark) : (s.setMark a m).host = s.host := rfl
@[simp] theorem setMark_dict (s : State) (a : Nat) (m : LineMark) : (s.setMark a m).dict = s.dict := rfl
@[simp] theorem setMark_msd_mem (s : State) (a : Nat) (m : LineMark) : (s.setMark a m).msd.mem = s.msd.mem := rfl
@[simp] theorem setMark_msd_lineErr (s : State) (a : Nat) (m : LineMark) :
    (s.setMark a m).msd.lineErr = put (0, false) s.msd.lineErr (a / 64) m := rfl
@[simp] theorem setMark_msd_devReads (s : State) (a : Nat) (m : LineMark) : (s.setMark a m).msd.devReads = s.msd.devReads := rfl
@[simp] theorem setMark_msd_config (s : State) (a : Nat) (m : LineMark) : (s.setMark a m).msd.config = s.msd.config := rfl
@[simp] theorem setMark_msd_rawGiB (s : State) (a : Nat) (m : LineMark) : (s.setMark a m).msd.rawGiB = s.msd.rawGiB := rfl
@[simp] theorem setMark_msd_rate (s : State) (a : Nat) (m : LineMark) : (s.setMark a m).msd.rate = s.msd.rate := rfl
@[simp] theorem setMark_msd_rateNow (s : State) (a : Nat) (m : LineMark) : (s.setMark a m).msd.rateNow = s.msd.rateNow := rfl
@[simp] theorem setMark_msd_fullNow (s : State) (a : Nat) (m : LineMark) : (s.setMark a m).msd.fullNow = s.msd.fullNow := rfl
@[simp] theorem setMark_msd_trainKind (s : State) (a : Nat) (m : LineMark) :
    (s.setMark a m).msd.trainKind = s.msd.trainKind := rfl
@[simp] theorem setMark_msd_trainMs (s : State) (a : Nat) (m : LineMark) : (s.setMark a m).msd.trainMs = s.msd.trainMs := rfl
@[simp] theorem setMark_msd_recWriting (s : State) (a : Nat) (m : LineMark) :
    (s.setMark a m).msd.recWriting = s.msd.recWriting := rfl
@[simp] theorem setMark_msd_split (s : State) (a : Nat) (m : LineMark) : (s.setMark a m).msd.split = s.msd.split := rfl
@[simp] theorem setMark_msd_ports (s : State) (a : Nat) (m : LineMark) : (s.setMark a m).msd.ports = s.msd.ports := rfl
@[simp] theorem setMark_msd_corrected (s : State) (a : Nat) (m : LineMark) :
    (s.setMark a m).msd.corrected = s.msd.corrected := rfl
@[simp] theorem setMark_msd_uncorrected (s : State) (a : Nat) (m : LineMark) :
    (s.setMark a m).msd.uncorrected = s.msd.uncorrected := rfl
@[simp] theorem setMark_msd_threshold (s : State) (a : Nat) (m : LineMark) :
    (s.setMark a m).msd.threshold = s.msd.threshold := rfl
@[simp] theorem setMark_msd_scrubPass (s : State) (a : Nat) (m : LineMark) :
    (s.setMark a m).msd.scrubPass = s.msd.scrubPass := rfl
@[simp] theorem setMark_msd_lastAddr (s : State) (a : Nat) (m : LineMark) : (s.setMark a m).msd.lastAddr = s.msd.lastAddr := rfl
@[simp] theorem setMark_msd_lastDetail (s : State) (a : Nat) (m : LineMark) :
    (s.setMark a m).msd.lastDetail = s.msd.lastDetail := rfl
@[simp] theorem setMark_msd_eccSingle (s : State) (a : Nat) (m : LineMark) :
    (s.setMark a m).msd.eccSingle = s.msd.eccSingle := rfl
@[simp] theorem setMark_msd_eccDouble (s : State) (a : Nat) (m : LineMark) :
    (s.setMark a m).msd.eccDouble = s.msd.eccDouble := rfl
@[simp] theorem setMark_msd_streams (s : State) (a : Nat) (m : LineMark) : (s.setMark a m).msd.streams = s.msd.streams := rfl
@[simp] theorem setMark_msd_streamN (s : State) (a : Nat) (m : LineMark) : (s.setMark a m).msd.streamN = s.msd.streamN := rfl
@[simp] theorem setMark_msd_stages (s : State) (a : Nat) (m : LineMark) : (s.setMark a m).msd.stages = s.msd.stages := rfl
@[simp] theorem setMark_msd_claims (s : State) (a : Nat) (m : LineMark) : (s.setMark a m).msd.claims = s.msd.claims := rfl
@[simp] theorem setMark_msd_serves (s : State) (a : Nat) (m : LineMark) : (s.setMark a m).msd.serves = s.msd.serves := rfl
@[simp] theorem setMark_msd_specHit (s : State) (a : Nat) (m : LineMark) : (s.setMark a m).msd.specHit = s.msd.specHit := rfl
@[simp] theorem setMark_msd_specMiss (s : State) (a : Nat) (m : LineMark) : (s.setMark a m).msd.specMiss = s.msd.specMiss := rfl
@[simp] theorem setMark_msd_specDrop (s : State) (a : Nat) (m : LineMark) : (s.setMark a m).msd.specDrop = s.msd.specDrop := rfl
@[simp] theorem setMark_msd_specErr (s : State) (a : Nat) (m : LineMark) : (s.setMark a m).msd.specErr = s.msd.specErr := rfl
@[simp] theorem setMark_rig (s : State) (a : Nat) (m : LineMark) : (s.setMark a m).rig = s.rig := rfl
@[simp] theorem setMark_look (s : State) (a : Nat) (m : LineMark) : (s.setMark a m).look = s.look := rfl
@[simp] theorem setMark_pow (s : State) (a : Nat) (m : LineMark) : (s.setMark a m).pow = s.pow := rfl
@[simp] theorem setMark_trace (s : State) (a : Nat) (m : LineMark) : (s.setMark a m).trace = s.trace := rfl

/-! ### setPort -/

@[simp] theorem setPort_pending (s : State) (p : Nat) (x : Port) : (s.setPort p x).pending = s.pending := rfl
@[simp] theorem setPort_freeCtr (s : State) (p : Nat) (x : Port) : (s.setPort p x).freeCtr = s.freeCtr := rfl
@[simp] theorem setPort_chip (s : State) (p : Nat) (x : Port) : (s.setPort p x).chip = s.chip := rfl
@[simp] theorem setPort_folds (s : State) (p : Nat) (x : Port) : (s.setPort p x).folds = s.folds := rfl
@[simp] theorem setPort_job (s : State) (p : Nat) (x : Port) : (s.setPort p x).job = s.job := rfl
@[simp] theorem setPort_saved (s : State) (p : Nat) (x : Port) : (s.setPort p x).saved = s.saved := rfl
@[simp] theorem setPort_moving (s : State) (p : Nat) (x : Port) : (s.setPort p x).moving = s.moving := rfl
@[simp] theorem setPort_host (s : State) (p : Nat) (x : Port) : (s.setPort p x).host = s.host := rfl
@[simp] theorem setPort_dict (s : State) (p : Nat) (x : Port) : (s.setPort p x).dict = s.dict := rfl
@[simp] theorem setPort_msd_mem (s : State) (p : Nat) (x : Port) : (s.setPort p x).msd.mem = s.msd.mem := rfl
@[simp] theorem setPort_msd_lineErr (s : State) (p : Nat) (x : Port) : (s.setPort p x).msd.lineErr = s.msd.lineErr := rfl
@[simp] theorem setPort_msd_devReads (s : State) (p : Nat) (x : Port) : (s.setPort p x).msd.devReads = s.msd.devReads := rfl
@[simp] theorem setPort_msd_config (s : State) (p : Nat) (x : Port) : (s.setPort p x).msd.config = s.msd.config := rfl
@[simp] theorem setPort_msd_rawGiB (s : State) (p : Nat) (x : Port) : (s.setPort p x).msd.rawGiB = s.msd.rawGiB := rfl
@[simp] theorem setPort_msd_rate (s : State) (p : Nat) (x : Port) : (s.setPort p x).msd.rate = s.msd.rate := rfl
@[simp] theorem setPort_msd_rateNow (s : State) (p : Nat) (x : Port) : (s.setPort p x).msd.rateNow = s.msd.rateNow := rfl
@[simp] theorem setPort_msd_fullNow (s : State) (p : Nat) (x : Port) : (s.setPort p x).msd.fullNow = s.msd.fullNow := rfl
@[simp] theorem setPort_msd_trainKind (s : State) (p : Nat) (x : Port) : (s.setPort p x).msd.trainKind = s.msd.trainKind := rfl
@[simp] theorem setPort_msd_trainMs (s : State) (p : Nat) (x : Port) : (s.setPort p x).msd.trainMs = s.msd.trainMs := rfl
@[simp] theorem setPort_msd_recWriting (s : State) (p : Nat) (x : Port) :
    (s.setPort p x).msd.recWriting = s.msd.recWriting := rfl
@[simp] theorem setPort_msd_split (s : State) (p : Nat) (x : Port) : (s.setPort p x).msd.split = s.msd.split := rfl
@[simp] theorem setPort_msd_ports (s : State) (p : Nat) (x : Port) :
    (s.setPort p x).msd.ports = put Port.init s.msd.ports p x := rfl
@[simp] theorem setPort_msd_corrected (s : State) (p : Nat) (x : Port) : (s.setPort p x).msd.corrected = s.msd.corrected := rfl
@[simp] theorem setPort_msd_uncorrected (s : State) (p : Nat) (x : Port) :
    (s.setPort p x).msd.uncorrected = s.msd.uncorrected := rfl
@[simp] theorem setPort_msd_threshold (s : State) (p : Nat) (x : Port) : (s.setPort p x).msd.threshold = s.msd.threshold := rfl
@[simp] theorem setPort_msd_scrubPass (s : State) (p : Nat) (x : Port) : (s.setPort p x).msd.scrubPass = s.msd.scrubPass := rfl
@[simp] theorem setPort_msd_lastAddr (s : State) (p : Nat) (x : Port) : (s.setPort p x).msd.lastAddr = s.msd.lastAddr := rfl
@[simp] theorem setPort_msd_lastDetail (s : State) (p : Nat) (x : Port) :
    (s.setPort p x).msd.lastDetail = s.msd.lastDetail := rfl
@[simp] theorem setPort_msd_eccSingle (s : State) (p : Nat) (x : Port) : (s.setPort p x).msd.eccSingle = s.msd.eccSingle := rfl
@[simp] theorem setPort_msd_eccDouble (s : State) (p : Nat) (x : Port) : (s.setPort p x).msd.eccDouble = s.msd.eccDouble := rfl
@[simp] theorem setPort_msd_streams (s : State) (p : Nat) (x : Port) : (s.setPort p x).msd.streams = s.msd.streams := rfl
@[simp] theorem setPort_msd_streamN (s : State) (p : Nat) (x : Port) : (s.setPort p x).msd.streamN = s.msd.streamN := rfl
@[simp] theorem setPort_msd_stages (s : State) (p : Nat) (x : Port) : (s.setPort p x).msd.stages = s.msd.stages := rfl
@[simp] theorem setPort_msd_claims (s : State) (p : Nat) (x : Port) : (s.setPort p x).msd.claims = s.msd.claims := rfl
@[simp] theorem setPort_msd_serves (s : State) (p : Nat) (x : Port) : (s.setPort p x).msd.serves = s.msd.serves := rfl
@[simp] theorem setPort_msd_specHit (s : State) (p : Nat) (x : Port) : (s.setPort p x).msd.specHit = s.msd.specHit := rfl
@[simp] theorem setPort_msd_specMiss (s : State) (p : Nat) (x : Port) : (s.setPort p x).msd.specMiss = s.msd.specMiss := rfl
@[simp] theorem setPort_msd_specDrop (s : State) (p : Nat) (x : Port) : (s.setPort p x).msd.specDrop = s.msd.specDrop := rfl
@[simp] theorem setPort_msd_specErr (s : State) (p : Nat) (x : Port) : (s.setPort p x).msd.specErr = s.msd.specErr := rfl
@[simp] theorem setPort_rig (s : State) (p : Nat) (x : Port) : (s.setPort p x).rig = s.rig := rfl
@[simp] theorem setPort_look (s : State) (p : Nat) (x : Port) : (s.setPort p x).look = s.look := rfl
@[simp] theorem setPort_pow (s : State) (p : Nat) (x : Port) : (s.setPort p x).pow = s.pow := rfl
@[simp] theorem setPort_trace (s : State) (p : Nat) (x : Port) : (s.setPort p x).trace = s.trace := rfl

/-! ### setStage -/

@[simp] theorem setStage_pending (s : State) (k : Nat) (g : Option Stage) : (s.setStage k g).pending = s.pending := rfl
@[simp] theorem setStage_freeCtr (s : State) (k : Nat) (g : Option Stage) : (s.setStage k g).freeCtr = s.freeCtr := rfl
@[simp] theorem setStage_chip (s : State) (k : Nat) (g : Option Stage) : (s.setStage k g).chip = s.chip := rfl
@[simp] theorem setStage_folds (s : State) (k : Nat) (g : Option Stage) : (s.setStage k g).folds = s.folds := rfl
@[simp] theorem setStage_job (s : State) (k : Nat) (g : Option Stage) : (s.setStage k g).job = s.job := rfl
@[simp] theorem setStage_saved (s : State) (k : Nat) (g : Option Stage) : (s.setStage k g).saved = s.saved := rfl
@[simp] theorem setStage_moving (s : State) (k : Nat) (g : Option Stage) : (s.setStage k g).moving = s.moving := rfl
@[simp] theorem setStage_host (s : State) (k : Nat) (g : Option Stage) : (s.setStage k g).host = s.host := rfl
@[simp] theorem setStage_dict (s : State) (k : Nat) (g : Option Stage) : (s.setStage k g).dict = s.dict := rfl
@[simp] theorem setStage_msd_mem (s : State) (k : Nat) (g : Option Stage) : (s.setStage k g).msd.mem = s.msd.mem := rfl
@[simp] theorem setStage_msd_lineErr (s : State) (k : Nat) (g : Option Stage) :
    (s.setStage k g).msd.lineErr = s.msd.lineErr := rfl
@[simp] theorem setStage_msd_devReads (s : State) (k : Nat) (g : Option Stage) :
    (s.setStage k g).msd.devReads = s.msd.devReads := rfl
@[simp] theorem setStage_msd_config (s : State) (k : Nat) (g : Option Stage) : (s.setStage k g).msd.config = s.msd.config := rfl
@[simp] theorem setStage_msd_rawGiB (s : State) (k : Nat) (g : Option Stage) : (s.setStage k g).msd.rawGiB = s.msd.rawGiB := rfl
@[simp] theorem setStage_msd_rate (s : State) (k : Nat) (g : Option Stage) : (s.setStage k g).msd.rate = s.msd.rate := rfl
@[simp] theorem setStage_msd_rateNow (s : State) (k : Nat) (g : Option Stage) :
    (s.setStage k g).msd.rateNow = s.msd.rateNow := rfl
@[simp] theorem setStage_msd_fullNow (s : State) (k : Nat) (g : Option Stage) :
    (s.setStage k g).msd.fullNow = s.msd.fullNow := rfl
@[simp] theorem setStage_msd_trainKind (s : State) (k : Nat) (g : Option Stage) :
    (s.setStage k g).msd.trainKind = s.msd.trainKind := rfl
@[simp] theorem setStage_msd_trainMs (s : State) (k : Nat) (g : Option Stage) :
    (s.setStage k g).msd.trainMs = s.msd.trainMs := rfl
@[simp] theorem setStage_msd_recWriting (s : State) (k : Nat) (g : Option Stage) :
    (s.setStage k g).msd.recWriting = s.msd.recWriting := rfl
@[simp] theorem setStage_msd_split (s : State) (k : Nat) (g : Option Stage) : (s.setStage k g).msd.split = s.msd.split := rfl
@[simp] theorem setStage_msd_ports (s : State) (k : Nat) (g : Option Stage) : (s.setStage k g).msd.ports = s.msd.ports := rfl
@[simp] theorem setStage_msd_corrected (s : State) (k : Nat) (g : Option Stage) :
    (s.setStage k g).msd.corrected = s.msd.corrected := rfl
@[simp] theorem setStage_msd_uncorrected (s : State) (k : Nat) (g : Option Stage) :
    (s.setStage k g).msd.uncorrected = s.msd.uncorrected := rfl
@[simp] theorem setStage_msd_threshold (s : State) (k : Nat) (g : Option Stage) :
    (s.setStage k g).msd.threshold = s.msd.threshold := rfl
@[simp] theorem setStage_msd_scrubPass (s : State) (k : Nat) (g : Option Stage) :
    (s.setStage k g).msd.scrubPass = s.msd.scrubPass := rfl
@[simp] theorem setStage_msd_lastAddr (s : State) (k : Nat) (g : Option Stage) :
    (s.setStage k g).msd.lastAddr = s.msd.lastAddr := rfl
@[simp] theorem setStage_msd_lastDetail (s : State) (k : Nat) (g : Option Stage) :
    (s.setStage k g).msd.lastDetail = s.msd.lastDetail := rfl
@[simp] theorem setStage_msd_eccSingle (s : State) (k : Nat) (g : Option Stage) :
    (s.setStage k g).msd.eccSingle = s.msd.eccSingle := rfl
@[simp] theorem setStage_msd_eccDouble (s : State) (k : Nat) (g : Option Stage) :
    (s.setStage k g).msd.eccDouble = s.msd.eccDouble := rfl
@[simp] theorem setStage_msd_streams (s : State) (k : Nat) (g : Option Stage) :
    (s.setStage k g).msd.streams = s.msd.streams := rfl
@[simp] theorem setStage_msd_streamN (s : State) (k : Nat) (g : Option Stage) :
    (s.setStage k g).msd.streamN = s.msd.streamN := rfl
@[simp] theorem setStage_msd_stages (s : State) (k : Nat) (g : Option Stage) :
    (s.setStage k g).msd.stages = put none s.msd.stages k g := rfl
@[simp] theorem setStage_msd_claims (s : State) (k : Nat) (g : Option Stage) : (s.setStage k g).msd.claims = s.msd.claims := rfl
@[simp] theorem setStage_msd_serves (s : State) (k : Nat) (g : Option Stage) : (s.setStage k g).msd.serves = s.msd.serves := rfl
@[simp] theorem setStage_msd_specHit (s : State) (k : Nat) (g : Option Stage) :
    (s.setStage k g).msd.specHit = s.msd.specHit := rfl
@[simp] theorem setStage_msd_specMiss (s : State) (k : Nat) (g : Option Stage) :
    (s.setStage k g).msd.specMiss = s.msd.specMiss := rfl
@[simp] theorem setStage_msd_specDrop (s : State) (k : Nat) (g : Option Stage) :
    (s.setStage k g).msd.specDrop = s.msd.specDrop := rfl
@[simp] theorem setStage_msd_specErr (s : State) (k : Nat) (g : Option Stage) :
    (s.setStage k g).msd.specErr = s.msd.specErr := rfl
@[simp] theorem setStage_rig (s : State) (k : Nat) (g : Option Stage) : (s.setStage k g).rig = s.rig := rfl
@[simp] theorem setStage_look (s : State) (k : Nat) (g : Option Stage) : (s.setStage k g).look = s.look := rfl
@[simp] theorem setStage_pow (s : State) (k : Nat) (g : Option Stage) : (s.setStage k g).pow = s.pow := rfl
@[simp] theorem setStage_trace (s : State) (k : Nat) (g : Option Stage) : (s.setStage k g).trace = s.trace := rfl

/-! ### setStream -/

@[simp] theorem setStream_pending (s : State) (v : Stream) : (s.setStream v).pending = s.pending := rfl
@[simp] theorem setStream_freeCtr (s : State) (v : Stream) : (s.setStream v).freeCtr = s.freeCtr := rfl
@[simp] theorem setStream_chip (s : State) (v : Stream) : (s.setStream v).chip = s.chip := rfl
@[simp] theorem setStream_folds (s : State) (v : Stream) : (s.setStream v).folds = s.folds := rfl
@[simp] theorem setStream_job (s : State) (v : Stream) : (s.setStream v).job = s.job := rfl
@[simp] theorem setStream_saved (s : State) (v : Stream) : (s.setStream v).saved = s.saved := rfl
@[simp] theorem setStream_moving (s : State) (v : Stream) : (s.setStream v).moving = s.moving := rfl
@[simp] theorem setStream_host (s : State) (v : Stream) : (s.setStream v).host = s.host := rfl
@[simp] theorem setStream_dict (s : State) (v : Stream) : (s.setStream v).dict = s.dict := rfl
@[simp] theorem setStream_msd_mem (s : State) (v : Stream) : (s.setStream v).msd.mem = s.msd.mem := rfl
@[simp] theorem setStream_msd_lineErr (s : State) (v : Stream) : (s.setStream v).msd.lineErr = s.msd.lineErr := rfl
@[simp] theorem setStream_msd_devReads (s : State) (v : Stream) : (s.setStream v).msd.devReads = s.msd.devReads := rfl
@[simp] theorem setStream_msd_config (s : State) (v : Stream) : (s.setStream v).msd.config = s.msd.config := rfl
@[simp] theorem setStream_msd_rawGiB (s : State) (v : Stream) : (s.setStream v).msd.rawGiB = s.msd.rawGiB := rfl
@[simp] theorem setStream_msd_rate (s : State) (v : Stream) : (s.setStream v).msd.rate = s.msd.rate := rfl
@[simp] theorem setStream_msd_rateNow (s : State) (v : Stream) : (s.setStream v).msd.rateNow = s.msd.rateNow := rfl
@[simp] theorem setStream_msd_fullNow (s : State) (v : Stream) : (s.setStream v).msd.fullNow = s.msd.fullNow := rfl
@[simp] theorem setStream_msd_trainKind (s : State) (v : Stream) : (s.setStream v).msd.trainKind = s.msd.trainKind := rfl
@[simp] theorem setStream_msd_trainMs (s : State) (v : Stream) : (s.setStream v).msd.trainMs = s.msd.trainMs := rfl
@[simp] theorem setStream_msd_recWriting (s : State) (v : Stream) : (s.setStream v).msd.recWriting = s.msd.recWriting := rfl
@[simp] theorem setStream_msd_split (s : State) (v : Stream) : (s.setStream v).msd.split = s.msd.split := rfl
@[simp] theorem setStream_msd_ports (s : State) (v : Stream) : (s.setStream v).msd.ports = s.msd.ports := rfl
@[simp] theorem setStream_msd_corrected (s : State) (v : Stream) : (s.setStream v).msd.corrected = s.msd.corrected := rfl
@[simp] theorem setStream_msd_uncorrected (s : State) (v : Stream) : (s.setStream v).msd.uncorrected = s.msd.uncorrected := rfl
@[simp] theorem setStream_msd_threshold (s : State) (v : Stream) : (s.setStream v).msd.threshold = s.msd.threshold := rfl
@[simp] theorem setStream_msd_scrubPass (s : State) (v : Stream) : (s.setStream v).msd.scrubPass = s.msd.scrubPass := rfl
@[simp] theorem setStream_msd_lastAddr (s : State) (v : Stream) : (s.setStream v).msd.lastAddr = s.msd.lastAddr := rfl
@[simp] theorem setStream_msd_lastDetail (s : State) (v : Stream) : (s.setStream v).msd.lastDetail = s.msd.lastDetail := rfl
@[simp] theorem setStream_msd_eccSingle (s : State) (v : Stream) : (s.setStream v).msd.eccSingle = s.msd.eccSingle := rfl
@[simp] theorem setStream_msd_eccDouble (s : State) (v : Stream) : (s.setStream v).msd.eccDouble = s.msd.eccDouble := rfl
@[simp] theorem setStream_msd_streams (s : State) (v : Stream) :
    (s.setStream v).msd.streams = s.msd.streams.map fun w => if w.die = v.die ∧ w.id = v.id then v else w := rfl
@[simp] theorem setStream_msd_streamN (s : State) (v : Stream) : (s.setStream v).msd.streamN = s.msd.streamN := rfl
@[simp] theorem setStream_msd_stages (s : State) (v : Stream) : (s.setStream v).msd.stages = s.msd.stages := rfl
@[simp] theorem setStream_msd_claims (s : State) (v : Stream) : (s.setStream v).msd.claims = s.msd.claims := rfl
@[simp] theorem setStream_msd_serves (s : State) (v : Stream) : (s.setStream v).msd.serves = s.msd.serves := rfl
@[simp] theorem setStream_msd_specHit (s : State) (v : Stream) : (s.setStream v).msd.specHit = s.msd.specHit := rfl
@[simp] theorem setStream_msd_specMiss (s : State) (v : Stream) : (s.setStream v).msd.specMiss = s.msd.specMiss := rfl
@[simp] theorem setStream_msd_specDrop (s : State) (v : Stream) : (s.setStream v).msd.specDrop = s.msd.specDrop := rfl
@[simp] theorem setStream_msd_specErr (s : State) (v : Stream) : (s.setStream v).msd.specErr = s.msd.specErr := rfl
@[simp] theorem setStream_rig (s : State) (v : Stream) : (s.setStream v).rig = s.rig := rfl
@[simp] theorem setStream_look (s : State) (v : Stream) : (s.setStream v).look = s.look := rfl
@[simp] theorem setStream_pow (s : State) (v : Stream) : (s.setStream v).pow = s.pow := rfl
@[simp] theorem setStream_trace (s : State) (v : Stream) : (s.setStream v).trace = s.trace := rfl

/-! ### pokeHost -/

@[simp] theorem pokeHost_pending (s : State) (a : Nat) (l : List Byte) : (s.pokeHost a l).pending = s.pending := rfl
@[simp] theorem pokeHost_freeCtr (s : State) (a : Nat) (l : List Byte) : (s.pokeHost a l).freeCtr = s.freeCtr := rfl
@[simp] theorem pokeHost_chip (s : State) (a : Nat) (l : List Byte) : (s.pokeHost a l).chip = s.chip := rfl
@[simp] theorem pokeHost_folds (s : State) (a : Nat) (l : List Byte) : (s.pokeHost a l).folds = s.folds := rfl
@[simp] theorem pokeHost_job (s : State) (a : Nat) (l : List Byte) : (s.pokeHost a l).job = s.job := rfl
@[simp] theorem pokeHost_saved (s : State) (a : Nat) (l : List Byte) : (s.pokeHost a l).saved = s.saved := rfl
@[simp] theorem pokeHost_moving (s : State) (a : Nat) (l : List Byte) : (s.pokeHost a l).moving = s.moving := rfl
@[simp] theorem pokeHost_host_rings (s : State) (a : Nat) (l : List Byte) : (s.pokeHost a l).host.rings = s.host.rings := rfl
@[simp] theorem pokeHost_host_comp (s : State) (a : Nat) (l : List Byte) : (s.pokeHost a l).host.comp = s.host.comp := rfl
@[simp] theorem pokeHost_host_compPhase (s : State) (a : Nat) (l : List Byte) :
    (s.pokeHost a l).host.compPhase = s.host.compPhase := rfl
@[simp] theorem pokeHost_host_compWait (s : State) (a : Nat) (l : List Byte) :
    (s.pokeHost a l).host.compWait = s.host.compWait := rfl
@[simp] theorem pokeHost_host_heartbeat (s : State) (a : Nat) (l : List Byte) :
    (s.pokeHost a l).host.heartbeat = s.host.heartbeat := rfl
@[simp] theorem pokeHost_host_skipped (s : State) (a : Nat) (l : List Byte) :
    (s.pokeHost a l).host.skipped = s.host.skipped := rfl
@[simp] theorem pokeHost_host_preempts (s : State) (a : Nat) (l : List Byte) :
    (s.pokeHost a l).host.preempts = s.host.preempts := rfl
@[simp] theorem pokeHost_host_resumes (s : State) (a : Nat) (l : List Byte) :
    (s.pokeHost a l).host.resumes = s.host.resumes := rfl
@[simp] theorem pokeHost_host_windows (s : State) (a : Nat) (l : List Byte) :
    (s.pokeHost a l).host.windows = s.host.windows := rfl
@[simp] theorem pokeHost_host_snoop (s : State) (a : Nat) (l : List Byte) : (s.pokeHost a l).host.snoop = s.host.snoop := rfl
@[simp] theorem pokeHost_host_pageTimeout (s : State) (a : Nat) (l : List Byte) :
    (s.pokeHost a l).host.pageTimeout = s.host.pageTimeout := rfl
@[simp] theorem pokeHost_host_pageReqs (s : State) (a : Nat) (l : List Byte) :
    (s.pokeHost a l).host.pageReqs = s.host.pageReqs := rfl
@[simp] theorem pokeHost_host_misses (s : State) (a : Nat) (l : List Byte) : (s.pokeHost a l).host.misses = s.host.misses := rfl
@[simp] theorem pokeHost_host_tt (s : State) (a : Nat) (l : List Byte) : (s.pokeHost a l).host.tt = s.host.tt := rfl
@[simp] theorem pokeHost_host_victim (s : State) (a : Nat) (l : List Byte) : (s.pokeHost a l).host.victim = s.host.victim := rfl
@[simp] theorem pokeHost_host_ats (s : State) (a : Nat) (l : List Byte) : (s.pokeHost a l).host.ats = s.host.ats := rfl
@[simp] theorem pokeHost_host_pri (s : State) (a : Nat) (l : List Byte) : (s.pokeHost a l).host.pri = s.host.pri := rfl
@[simp] theorem pokeHost_host_cxlOut (s : State) (a : Nat) (l : List Byte) : (s.pokeHost a l).host.cxlOut = s.host.cxlOut := rfl
@[simp] theorem pokeHost_host_hdmBase (s : State) (a : Nat) (l : List Byte) :
    (s.pokeHost a l).host.hdmBase = s.host.hdmBase := rfl
@[simp] theorem pokeHost_host_listPasid (s : State) (a : Nat) (l : List Byte) :
    (s.pokeHost a l).host.listPasid = s.host.listPasid := rfl
@[simp] theorem pokeHost_host_invDone (s : State) (a : Nat) (l : List Byte) :
    (s.pokeHost a l).host.invDone = s.host.invDone := rfl
@[simp] theorem pokeHost_host_lastSeq (s : State) (a : Nat) (l : List Byte) :
    (s.pokeHost a l).host.lastSeq = s.host.lastSeq := rfl
@[simp] theorem pokeHost_host_hostMem (s : State) (a : Nat) (l : List Byte) :
    (s.pokeHost a l).host.hostMem = putRun memDefault s.host.hostMem a l := rfl
@[simp] theorem pokeHost_dict (s : State) (a : Nat) (l : List Byte) : (s.pokeHost a l).dict = s.dict := rfl
@[simp] theorem pokeHost_msd (s : State) (a : Nat) (l : List Byte) : (s.pokeHost a l).msd = s.msd := rfl
@[simp] theorem pokeHost_rig (s : State) (a : Nat) (l : List Byte) : (s.pokeHost a l).rig = s.rig := rfl
@[simp] theorem pokeHost_look (s : State) (a : Nat) (l : List Byte) : (s.pokeHost a l).look = s.look := rfl
@[simp] theorem pokeHost_pow (s : State) (a : Nat) (l : List Byte) : (s.pokeHost a l).pow = s.pow := rfl
@[simp] theorem pokeHost_trace (s : State) (a : Nat) (l : List Byte) : (s.pokeHost a l).trace = s.trace := rfl

/-! ### setRing -/

@[simp] theorem setRing_pending (s : State) (p : Nat) (r : Ring) : (s.setRing p r).pending = s.pending := rfl
@[simp] theorem setRing_freeCtr (s : State) (p : Nat) (r : Ring) : (s.setRing p r).freeCtr = s.freeCtr := rfl
@[simp] theorem setRing_chip (s : State) (p : Nat) (r : Ring) : (s.setRing p r).chip = s.chip := rfl
@[simp] theorem setRing_folds (s : State) (p : Nat) (r : Ring) : (s.setRing p r).folds = s.folds := rfl
@[simp] theorem setRing_job (s : State) (p : Nat) (r : Ring) : (s.setRing p r).job = s.job := rfl
@[simp] theorem setRing_saved (s : State) (p : Nat) (r : Ring) : (s.setRing p r).saved = s.saved := rfl
@[simp] theorem setRing_moving (s : State) (p : Nat) (r : Ring) : (s.setRing p r).moving = s.moving := rfl
@[simp] theorem setRing_host_rings (s : State) (p : Nat) (r : Ring) :
    (s.setRing p r).host.rings = put Ring.init s.host.rings p r := rfl
@[simp] theorem setRing_host_comp (s : State) (p : Nat) (r : Ring) : (s.setRing p r).host.comp = s.host.comp := rfl
@[simp] theorem setRing_host_compPhase (s : State) (p : Nat) (r : Ring) :
    (s.setRing p r).host.compPhase = s.host.compPhase := rfl
@[simp] theorem setRing_host_compWait (s : State) (p : Nat) (r : Ring) : (s.setRing p r).host.compWait = s.host.compWait := rfl
@[simp] theorem setRing_host_heartbeat (s : State) (p : Nat) (r : Ring) :
    (s.setRing p r).host.heartbeat = s.host.heartbeat := rfl
@[simp] theorem setRing_host_skipped (s : State) (p : Nat) (r : Ring) : (s.setRing p r).host.skipped = s.host.skipped := rfl
@[simp] theorem setRing_host_preempts (s : State) (p : Nat) (r : Ring) : (s.setRing p r).host.preempts = s.host.preempts := rfl
@[simp] theorem setRing_host_resumes (s : State) (p : Nat) (r : Ring) : (s.setRing p r).host.resumes = s.host.resumes := rfl
@[simp] theorem setRing_host_windows (s : State) (p : Nat) (r : Ring) : (s.setRing p r).host.windows = s.host.windows := rfl
@[simp] theorem setRing_host_snoop (s : State) (p : Nat) (r : Ring) : (s.setRing p r).host.snoop = s.host.snoop := rfl
@[simp] theorem setRing_host_pageTimeout (s : State) (p : Nat) (r : Ring) :
    (s.setRing p r).host.pageTimeout = s.host.pageTimeout := rfl
@[simp] theorem setRing_host_pageReqs (s : State) (p : Nat) (r : Ring) : (s.setRing p r).host.pageReqs = s.host.pageReqs := rfl
@[simp] theorem setRing_host_misses (s : State) (p : Nat) (r : Ring) : (s.setRing p r).host.misses = s.host.misses := rfl
@[simp] theorem setRing_host_tt (s : State) (p : Nat) (r : Ring) : (s.setRing p r).host.tt = s.host.tt := rfl
@[simp] theorem setRing_host_victim (s : State) (p : Nat) (r : Ring) : (s.setRing p r).host.victim = s.host.victim := rfl
@[simp] theorem setRing_host_ats (s : State) (p : Nat) (r : Ring) : (s.setRing p r).host.ats = s.host.ats := rfl
@[simp] theorem setRing_host_pri (s : State) (p : Nat) (r : Ring) : (s.setRing p r).host.pri = s.host.pri := rfl
@[simp] theorem setRing_host_cxlOut (s : State) (p : Nat) (r : Ring) : (s.setRing p r).host.cxlOut = s.host.cxlOut := rfl
@[simp] theorem setRing_host_hdmBase (s : State) (p : Nat) (r : Ring) : (s.setRing p r).host.hdmBase = s.host.hdmBase := rfl
@[simp] theorem setRing_host_listPasid (s : State) (p : Nat) (r : Ring) :
    (s.setRing p r).host.listPasid = s.host.listPasid := rfl
@[simp] theorem setRing_host_invDone (s : State) (p : Nat) (r : Ring) : (s.setRing p r).host.invDone = s.host.invDone := rfl
@[simp] theorem setRing_host_lastSeq (s : State) (p : Nat) (r : Ring) : (s.setRing p r).host.lastSeq = s.host.lastSeq := rfl
@[simp] theorem setRing_host_hostMem (s : State) (p : Nat) (r : Ring) : (s.setRing p r).host.hostMem = s.host.hostMem := rfl
@[simp] theorem setRing_dict (s : State) (p : Nat) (r : Ring) : (s.setRing p r).dict = s.dict := rfl
@[simp] theorem setRing_msd (s : State) (p : Nat) (r : Ring) : (s.setRing p r).msd = s.msd := rfl
@[simp] theorem setRing_rig (s : State) (p : Nat) (r : Ring) : (s.setRing p r).rig = s.rig := rfl
@[simp] theorem setRing_look (s : State) (p : Nat) (r : Ring) : (s.setRing p r).look = s.look := rfl
@[simp] theorem setRing_pow (s : State) (p : Nat) (r : Ring) : (s.setRing p r).pow = s.pow := rfl
@[simp] theorem setRing_trace (s : State) (p : Nat) (r : Ring) : (s.setRing p r).trace = s.trace := rfl

/-! ### setSlot -/

@[simp] theorem setSlot_pending (s : State) (n : Nat) (u : Slot) : (s.setSlot n u).pending = s.pending := rfl
@[simp] theorem setSlot_freeCtr (s : State) (n : Nat) (u : Slot) : (s.setSlot n u).freeCtr = s.freeCtr := rfl
@[simp] theorem setSlot_chip (s : State) (n : Nat) (u : Slot) : (s.setSlot n u).chip = s.chip := rfl
@[simp] theorem setSlot_folds (s : State) (n : Nat) (u : Slot) : (s.setSlot n u).folds = s.folds := rfl
@[simp] theorem setSlot_job (s : State) (n : Nat) (u : Slot) : (s.setSlot n u).job = s.job := rfl
@[simp] theorem setSlot_saved (s : State) (n : Nat) (u : Slot) : (s.setSlot n u).saved = s.saved := rfl
@[simp] theorem setSlot_moving (s : State) (n : Nat) (u : Slot) : (s.setSlot n u).moving = s.moving := rfl
@[simp] theorem setSlot_host (s : State) (n : Nat) (u : Slot) : (s.setSlot n u).host = s.host := rfl
@[simp] theorem setSlot_dict_status (s : State) (n : Nat) (u : Slot) : (s.setSlot n u).dict.status = s.dict.status := rfl
@[simp] theorem setSlot_dict_attMask (s : State) (n : Nat) (u : Slot) : (s.setSlot n u).dict.attMask = s.dict.attMask := rfl
@[simp] theorem setSlot_dict_setCount (s : State) (n : Nat) (u : Slot) : (s.setSlot n u).dict.setCount = s.dict.setCount := rfl
@[simp] theorem setSlot_dict_slots (s : State) (n : Nat) (u : Slot) :
    (s.setSlot n u).dict.slots = put Slot.init s.dict.slots n u := rfl
@[simp] theorem setSlot_dict_replies (s : State) (n : Nat) (u : Slot) : (s.setSlot n u).dict.replies = s.dict.replies := rfl
@[simp] theorem setSlot_dict_i3c (s : State) (n : Nat) (u : Slot) : (s.setSlot n u).dict.i3c = s.dict.i3c := rfl
@[simp] theorem setSlot_dict_satFault (s : State) (n : Nat) (u : Slot) : (s.setSlot n u).dict.satFault = s.dict.satFault := rfl
@[simp] theorem setSlot_dict_tallyHold (s : State) (n : Nat) (u : Slot) :
    (s.setSlot n u).dict.tallyHold = s.dict.tallyHold := rfl
@[simp] theorem setSlot_dict_checkCtr (s : State) (n : Nat) (u : Slot) : (s.setSlot n u).dict.checkCtr = s.dict.checkCtr := rfl
@[simp] theorem setSlot_dict_gpnIdle (s : State) (n : Nat) (u : Slot) : (s.setSlot n u).dict.gpnIdle = s.dict.gpnIdle := rfl
@[simp] theorem setSlot_dict_runs (s : State) (n : Nat) (u : Slot) : (s.setSlot n u).dict.runs = s.dict.runs := rfl
@[simp] theorem setSlot_dict_winOut (s : State) (n : Nat) (u : Slot) : (s.setSlot n u).dict.winOut = s.dict.winOut := rfl
@[simp] theorem setSlot_dict_passed (s : State) (n : Nat) (u : Slot) : (s.setSlot n u).dict.passed = s.dict.passed := rfl
@[simp] theorem setSlot_msd (s : State) (n : Nat) (u : Slot) : (s.setSlot n u).msd = s.msd := rfl
@[simp] theorem setSlot_rig (s : State) (n : Nat) (u : Slot) : (s.setSlot n u).rig = s.rig := rfl
@[simp] theorem setSlot_look (s : State) (n : Nat) (u : Slot) : (s.setSlot n u).look = s.look := rfl
@[simp] theorem setSlot_pow (s : State) (n : Nat) (u : Slot) : (s.setSlot n u).pow = s.pow := rfl
@[simp] theorem setSlot_trace (s : State) (n : Nat) (u : Slot) : (s.setSlot n u).trace = s.trace := rfl

/-! ### setQuad -/

@[simp] theorem setQuad_pending (s : State) (q : Nat) (u : Quad) : (s.setQuad q u).pending = s.pending := rfl
@[simp] theorem setQuad_freeCtr (s : State) (q : Nat) (u : Quad) : (s.setQuad q u).freeCtr = s.freeCtr := rfl
@[simp] theorem setQuad_chip (s : State) (q : Nat) (u : Quad) : (s.setQuad q u).chip = s.chip := rfl
@[simp] theorem setQuad_folds (s : State) (q : Nat) (u : Quad) : (s.setQuad q u).folds = s.folds := rfl
@[simp] theorem setQuad_job (s : State) (q : Nat) (u : Quad) : (s.setQuad q u).job = s.job := rfl
@[simp] theorem setQuad_saved (s : State) (q : Nat) (u : Quad) : (s.setQuad q u).saved = s.saved := rfl
@[simp] theorem setQuad_moving (s : State) (q : Nat) (u : Quad) : (s.setQuad q u).moving = s.moving := rfl
@[simp] theorem setQuad_host (s : State) (q : Nat) (u : Quad) : (s.setQuad q u).host = s.host := rfl
@[simp] theorem setQuad_dict (s : State) (q : Nat) (u : Quad) : (s.setQuad q u).dict = s.dict := rfl
@[simp] theorem setQuad_msd (s : State) (q : Nat) (u : Quad) : (s.setQuad q u).msd = s.msd := rfl
@[simp] theorem setQuad_rig (s : State) (q : Nat) (u : Quad) : (s.setQuad q u).rig = s.rig := rfl
@[simp] theorem setQuad_look (s : State) (q : Nat) (u : Quad) : (s.setQuad q u).look = s.look := rfl
@[simp] theorem setQuad_pow_pkgCap (s : State) (q : Nat) (u : Quad) : (s.setQuad q u).pow.pkgCap = s.pow.pkgCap := rfl
@[simp] theorem setQuad_pow_spread (s : State) (q : Nat) (u : Quad) : (s.setQuad q u).pow.spread = s.pow.spread := rfl
@[simp] theorem setQuad_pow_quads (s : State) (q : Nat) (u : Quad) :
    (s.setQuad q u).pow.quads = put Quad.init s.pow.quads q u := rfl
@[simp] theorem setQuad_pow_overCtr (s : State) (q : Nat) (u : Quad) : (s.setQuad q u).pow.overCtr = s.pow.overCtr := rfl
@[simp] theorem setQuad_pow_warnJ (s : State) (q : Nat) (u : Quad) : (s.setQuad q u).pow.warnJ = s.pow.warnJ := rfl
@[simp] theorem setQuad_pow_warnM (s : State) (q : Nat) (u : Quad) : (s.setQuad q u).pow.warnM = s.pow.warnM := rfl
@[simp] theorem setQuad_trace (s : State) (q : Nat) (u : Quad) : (s.setQuad q u).trace = s.trace := rfl

/-! ### setLink -/

@[simp] theorem setLink_pending (s : State) (l : Nat) (k : Link) : (s.setLink l k).pending = s.pending := rfl
@[simp] theorem setLink_freeCtr (s : State) (l : Nat) (k : Link) : (s.setLink l k).freeCtr = s.freeCtr := rfl
@[simp] theorem setLink_chip (s : State) (l : Nat) (k : Link) : (s.setLink l k).chip = s.chip := rfl
@[simp] theorem setLink_folds (s : State) (l : Nat) (k : Link) : (s.setLink l k).folds = s.folds := rfl
@[simp] theorem setLink_job (s : State) (l : Nat) (k : Link) : (s.setLink l k).job = s.job := rfl
@[simp] theorem setLink_saved (s : State) (l : Nat) (k : Link) : (s.setLink l k).saved = s.saved := rfl
@[simp] theorem setLink_moving (s : State) (l : Nat) (k : Link) : (s.setLink l k).moving = s.moving := rfl
@[simp] theorem setLink_host (s : State) (l : Nat) (k : Link) : (s.setLink l k).host = s.host := rfl
@[simp] theorem setLink_dict (s : State) (l : Nat) (k : Link) : (s.setLink l k).dict = s.dict := rfl
@[simp] theorem setLink_msd (s : State) (l : Nat) (k : Link) : (s.setLink l k).msd = s.msd := rfl
@[simp] theorem setLink_rig_nodeId (s : State) (l : Nat) (k : Link) : (s.setLink l k).rig.nodeId = s.rig.nodeId := rfl
@[simp] theorem setLink_rig_linkEn (s : State) (l : Nat) (k : Link) : (s.setLink l k).rig.linkEn = s.rig.linkEn := rfl
@[simp] theorem setLink_rig_epoch (s : State) (l : Nat) (k : Link) : (s.setLink l k).rig.epoch = s.rig.epoch := rfl
@[simp] theorem setLink_rig_mgr (s : State) (l : Nat) (k : Link) : (s.setLink l k).rig.mgr = s.rig.mgr := rfl
@[simp] theorem setLink_rig_treeLimit (s : State) (l : Nat) (k : Link) : (s.setLink l k).rig.treeLimit = s.rig.treeLimit := rfl
@[simp] theorem setLink_rig_stallLimit (s : State) (l : Nat) (k : Link) :
    (s.setLink l k).rig.stallLimit = s.rig.stallLimit := rfl
@[simp] theorem setLink_rig_route (s : State) (l : Nat) (k : Link) : (s.setLink l k).rig.route = s.rig.route := rfl
@[simp] theorem setLink_rig_trees (s : State) (l : Nat) (k : Link) : (s.setLink l k).rig.trees = s.rig.trees := rfl
@[simp] theorem setLink_rig_groups (s : State) (l : Nat) (k : Link) : (s.setLink l k).rig.groups = s.rig.groups := rfl
@[simp] theorem setLink_rig_abEn (s : State) (l : Nat) (k : Link) : (s.setLink l k).rig.abEn = s.rig.abEn := rfl
@[simp] theorem setLink_rig_abRoot (s : State) (l : Nat) (k : Link) : (s.setLink l k).rig.abRoot = s.rig.abRoot := rfl
@[simp] theorem setLink_rig_abTree (s : State) (l : Nat) (k : Link) : (s.setLink l k).rig.abTree = s.rig.abTree := rfl
@[simp] theorem setLink_rig_links (s : State) (l : Nat) (k : Link) :
    (s.setLink l k).rig.links = put Link.init s.rig.links l k := rfl
@[simp] theorem setLink_rig_seen (s : State) (l : Nat) (k : Link) : (s.setLink l k).rig.seen = s.rig.seen := rfl
@[simp] theorem setLink_rig_noticed (s : State) (l : Nat) (k : Link) : (s.setLink l k).rig.noticed = s.rig.noticed := rfl
@[simp] theorem setLink_rig_sendT (s : State) (l : Nat) (k : Link) : (s.setLink l k).rig.sendT = s.rig.sendT := rfl
@[simp] theorem setLink_rig_expT (s : State) (l : Nat) (k : Link) : (s.setLink l k).rig.expT = s.rig.expT := rfl
@[simp] theorem setLink_rig_treeMsgs (s : State) (l : Nat) (k : Link) : (s.setLink l k).rig.treeMsgs = s.rig.treeMsgs := rfl
@[simp] theorem setLink_rig_dropped (s : State) (l : Nat) (k : Link) : (s.setLink l k).rig.dropped = s.rig.dropped := rfl
@[simp] theorem setLink_rig_notices (s : State) (l : Nat) (k : Link) : (s.setLink l k).rig.notices = s.rig.notices := rfl
@[simp] theorem setLink_look (s : State) (l : Nat) (k : Link) : (s.setLink l k).look = s.look := rfl
@[simp] theorem setLink_pow (s : State) (l : Nat) (k : Link) : (s.setLink l k).pow = s.pow := rfl
@[simp] theorem setLink_trace (s : State) (l : Nat) (k : Link) : (s.setLink l k).trace = s.trace := rfl

/-! ### The clocks (R468) -/

/-- With its clocks running, a command has its effect. -/
theorem whileClocked_running {s : State} (h : s.clocked = true) (t : State) : whileClocked s t = .next t := by simp [whileClocked, h]

/-- In the hold-off of a reset, a command of the clocked device changes nothing. -/
theorem whileClocked_stopped {s : State} (h : s.clocked = false) (t : State) : whileClocked s t = .next s := by simp [whileClocked, h]

/-- Such a command always answers a next state. -/
theorem whileClocked_next (s t : State) : ∃ u, whileClocked s t = .next u := ⟨_, rfl⟩

end Sys2Proof.Machine
end

