-- ==== Sys2Proof/Laws/Memory.lean ====
section
/-! SUPPORT. Writes of memory: both memories keep their canonical form, a run of writes may be cut anywhere, and a write of
device memory outside every coherent window is one run of its bytes. -/
namespace Sys2Proof.Machine

theorem putRun_append {α : Type} [DecidableEq α] (d : α) (m : List (Nat × α)) (k : Nat) (l r : List α) :
    putRun d m k (l ++ r) = putRun d (putRun d m k l) (k + l.length) r := by
  induction l generalizing m k with
  | nil => simp [putRun]
  | cons v t ih =>
    simp only [List.cons_append, putRun, ih, List.length_cons]
    congr 1; omega

theorem pokeMem_memWf {s : State} (a : Nat) (l : List Byte) (h : s.memWf = true) : (s.pokeMem a l).memWf = true := by
  simp only [State.memWf, Bool.and_eq_true] at h ⊢
  exact ⟨wfMap_putRun _ _ _ h.1, h.2⟩

theorem pokeHost_memWf {s : State} (a : Nat) (l : List Byte) (h : s.memWf = true) : (s.pokeHost a l).memWf = true := by
  simp only [State.memWf, Bool.and_eq_true] at h ⊢
  exact ⟨h.1, wfMap_putRun _ _ _ h.2⟩

theorem pokeMem_pokeMem (s : State) (a : Nat) (l r : List Byte) :
    (s.pokeMem a l).pokeMem (a + l.length) r = s.pokeMem a (l ++ r) := by
  simp only [State.pokeMem, putRun_append]

/-! What a store does besides: lines written whole hold no error any longer, and stages that it touches are dropped. -/

theorem dropStage_mem (k : Nat) (s : State) : (dropStage k s).msd.mem = s.msd.mem := by
  unfold dropStage; split <;> rfl

theorem dropStage_host (k : Nat) (s : State) : (dropStage k s).host = s.host := by
  unfold dropStage; split <;> rfl

theorem dropStage_lineErr (k : Nat) (s : State) : (dropStage k s).msd.lineErr = s.msd.lineErr := by
  unfold dropStage; split <;> rfl

/-- What dropping a stage keeps, dropping those that a write touches keeps. -/
theorem dropTouched_keeps {β : Type} (p : State → β) (h : ∀ k t, p (dropStage k t) = p t) (a : Nat) (s : State) :
    p (dropTouched a s) = p s := by
  unfold dropTouched
  generalize s.msd.stages = l
  induction l generalizing s with
  | nil => rfl
  | cons e t ih =>
    rw [List.foldl_cons, ih]
    split
    · split
      · exact h _ _
      · rfl
    · rfl

theorem freshMarks_mem (s : State) (a n : Nat) : (s.freshMarks a n).msd.mem = s.msd.mem := by
  unfold State.freshMarks; split <;> rfl

theorem freshMarks_host (s : State) (a n : Nat) : (s.freshMarks a n).host = s.host := by
  unfold State.freshMarks; split <;> rfl

theorem unfix_mem (s : State) (a n : Nat) : (s.unfix a n).msd.mem = s.msd.mem := by
  unfold State.unfix; dsimp only; split <;> rfl

theorem unfix_host (s : State) (a n : Nat) : (s.unfix a n).host = s.host := by
  unfold State.unfix; dsimp only; split <;> rfl

theorem store_mem (s : State) (a : Nat) (l : List Byte) : (s.store a l).msd.mem = putRun memDefault s.msd.mem a l := by
  simp only [State.store, unfix_mem, freshMarks_mem, dropTouched_keeps (fun t => t.msd.mem) dropStage_mem, State.pokeMem]

theorem store_host (s : State) (a : Nat) (l : List Byte) : (s.store a l).host = s.host := by
  simp only [State.store, unfix_host, freshMarks_host, dropTouched_keeps (fun t => t.host) dropStage_host, State.pokeMem]

/-- Without coherent windows no write of device memory waits for the host. -/
theorem writePiece_free {s : State} (a : Nat) (l : List Byte) (h : s.host.windows = []) : s.writePiece a l = s.store a l := by
  simp [State.writePiece, State.windowed, h]

theorem writeDevFuel_free (n : Nat) {s : State} (a : Nat) (l : List Byte) (h : s.host.windows = [])
    (hn : l.length + a % 64 ≤ 64 * n) :
    (s.writeDevFuel n a l).msd.mem = putRun memDefault s.msd.mem a l ∧ (s.writeDevFuel n a l).host = s.host := by
  induction n generalizing s a l with
  | zero =>
    have : l = [] := List.eq_nil_of_length_eq_zero (by omega)
    subst this; exact ⟨rfl, rfl⟩
  | succ n ih =>
    unfold State.writeDevFuel
    split
    · next e => rw [List.isEmpty_iff] at e; subst e; exact ⟨rfl, rfl⟩
    · next e =>
      dsimp only
      rw [writePiece_free _ _ h]
      have hh : (s.store a (l.take (64 - a % 64))).host.windows = [] := by rw [store_host]; exact h
      obtain ⟨h1, h2⟩ := ih (a := a + (64 - a % 64)) (l := l.drop (64 - a % 64)) hh
        (by simp only [List.length_drop]; omega)
      refine ⟨?_, by rw [h2, store_host]⟩
      rw [h1, store_mem]
      by_cases hk : l.length ≤ 64 - a % 64
      · rw [List.take_of_length_le hk, List.drop_of_length_le hk]
        rfl
      · have e2 : a + (64 - a % 64) = a + (l.take (64 - a % 64)).length := by rw [List.length_take]; omega
        rw [e2, ← putRun_append, List.take_append_drop]

/-- A write of device memory outside every coherent window is one run of its bytes (R357, R361), and touches nothing of the host's. -/
theorem writeDev_free {s : State} (a : Nat) (l : List Byte) (h : s.host.windows = []) :
    (s.writeDev a l).msd.mem = putRun memDefault s.msd.mem a l ∧ (s.writeDev a l).host = s.host :=
  writeDevFuel_free _ a l h (by omega)

end Sys2Proof.Machine
end

