-- ==== Sys2Proof/Laws/Shepherd.lean ====
section
/-! SUPPORT. The shepherd: when its next instruction runs, and what a register instruction leaves. -/
namespace Sys2Proof.Machine

theorem shOpen_ready {s : State} {f : Nat} {i : Instr} (h : ShReady s f i) (on : Option WaitOn) : shOpen s f on = true := by
  obtain ⟨⟨j, hj, hp⟩, hl, hf, hr, _, _⟩ := h
  unfold shOpen
  dsimp only
  rw [hj, hr, hf]
  rcases ha : (s.fold f).sh.acc with _ | a
  · simp [hp]
  · have := hl a ha
    simp [hp, this]

/-- An instruction word without an error is read as it stands (R418). -/
theorem shFetch_ready {s : State} {f : Nat} {i : Instr} (h : ShReady s f i) : shFetch f s = s := by
  simp [shFetch, shCorrect, h.whole]

/-- A shepherd that is ready executes its instruction. -/
theorem shExec_ready {s : State} {f : FoldId} {i : Instr} (h : ShReady s f.toNat i) (on : Option WaitOn) (act : State → State) :
    shExec s f i on act = act s := by
  simp [shExec, shOpen_ready h on, h.whole, h.word, shFetch_ready h]

theorem set_onward (x : Shepherd) (ds : BitVec 5) (v : Word) : (x.set ds v).onward = x.puts ds v := by
  unfold Shepherd.set Shepherd.puts Shepherd.onward Shepherd.goesTo
  split <;> rfl

/-- An instruction that writes DS changes the shepherd of its fold and nothing else. -/
theorem shAlu_ready {s : State} {f : FoldId} {i : Instr} (h : ShReady s f.toNat i) (ds : BitVec 5) (v : Shepherd → Word) :
    shAlu s f i ds v =
      s.setFold f.toNat { s.fold f.toNat with sh := (s.fold f.toNat).sh.puts ds (v (s.fold f.toNat).sh) } := by
  unfold shAlu shDo
  rw [shExec_ready h]
  unfold State.onFold
  dsimp only
  rw [set_onward]

end Sys2Proof.Machine
end

