-- ==== Sys2Proof/WellFormed.lean ====
section
/-! DEFINITION. Well-formed commands of a grade: the units they name exist and their data have the lengths the spec
gives them. A command that is not well formed cannot be sent to the device. -/
namespace Sys2Proof

/-- A fold of the grade (R2). -/
def foldOk (g : Grade) (f : FoldId) : Bool := decide (f.toNat < g.folds)

/-- A memory port of the grade (R310). -/
def portOk (g : Grade) (p : BitVec 5) : Bool := decide (p.toNat < g.ports)

/-- A rigging link of the grade (R2). -/
def linkOk (g : Grade) (l : BitVec 5) : Bool := decide (l.toNat < g.links)

/-- A quad of the grade (R2). -/
def quadOk (g : Grade) (q : BitVec 3) : Bool := decide (q.toNat < g.quads)

/-- Whole 64-byte lines, 1 to `n`. -/
def linesOk (n : Nat) (d : List Byte) : Bool :=
  decide (d.length % 64 = 0) && decide (64 ≤ d.length) && decide (d.length ≤ 64 * n)

/-- A flit arrives on a link of the grade. -/
def FlitIn.wf (g : Grade) (h : FlitIn) : Bool := linkOk g h.link

/-- A message holds 1 to 16 lines (R53, R243). -/
def NetMsg.wf (m : NetMsg) : Bool := linesOk 16 m.data

def NetFrom.wf (g : Grade) : NetFrom → Bool
  | .here f _ => foldOk g f
  | .landed _ => true
  | .rig h m => h.wf g && m.wf
  | .tree h _ m => h.wf g && m.wf
  | .refused h _ _ => h.wf g

/-- A CXL.mem write carries one line (R359). -/
def CxlReq.wf : CxlReq → Bool
  | .read _ => true
  | .write _ d _ => decide (d.length = 64)

/-- A management request carries LEN bytes when it writes and none when it reads; a directed one has 1 to 12 hops, of which it has made
at least one (R353). -/
def MgReq.wf (g : Grade) (r : MgReq) : Bool :=
  r.h.wf g && decide (r.len.toNat ≤ 192) && decide (r.data.length = if r.opc = 1 then r.len.toNat else 0) &&
    (!r.directed || (decide (1 ≤ r.hop.toNat) && decide (r.hop.toNat ≤ r.hops.length) && decide (r.hops.length ≤ 12)))

/-- The words with errors are words of the `n` that SECDED covers there (R324). -/
def Ecc.wf (n : Nat) (e : Ecc) : Bool := decide (e.singles + e.doubles ≤ n)

/-- 64-bit words of a unit of eight lines, and of a staging block of 1,024 lines (R255, R324). -/
def unitWords : Nat := 64
def blockWords : Nat := 8192

def PnTarget.wf (g : Grade) : PnTarget → Bool
  | .pennant f pn => foldOk g f && decide (pn.toNat < 48)
  | .global _ => true

/-- The command can be sent to a device of grade `g`. -/
def Instr.wf (g : Grade) : Instr → Bool
  | .ctlNop f | .ctlBr f _ | .ctlLset f _ _ | .ctlLoop f _ _ | .ctlWait f _ | .ctlStep f | .ctlArm f _ _ _
  | .ctlEnd f | .ctlYield f | .qNop f | .qSend f _ _ _ | .qRecv f _ | .qSel f _ _ _ _ | .qPop f _ | .qSmr f _
  | .pnInc f _ _ _ | .pnWait f _ _ | .pnGinc f _ _ | .pnGwait f _ _ | .spNop f | .spCfg f _ _ | .spLdt f _
  | .spStt f _ | .spRel f _ | .spSset f _ _ | .mmNop f | .mmLdw f _ | .mmRunWs f _ | .mmRunOs f _ | .mmRunIs f _
  | .mmDrain f _ | .mmZero f _ _ | .vxNop f | .vxAdd f _ | .vxSub f _ | .vxMul f _ | .vxFma f _ | .vxMin f _
  | .vxMax f _ | .vxAbs f _ | .vxNeg f _ | .vxCmp f _ | .vxCvt f _ | .vxAnd f _ | .vxOr f _ | .vxXor f _
  | .vxMov f _ | .vxSel f _ | .vxSll f _ | .vxSrl f _ | .vxSra f _ | .vxExp2 f _ | .vxLog2 f _ | .vxRcp f _
  | .vxRsqrt f _ | .vxLd f _ | .vxSt f _ | .vxAcc f _ | .vxRsum f _ | .vxRmax f _ | .vxSmax f _ | .vxTopk f _
  | .shAdd f _ _ _ | .shSub f _ _ _ | .shAnd f _ _ _ | .shOr f _ _ _ | .shXor f _ _ _ | .shSll f _ _ _
  | .shSrl f _ _ _ | .shSra f _ _ _ | .shAddi f _ _ _ | .shAndi f _ _ _ | .shOri f _ _ _ | .shLui f _ _
  | .shMul f _ _ _ | .shMulh f _ _ _ | .shSlt f _ _ _ | .shSltu f _ _ _ | .shSlti f _ _ _ | .shBeq f _ _ _
  | .shBne f _ _ _ | .shBlt f _ _ _ | .shBge f _ _ _ | .shBltu f _ _ _ | .shBgeu f _ _ _ | .shJal f _ _ | .shJr f _
  | .shLw f _ _ _ | .shLh f _ _ _ | .shLhu f _ _ _ | .shLb f _ _ _ | .shLbu f _ _ _ | .shSw f _ _ _ | .shSh f _ _ _
  | .shSb f _ _ _ | .shLsp f _ _ _ | .shSsp f _ _ _ | .shArm f _ _ | .shPinc f _ _ _ | .shPwait f _ _
  | .shDvapp f _ _ _ | .shRstep f _ _ _ | .shTpush f _ _ _ | .shTpop f _ _ _ | .shHalt f
  | .shepherdScratchpadAccess f | .eccWriteBack f _ | .mastLanding f _ | .readLanding f _ | .sourceRead f _
  | .remoteWriteLanding f _ | .tileLandingRow f _ | .descriptorBurst f _ _ | .end_ f _ | .link f _ | .sync f _
  | .read f _ | .write f _ | .msrc f _ | .mtap f _ | .fold f _ | .chan f _ | .predict f _ | .claim f _
  | .transferComplete f _ _ | .bindingNotice f | .remoteTransferArrival f _ | .verdict f | .noProgress f _
  | .stallSpacing f | .droop f | .foldLoad f | .foldPreemptStop f | .tapFire f
  | .haltExecute _ f | .haltAll _ f | .debugStep _ f _ | .debugResume _ f | .foldHalt f | .breakpoint f
  | .foldStateWrite _ f _ _ _ | .traceBufferWrite f | .blockResetComplete f _ | .dueResultLands f
  | .supplyRecovers f | .reservedOpcode f | .illegalInstructionEncoding f | .reservedDescriptorKind f _ => foldOk g f
  | .tapCopyComplete c => foldOk g c.fold
  | .globalPennantIncrement h _ _ _ | .groupAbort h _ _ _ | .resetNotice h | .idleFlit h | .transitFlit h _ _ => h.wf g
  | .dataSlot p _ | .readDataOut p _ | .maintenancePeriod p _ | .portFailure p => portOk g p
  | .riggingStall l _ _ | .replayTimeout l | .linkFailure l | .linkUp l _ _ _ => linkOk g l
  | .flitDiscarded b => linkOk g b.link
  | .powerWindow q | .foldSelfTest q _ _ => quadOk g q
  | .msrcImageReady _ | .mastStall _ _ | .stepBarrier | .thermalLoop | .heartbeat | .treeStall _ | .pageRequestTimeout _ | .watchdogExpiry | .logFlush
  | .sysRefclkLoss | .rigRefclkLoss _ | .cxlRefclkLoss | .doorbell _ _ _ | .jobStart _ | .startSignal
  | .crc64Readback _ _ | .jobCommit | .rsaOperation | .completionRecord | .preemption | .contextSaveComplete
  | .resume _ _ | .abort | .abortComplete | .hostAbort _ _ | .atsTranslationCompletion _ | .atsInvalidate _ _ _
  | .pageResponse _ _ | .birsp _ | .getVersion | .getCapabilities | .negotiateAlgorithms | .getDigests
  | .getCertificate _ _ _ | .dictRead _ | .lookoutWriteComplete _ | .i3cPrivateRead | .setdasa _ _
  | .statusClear _ _ | .submissionRingConfig _ _ _ _ | .completionRingConfig _ _ _ | .completionRingHead _ _
  | .coherentWindowWrite _ _ _ | .routeTableWrite _ _ _ | .firmwareSlotWrite _ _ _ | .sectorProgrammed
  | .firmwareVerify _ | .firmwareActivate _ | .firmwareAbort _ | .firmwareCommit _ | .securityLock _
  | .deviceResetCommand _ | .foldBlockReset _ _ | .quadBlockReset _ _ | .pgoodFall | .pgoodRise _ _ | .resetN _
  | .perstN | .cxlHotReset | .cxlLinkDown | .resetHoldoffEnd | .resetRelease | .lookoutBoot | .deviceReady _
  | .sysRefclkAppears | .cxlLinkUp | .trainingRecordWritten | .uncorrectableLookoutError => true
  | .mastUnitSend _ _ e => e.wf unitWords
  | .speculativeStageReady _ e | .claimService _ e => e.wf blockWords
  | .messageArrival f src _ => foldOk g f && src.wf g
  | .creditReturn f src => foldOk g f && src.wf g
  | .queueRevocation f src => foldOk g f && src.wf g
  | .pennantIncrement f pn srcs => foldOk g f && decide (pn.toNat < 48) && srcs.all (foldOk g)
  | .sensorSample r m => decide (r.length = 64) && decide (m.length = g.ports)
  | .cxlMemRequest r => r.wf
  | .challenge _ n => decide (n.length = 32)
  | .getMeasurements _ sg n => !sg || decide (n.length = 32)
  | .dictWrite _ d => decide (1 ≤ d.length) && decide (d.length ≤ 64)
  | .managementRequest r => r.wf g
  | .i3cPrivateWrite d => decide (12 ≤ d.length) && decide (d.length ≤ 76)
  | .pennantWrite _ t _ => t.wf g
  | .remoteWrite h _ d _ => h.wf g && linesOk 64 d
  | .remoteReadRequest h _ _ _ _ => h.wf g
  | .remoteReadData h _ d => h.wf g && linesOk 64 d
  | .treeMessage h _ m d => h.wf g && (m.msg d).wf
  | .portTraining ps => decide (ps.length = g.ports)

end Sys2Proof
end

