-- ==== Sys2Proof/Tests/Slice0.lean ====
section
/-! SUPPORT. Small tests of one step each, ill-formed terms that the checks of WellFormed refuse, and for the hypotheses of the
statements a state and operands that meet them. Expected values are worked out from the rules of the manual. The theorems
are checked one after another, because many evaluations at once need more memory than a check allows. -/
namespace Sys2Proof.Tests

open Sys2Proof Sys2Proof.Machine

set_option Elab.async false

/-! ### Small states -/

/-- A job of program folds 0 and 1 on logical folds 0 and 1. -/
def job : Job :=
  { ring := 1
    hdr := { seed := 5, step0 := 3, image := 0x10000, taps := 0, folds := 3, bwR := 0, bwW := 0, bwX := 0, sign := false,
             paired := false, mode := 0, mastLimit := 0, npExp := 16, tag := 7, records := 0x4000 }
    sub := { rlist := 0, rlcount := 0, save := 0x800000, pasid := 0, pv := false }
    prog := { magic := 0x414B5250, verMajor := 2, verMinor := 1, foldCount := 2, heavyMax := 8, features := 64, hdrCrc := 0,
              sectOff := 64, imageLen := 4096 }
    sects := [], results := [], taps := none, seq := 9, phase := .running, step := 3, glean := 0, pass := 0, fail := 0,
    trunc := 0, sat := 0, gpn := [], gOwn := [], gLast := [], leaders := [], nStreams := [], reports := [], lastArrive := 0,
    abort := none, crcs := [], satFault := false, tallyHold := false, wendStop := false, winStart := [] }

/-- A fold that runs a program of bundles of zeros, which hold no operation, with its shepherd running. -/
def fold0 : Fold :=
  { Fold.init with
    ex := { Exec.init with run := .running, bundleCnt := 8, lastBundle := 0 }
    sh := { Shepherd.init with run := .running, codeWords := 64 } }

/-- A ready device that runs the job. -/
def busy (x : Fold) : State :=
  { State.reset with
    chip := { Chip.init with phase := .ready, gather := false, cxlUp := true, quadsTested := 0xFF }
    job := some job
    folds := [(0, x), (1, { fold0 with ex := { fold0.ex with prog := 1 } })]
    msd := { Msd.init with rawGiB := 2 } }

/-- A ready device without a job. -/
def calm : State := { busy fold0 with job := none, folds := [] }

/-- A bundle word: each field by its lowest bit and its value. -/
def bits (l : List (Nat × Nat)) : BitVec 256 := BitVec.ofNat 256 (sumNat (l.map fun p => p.2 * 2 ^ p.1))

/-- The fold with the fields `l` in its bundle of address 0. -/
def holding (x : Fold) (l : List (Nat × Nat)) : Fold := { x with ex := { x.ex with bundles := [(0, bits l)] } }

/-- A ready device that runs the job and comes to the bundle with the fields `l`. -/
def at_bundle (x : Fold) (l : List (Nat × Nat)) : State := busy (holding x l)

/-- The bundle with the fields `l` has issued in this cycle and its slots are still to come. -/
def issued (x : Fold) (l : List (Nat × Nat)) : State :=
  let y := holding x l
  busy { y with ex := { y.ex with issued := true } }

/-! ### Commands that are not well formed -/

/-- The header of a flit of node 2 on link 0. -/
def flit0 : FlitIn :=
  { link := 0, src := 2, dst := 0, lane := false, tally := 0, epoch := 0, lseq := 0, lack := 1023, nak := false, fold := 0, room := [] }

theorem ill_fold : Instr.wf .H (.ctlNop 24) = false := by decide
theorem ill_port : Instr.wf .H (.portFailure 16) = false := by decide
theorem ill_link : Instr.wf .H (.linkFailure 16) = false := by decide
theorem ill_quad : Instr.wf .H (.powerWindow 6) = false := by decide
theorem ill_pennant : Instr.wf .T (.pennantIncrement 0 48 []) = false := by decide
theorem ill_source_fold : Instr.wf .H (.pennantIncrement 0 1 [24]) = false := by decide
theorem ill_sensors : Instr.wf .T (.sensorSample [] (List.replicate 24 0)) = false := by decide
theorem ill_memory_sensors : Instr.wf .T (.sensorSample (List.replicate 64 0) []) = false := by decide
theorem ill_cxl_write : Instr.wf .T (.cxlMemRequest (.write 0 [1] false)) = false := by decide
theorem ill_nonce : Instr.wf .T (.challenge 0 []) = false := by decide
theorem ill_measurement_nonce : Instr.wf .T (.getMeasurements 1 true []) = false := by decide
theorem ill_window_write : Instr.wf .T (.dictWrite 0 []) = false := by decide
theorem ill_window_write_long : Instr.wf .T (.dictWrite 0 (List.replicate 65 0)) = false := by decide
theorem ill_request_len : Instr.wf .T (.managementRequest ⟨flit0, false, [], 0, 1, 0, 0x2000, 1, 0, 193, []⟩) = false := by decide
theorem ill_request_data : Instr.wf .T (.managementRequest ⟨flit0, false, [], 0, 1, 1, 0x2000, 3, 0, 2, [0]⟩) = false := by decide
theorem ill_i3c_short : Instr.wf .T (.i3cPrivateWrite [0]) = false := by decide
theorem ill_i3c_long : Instr.wf .T (.i3cPrivateWrite (List.replicate 77 0)) = false := by decide
theorem ill_pennant_write : Instr.wf .T (.pennantWrite 0 (.pennant 0 48) 1) = false := by decide

/-- A message without lines. -/
def head0 : TreeHead := { ch := 0, dfold := 0, dq := 0, slot := 0, slotm1 := 0, ncred := 1, crc := 0 }
def msg0 : NetMsg := { ch := 0, dfold := 0, dq := 0, slot := 0, slotm1 := 0, ncred := 1, data := [], crc := 0 }

theorem ill_header : Instr.wf .H (.idleFlit { flit0 with link := 31 }) = false := by decide
theorem ill_remote_data : Instr.wf .T (.remoteReadData flit0 0 [1]) = false := by decide
theorem ill_remote_lines : Instr.wf .T (.remoteWrite flit0 0 [] true) = false := by decide
theorem ill_message : Instr.wf .T (.messageArrival 0 (.rig flit0 msg0) true) = false := by decide
theorem ill_tree_message : Instr.wf .T (.treeMessage flit0 0 head0 []) = false := by decide
theorem ill_ports_report : Instr.wf .T (.portTraining []) = false := by decide
theorem well_formed : Instr.wf .H (.ctlNop 15) = true := by decide

/-! ### No word spells a command -/

theorem decode_none : decodeTableWord 32 0 = none := by decide
theorem fetch_word_unchanged : State.reset.withFetchWord 32 0 = State.reset := rfl

/-! ### The ctl and qp slots -/

/-- Fields of the ctl slot: the opcode at 255:250, TARGET of ctl.br at 249:238, LC at 249:248, COUNT at 247:232, TARGET of
ctl.loop at 247:236 (R50). -/
theorem ready_ctl : Ready (busy fold0) 0 (.ctlNop 0) none ∧
    Ready (at_bundle fold0 [(250, 1), (238, 0xABC)]) 0 (.ctlBr 0 0xABC) none ∧
    Ready (at_bundle fold0 [(250, 2), (248, 3), (232, 0xFFFF)]) 0 (.ctlLset 0 3 0xFFFF) none ∧
    Ready (at_bundle fold0 [(250, 3), (248, 1), (236, 0x123)]) 0 (.ctlLoop 0 1 0x123) none :=
  ⟨by constructor <;> decide, by constructor <;> decide, by constructor <;> decide, by constructor <;> decide⟩

/-- The ctl slot of a bundle whose stall point has issued in its qp slot, and a bundle with a single-bit error (R22, R65, R418). -/
theorem ctl_due : CtlDue (issued { fold0 with ex := { fold0.ex with ctlDue := true } } [(250, 1), (238, 0xABC)]) 0 (.ctlBr 0 0xABC) :=
  ⟨by decide, by decide⟩
def spotted : State := busy { fold0 with ex := { fold0.ex with berr := [(0, 1)] } }
theorem spotted_ready : (spotted.fold 0).ex.run = .running ∧ peek 0 (spotted.fold 0).ex.berr (spotted.fold 0).ex.nextBundle = 1 ∧
    Ready (spotted.setFold 0 (spotted.fold 0).bundleFixed) 0 (.ctlNop 0) none := ⟨by decide, by decide, by constructor <;> decide⟩

/-- Loop counter 1 of a fold that comes to a ctl.loop. -/
def looping (n : Nat) : State := at_bundle { fold0 with ex := { fold0.ex with loops := [(1, n)] } } [(250, 3), (248, 1), (236, 0x123)]

/-- ctl.loop on a counter of 2 branches and leaves 1 (R51). -/
theorem test_loop : ∃ t, exec (.ctlLoop 0 1 0x123) (looping 2) = .next t ∧
    (t.fold 0).ex.nextBundle = 0x123 ∧ (t.fold 0).ex.loops = [(1, 1)] := ⟨_, rfl, by decide, by decide⟩

/-- ctl.loop on a counter of 1 falls through and leaves 0 (R51). -/
theorem test_loop_ends : ∃ t, exec (.ctlLoop 0 1 0x123) (looping 1) = .next t ∧
    (t.fold 0).ex.nextBundle = 1 ∧ (t.fold 0).ex.loops = [] := ⟨_, rfl, by decide, by decide⟩

/-- ctl.lset sets the counter to COUNT plus 1 (R51). -/
theorem test_lset : ∃ t, exec (.ctlLset 0 3 0xFFFF) (at_bundle fold0 [(250, 2), (248, 3), (232, 0xFFFF)]) = .next t ∧
    (t.fold 0).ex.loops = [(3, 65536)] := ⟨_, rfl, by decide⟩

/-- A command that the bundle does not hold issues nothing. -/
theorem test_other_bundle : exec (.ctlBr 0 0xABD) (at_bundle fold0 [(250, 1), (238, 0xABC)]) =
    .next (at_bundle fold0 [(250, 1), (238, 0xABC)]) := rfl

/-- A fold with tokens 5, 6 and 5 at a ctl.wait for `tag`. -/
def tokens (tag : Nat) : State := at_bundle { fold0 with dr := { fold0.dr with tokens := [5, 6, 5] } } [(250, 4), (238, tag)]

theorem ready_token : Ready (tokens 5) 0 (.ctlWait 0 5) (some (.token 5)) ∧ (5 : BitVec 12) ∈ ((tokens 5).fold 0).dr.tokens :=
  ⟨by constructor <;> decide, by decide⟩
theorem ready_no_token : Ready (tokens 7) 0 (.ctlWait 0 7) (some (.token 7)) ∧ (7 : BitVec 12) ∉ ((tokens 7).fold 0).dr.tokens ∧
    ((tokens 7).fold 0).ex.wait = none := ⟨by constructor <;> decide, by decide, by decide⟩

/-- ctl.wait takes the oldest token of its tag (R33, R51). -/
theorem test_wait : ∃ t, exec (.ctlWait 0 5) (tokens 5) = .next t ∧ (t.fold 0).dr.tokens = [6, 5] ∧ (t.fold 0).ex.nextBundle = 1 :=
  ⟨_, rfl, by decide, by decide⟩
theorem test_wait_waits : ∃ t, exec (.ctlWait 0 7) (tokens 7) = .next t ∧ (t.fold 0).dr.tokens = [5, 6, 5] ∧
    (t.fold 0).ex.nextBundle = 0 ∧ (t.fold 0).ex.wait = some (.start (.token 7) 0 true) :=
  ⟨_, rfl, by decide, by decide, by decide⟩

/-- A fold that waits for token 5, which it holds and has not yet observed in `seen` (R23). -/
def observing (seen : Bool) : State :=
  let s := tokens 5
  let x := s.fold 0
  s.setFold 0 { x with ex := { x.ex with wait := some { on := .token 5, cycles := 3, seen := seen, began := 0, noted := true } } }

theorem test_unseen : exec (.ctlWait 0 5) (observing false) = .next (observing false) := rfl
theorem test_seen : ∃ t, exec (.ctlWait 0 5) (observing true) = .next t ∧ (t.fold 0).ex.nextBundle = 1 := ⟨_, rfl, by decide⟩

/-- A fold at ctl.arm, whose arm register names `a` and whose pennant 2 holds `n`. -/
def armed (a : BitVec 12) (n : BitVec 16) : State :=
  at_bundle { fold0 with ex := { fold0.ex with armAddr := a, armValid := true }, qu := { fold0.qu with pn := [(2, n)] } }
    [(250, 6), (244, 2), (232, 0x100), (224, 1)]

theorem ready_arm : Ready (armed 0x105 1) 0 (.ctlArm 0 2 0x100 1) (some (.arm 2)) ∧
    1 ≤ (peek 0 ((armed 0x105 1).fold 0).qu.pn 2).toNat ∧ 0x100 ≤ 0x105 ∧ 0x105 < 0x100 + 16 * 1 :=
  ⟨by constructor <;> decide, by decide⟩
theorem ready_arm_outside : Ready (armed 0x110 1) 0 (.ctlArm 0 2 0x100 1) (some (.arm 2)) ∧ (armed 0x110 1).job = some job ∧
    job.open_ = true ∧ 0x100 + 16 * 1 ≤ ((armed 0x110 1).fold 0).ex.armAddr.toNat := ⟨by constructor <;> decide, by decide⟩
theorem ready_arm_empty : Ready (armed 0x105 0) 0 (.ctlArm 0 2 0x100 1) (some (.arm 2)) ∧
    peek 0 ((armed 0x105 0).fold 0).qu.pn 2 = 0 := ⟨by constructor <;> decide, by decide⟩

/-- ctl.arm at the last address of its window branches there; one past it faults (R51, R52). -/
theorem test_arm_last : ∃ t, exec (.ctlArm 0 2 0x100 1) (armed 0x10F 1) = .next t ∧ (t.fold 0).ex.nextBundle = 0x10F ∧
    (t.fold 0).ex.armValid = false ∧ (t.fold 0).qu.pn = [] := ⟨_, rfl, by decide, by decide, by decide⟩
theorem test_arm_past : ∃ t j, exec (.ctlArm 0 2 0x100 1) (armed 0x110 1) = .next t ∧ t.job = some j ∧
    j.reports.map (·.code) = [0x1C] ∧ (t.fold 0).ex.run = .stopped := ⟨_, _, rfl, rfl, by decide, by decide⟩

theorem ready_end : Ready (at_bundle fold0 [(250, 7)]) 0 (.ctlEnd 0) (some .end_) ∧ ((at_bundle fold0 [(250, 7)]).fold 0).dr.xfers = [] ∧
    ((at_bundle fold0 [(250, 7)]).fold 0).nothingStarts = true := ⟨by constructor <;> decide, by decide⟩
theorem ready_yield : Ready (at_bundle fold0 [(250, 8)]) 0 (.ctlYield 0) (some .end_) := by constructor <;> decide
theorem ready_step : Ready (at_bundle fold0 [(250, 5)]) 0 (.ctlStep 0) (some .step) ∧ (busy fold0).job = some job ∧
    ((at_bundle fold0 [(250, 5)]).fold 0).ex.wait = none := ⟨by constructor <;> decide, by decide⟩

/-- Both folds wait at ctl.step. -/
def atBarrier : State :=
  let w (x : Fold) : Fold := { x with ex := { x.ex with wait := some { on := .step, cycles := 0, seen := true, began := 0, noted := true } } }
  let s := busy (w fold0)
  { s with folds := s.folds.map fun p => (p.1, w p.2) }

theorem barrier_met : barrierMet atBarrier job = true ∧ job.windowEnds = false ∧ job.step < 2 ^ 64 - 1 := by decide

/-- The step counter advances by 1 (R34). -/
theorem test_barrier : ∃ t, exec .stepBarrier atBarrier = .next t ∧ t.job.map (·.step) = some 4 ∧
    (t.fold 1).ex.wait = none := ⟨_, rfl, by decide, by decide⟩

/-- The same at the last step of a replay window, where only a fold without a transfer under way ends, and at the largest step (R426, R432). -/
def atWindow : State :=
  { atBarrier with job := some { job with taps := some { magic := 0x414B5450, count := 0, wend := 3, ents := [] } } }
def atOverflow : State := { atBarrier with job := some { job with step := 2 ^ 64 - 1 } }

theorem window_met (j : Job) (e : atWindow.job = some j) : barrierMet atWindow j = true ∧ j.windowEnds = true := by
  cases e; decide
theorem overflow_met (j : Job) (e : atOverflow.job = some j) : barrierMet atOverflow j = true ∧ j.windowEnds = false ∧ j.step = 2 ^ 64 - 1 ∧
    j.open_ = true := by
  cases e; decide
theorem test_window : ∃ t, exec .stepBarrier atWindow = .next t ∧ t.job.map (·.step) = some 3 ∧ (t.fold 0).ex.run = .ended :=
  ⟨_, rfl, by decide, by decide⟩
theorem test_overflow : ∃ t j, exec .stepBarrier atOverflow = .next t ∧ t.job = some j ∧ j.reports.map (·.code) = [0x25] :=
  ⟨_, _, rfl, rfl, by decide⟩

/-- A fold that waits 65,536 cycles on tag 9. -/
def stuck : State := busy { fold0 with ex := { fold0.ex with wait := some { on := .token 9, cycles := 65536, seen := false, began := 0, noted := true } } }

theorem wait_at_limit : job.npLimit ≤ 65536 ∧ (stuck.fold 0).ex.tally = none ∧ ¬ (job.npLimit ≤ 65535) := by decide
theorem test_no_progress : ∃ t j, exec (.noProgress 0 false) stuck = .next t ∧ t.job = some j ∧
    j.reports.map (·.code) = [0x30] := ⟨_, _, rfl, rfl, by decide⟩

/-- The same of the shepherd. -/
def shStuck : State := busy { fold0 with sh := { fold0.sh with wait := some { on := .shPwait 3 1, cycles := 65536, seen := false, began := 0, noted := true } } }

theorem test_shepherd_no_progress : ∃ t j, exec (.noProgress 0 true) shStuck = .next t ∧ t.job = some j ∧
    j.reports.map (·.engine) = [6] := ⟨_, _, rfl, rfl, by decide⟩

/-- Transfers outstanding at ctl.end. -/
def xfer0 : Xfer :=
  { slot := 0, desc := { addr := 0, akind := 2, w := 0 }, start := 0, hold := 0,
    geom := { len := 1, gstr := 1, fmt := 0, rbc := 0, rows := 1, wt := false, spl := 0, ck := false, dcf := 0, spanC := 0 }
    land := { tiles := false, line := 0, tile := 0, row0 := 0, cks := 0 }
    src := { addr := 0, geom := { len := 1, gstr := 1, fmt := 0, rbc := 0, rows := 1, wt := false, spl := 0, ck := false,
                                  dcf := 0, spanC := 0 }
             asked := 0, raw := [], early := [] }
    ready := [], got := 0, landed := 0, asked := [], since := 0, crc := 0xFFFFFFFF, resid := none, sent := false, left := 0, arrived := false,
    done := false, held := false, had := 0 }

def moving (y : Xfer) : State := busy { fold0 with dr := { fold0.dr with xfers := [y] } }

/-- The same transfer at ctl.end. -/
def endMoving : State := at_bundle { fold0 with dr := { fold0.dr with xfers := [xfer0] } } [(250, 7)]

theorem ready_end_waits : Ready endMoving 0 (.ctlEnd 0) (some .end_) ∧ (endMoving.fold 0).dr.xfers ≠ [] :=
  ⟨by constructor <;> decide, by decide⟩

/-- The opcode of the qp slot lies at 47:43, MASK of q.smr at 42:27, N of q.pop at 42:39, FOLD, PN and INC of pn.inc at 42:38, 37:32
and 31:24, GPN and INC of pn.ginc at 42:37 and 36:29 (R53). -/
theorem slot_ready : SlotReady (issued fold0 []) 0 1 (.mmNop 0) ∧ SlotReady (issued fold0 []) 0 2 (.vxNop 0) ∧
    SlotReady (issued fold0 []) 0 3 (.spNop 0) ∧ SlotReady (issued fold0 []) 0 4 (.qNop 0) ∧
    SlotReady (issued fold0 [(43, 5), (27, 0x8001)]) 0 4 (.qSmr 0 0x8001) :=
  ⟨by constructor <;> decide, by constructor <;> decide, by constructor <;> decide, by constructor <;> decide,
    by constructor <;> decide⟩

/-- A fold with queue 3 bound to channel 1 of fold 1, holding one message, and channel 2 to queue 4 of fold 1. -/
def queues : Fold :=
  { fold0 with qu := { fold0.qu with
      qtab := [(3, { base := 100, lines := 8 })]
      ctab := [(2, { rem := false, node := 0, dfold := 1, dq := 4, slotm1 := 1, ncred := 2 })]
      chans := [(2, { Chan.init with credits := 2 })]
      queues := [(3, { Queue.init with
        bound := some { node := none, fold := 1, ch := 1, slotm1 := 1, ncred := 4, tree := none }
        msgs := [{ slot := 0, lines := 2, node := none, fold := 1 }] })] } }

/-- Bundles with q.pop of queue 3, pn.inc of 255 to pennant 47 of fold `f`, and pn.ginc of 200 to global pennant 63. -/
def popping : State := issued queues [(43, 4), (39, 3)]
def adding (f : Nat) : State := issued fold0 [(43, 8), (38, f), (32, 47), (24, 255)]
def adding63 : State := issued fold0 [(43, 10), (37, 63), (29, 200)]

theorem pop_ready : SlotReady popping 0 4 (.qPop 0 3) ∧ (queues.qent 3).lines ≠ 0 ∧ queues.holds 3 = true ∧
    (queues.queue 3).msgs ≠ [] ∧ (queues.queue 3).bound.isSome = true ∧ job.place 1 = some 1 :=
  ⟨by constructor <;> decide, by decide⟩

/-- q.pop returns a credit to the sender (R293). -/
theorem test_pop : ∃ t, exec (.qPop 0 3) popping = .next t ∧ ((t.fold 0).queue 3).msgs = [] ∧
    (t.fold 1).qu.credIn.map (·.1) = [1] := ⟨_, rfl, by decide, by decide⟩

theorem pn_inc_ready : SlotReady (adding 0) 0 4 (.pnInc 0 0 47 255) ∧ SlotReady (adding 1) 0 4 (.pnInc 0 1 47 255) ∧
    SlotReady adding63 0 4 (.pnGinc 0 63 200) ∧ job.place 1 = some 1 ∧ job.phase ≠ .aborting ∧ gpnEnc 200 = true ∧
    (busy fold0).group 63 = none :=
  ⟨by constructor <;> decide, by constructor <;> decide, by constructor <;> decide, by decide⟩

/-- A self-increment is due two cycles later (R301). -/
theorem test_pn_inc : ∃ t, exec (.pnInc 0 0 47 255) (adding 0) = .next t ∧
    (t.fold 0).qu.outPn.map (fun m => (m.own, m.pn, m.inc, m.due)) = [(true, 47, 255, 2)] := ⟨_, rfl, by decide⟩
theorem test_pn_ginc : ∃ t, exec (.pnGinc 0 63 200) adding63 = .next t ∧ t.job.map (·.gpn) = some [(63, 200)] :=
  ⟨_, rfl, by decide⟩

/-- Bundles with q.send of line 10 on channel 2, q.recv on queue 3, and q.sel of queue 3. -/
def sending : State := at_bundle queues [(43, 1), (39, 2), (35, 1), (18, 10)]
def receiving : State := at_bundle queues [(43, 2), (39, 3)]
def selecting : State := at_bundle queues [(43, 3), (24, 8)]

theorem send_ready : Ready sending 0 (.qSend 0 2 1 10) (some (.send 2)) ∧ sendBad 2 2 10 sending queues = none ∧
    1 ≤ (queues.chan 2).credits := ⟨by constructor <;> decide, by decide⟩
theorem recv_ready : Ready receiving 0 (.qRecv 0 3) (some (.recv 3)) ∧ (queues.qent 3).lines ≠ 0 ∧ (queues.queue 3).msgs ≠ [] :=
  ⟨by constructor <;> decide, by decide⟩
theorem sel_ready : Ready selecting 0 (.qSel 0 false false false 8) (some (.sel 8)) ∧
    selChoice false false false 8 (selecting.fold 0) = some 3 ∧
    ∀ i < 16, (8 : BitVec 16).getLsbD i = true → (queues.qent i).lines ≠ 0 := ⟨by constructor <;> decide, by decide⟩

/-- Channel 2 without a credit and queue 4 without a message, which a q.send, a q.recv and a q.sel wait for. -/
def starved (l : List (Nat × Nat)) : State :=
  at_bundle { queues with qu := { queues.qu with chans := [], qtab := [(4, { base := 100, lines := 8 })] } } l

theorem starved_ready : Ready (starved [(43, 1), (39, 2), (35, 1), (18, 10)]) 0 (.qSend 0 2 1 10) (some (.send 2)) ∧
    sendBad 2 2 10 (starved []) ((starved []).fold 0) = none ∧ (((starved []).fold 0).chan 2).credits = 0 ∧
    Ready (starved [(43, 2), (39, 4)]) 0 (.qRecv 0 4) (some (.recv 4)) ∧ (((starved []).fold 0).qent 4).lines ≠ 0 ∧
    (((starved []).fold 0).queue 4).msgs = [] ∧ Ready (starved [(43, 3), (24, 16)]) 0 (.qSel 0 false false false 16) (some (.sel 16)) ∧
    selChoice false false false 16 ((starved []).fold 0) = none ∧
    ∀ i < 16, (16 : BitVec 16).getLsbD i = true → (((starved []).fold 0).qent i).lines ≠ 0 :=
  ⟨by constructor <;> decide, by decide, by decide, by constructor <;> decide, by decide, by decide, by constructor <;> decide,
    by decide, by decide⟩

theorem sel_reefed_serves : selChoice true false false 8 queues = some 3 ∧
    selChoice true false true 8 { queues with ex := { queues.ex with rp := 15 } } = some 3 := by decide
theorem sel_reefed_waits : selChoice true false false 10 queues = none ∧ selChoice false false false 10 queues = some 3 := by
  decide

/-- A fold whose pennant 4 holds 9, in a job whose global pennant 5 holds 9, at pn.wait (opcode 9) or pn.gwait (11). -/
def counts (op pn n : Nat) : State :=
  { at_bundle { fold0 with qu := { fold0.qu with pn := [(4, 9)] } } [(43, op), (37, pn), (29, n)] with
    job := some { job with gpn := [(5, 9)] } }

theorem pn_wait_ready : Ready (counts 9 4 9) 0 (.pnWait 0 4 9) (some (.pn 4 9)) ∧
    Ready (counts 11 5 9) 0 (.pnGwait 0 5 9) (some (.gpn 5 9)) ∧ Ready (counts 9 4 10) 0 (.pnWait 0 4 10) (some (.pn 4 10)) ∧
    ((counts 9 4 10).fold 0).ex.wait = none ∧ Ready (counts 11 5 10) 0 (.pnGwait 0 5 10) (some (.gpn 5 10)) :=
  ⟨by constructor <;> decide, by constructor <;> decide, by constructor <;> decide, by decide, by constructor <;> decide⟩

/-- A wait subtracts what it waited for (R300, R304). -/
theorem test_pn_wait : ∃ t, exec (.pnWait 0 4 9) (counts 9 4 9) = .next t ∧ (t.fold 0).qu.pn = [] := ⟨_, rfl, by decide⟩
theorem test_pn_gwait : ∃ t, exec (.pnGwait 0 5 8) (counts 11 5 8) = .next t ∧ t.job.map (·.gpn) = some [(5, 1)] ∧
    t.job.map (·.gOwn) = some [(5, some 0)] := ⟨_, rfl, by decide, by decide⟩

/-- q.send spends a credit and advances the landing pointer (R286). -/
theorem test_send : ∃ t, exec (.qSend 0 2 1 10) sending = .next t ∧
    ((t.fold 0).chan 2).credits = 1 ∧ ((t.fold 0).chan 2).ptr = 1 ∧ (t.fold 0).ex.ctlDue = true :=
  ⟨_, rfl, by decide, by decide, by decide⟩

/-- Fold 0 sends one line to queue 3 of fold 1, with a credit, a revocation and a pennant increment on their way. -/
def traffic : State :=
  let m : OutMsg := { seq := 0, ch := 2, lines := 1, slot := 0, tally := 0, data := List.replicate 64 7, crc := crc32c (List.replicate 64 7), issue := 0,
                      ready := true, reached := false, xfer := none, hold := 0, baddr := 0, akind := 1, tag := 0 }
  let b : Binding := { node := none, fold := 0, ch := 2, slotm1 := 1, ncred := 2, tree := none }
  let p : PnMsg := { own := false, dst := 1, pn := 6, inc := 2, due := 0, engine := 5, akind := 1, addr := 0, tag := 0 }
  let s := busy { fold0 with qu := { fold0.qu with
    ctab := [(2, { rem := false, node := 0, dfold := 1, dq := 3, slotm1 := 1, ncred := 2 })]
    chans := [(2, Chan.init)], outMsg := [m], credIn := [(2, some 48)], revIn := [(2, none)], outPn := [p] } }
  let x := s.fold 1
  s.setFold 1 { x with qu := { x.qu with
    qtab := [(3, { base := 100, lines := 8 })], queues := [(3, { Queue.init with bound := some b })] } }

/-- The same message with its lines landed in fold 1. -/
def landed : State :=
  let n : InMsg :=
    { q := 3, from_ := { node := none, fold := 0, ch := 2, slotm1 := 1, ncred := 2, tree := none },
      rec_ := { slot := 0, lines := 1, node := none, fold := 0 }, line := 101, left := [], crc := 0xFFFFFFFF, want := 0, tally := 0,
      seq := 0, tag := 0 }
  let x := traffic.fold 1
  traffic.setFold 1 { x with qu := { x.qu with inMsgs := [n] } }

theorem traffic_ready : (headMsg (traffic.fold 0) 2).isSome = true ∧ traffic.receives = true ∧
    ((traffic.fold 1).queue 3).closed = false ∧ job.place 1 = some 1 ∧ (∃ e ∈ (traffic.fold 0).qu.credIn, e.1 = 2) ∧
    ∃ e ∈ (traffic.fold 0).qu.revIn, e.1 = 2 := by decide
theorem landed_ready (m : InMsg) (h : ((landed.fold 1).qu.inMsgs.find? fun n => decide (n.q = 3)) = some m) : m.left = [] ∧
    m.crc ^^^ 0xFFFFFFFF = m.want ∧ m.tally = ((landed.fold 1).queue 3).expect ∧ landed.receives = true ∧
    ((landed.fold 1).queue 3).closed = false := by
  cases h; decide
theorem test_message : ∃ t, exec (.messageArrival 1 (.here 0 2) true) traffic = .next t ∧
    ((t.fold 1).qu.inMsgs.map fun n => (n.q, n.line, n.left)) = [(3, 100, [List.replicate 64 7])] ∧
    (t.fold 0).qu.outMsg.map (·.reached) = [true] := ⟨_, rfl, by decide, by decide⟩
theorem test_message_held : ∃ t, exec (.messageArrival 1 (.landed 3) true) landed = .next t ∧
    ((t.fold 1).queue 3).msgs = [{ slot := 0, lines := 1, node := none, fold := 0 }] ∧ ((t.fold 1).queue 3).expect = 1 :=
  ⟨_, rfl, by decide, by decide⟩
theorem test_credit : ∃ t, exec (.creditReturn 0 (.here 1 2)) traffic = .next t ∧ ((t.fold 0).chan 2).credits = 1 :=
  ⟨_, rfl, by decide⟩
theorem test_revocation : ∃ t, exec (.queueRevocation 0 (.here 1 2)) traffic = .next t ∧ ((t.fold 0).chan 2).closed = true :=
  ⟨_, rfl, by decide⟩
theorem pennant_ready : (takePns 1 6 [0] traffic).isSome = true ∧ CanRaise traffic := ⟨by decide, job, rfl, by decide⟩
theorem test_pennant : ∃ t, exec (.pennantIncrement 1 6 [0]) traffic = .next t ∧ (t.fold 1).qu.pn = [(6, 2)] :=
  ⟨_, rfl, by decide⟩

/-- The same with pennant 6 of fold 1 at 0xFFFF. -/
def fullPennant : State := traffic.setFold 1 { traffic.fold 1 with qu := { (traffic.fold 1).qu with pn := [(6, 0xFFFF)] } }
theorem test_pennant_overflow : ∃ t j, exec (.pennantIncrement 1 6 [0]) fullPennant = .next t ∧ t.job = some j ∧
    j.reports.map (·.code) = [0x19] ∧ (t.fold 1).qu.pn = [(6, 0xFFFF)] := ⟨_, _, rfl, rfl, by decide, by decide⟩

/-- A device of node 0 whose fold 1 holds queue 3 for a channel of node 9, with link 3 up, and the next flit of that node. -/
def fromNine : State :=
  let s := busy { fold0 with qu := { fold0.qu with ctab := [(2, { rem := true, node := 9, dfold := 1, dq := 3, slotm1 := 1, ncred := 2 })],
                                                   chans := [(2, { Chan.init with sent := [{ slot := 1, akind := 1, addr := 0, tag := 0 }] })] } }
  let x := s.fold 1
  let t := s.setFold 1 { x with qu := { x.qu with qtab := [(3, { base := 100, lines := 8 })] } }
  { t with rig := { t.rig with
      links := [(3, { Link.init with st := 2, farNode := 9, space := (List.range 8).map fun k => (k, 64) })]
      trees := [(5, { Tree.init with loc := true })] } }

def flit9 : FlitIn := { flit0 with link := 3, src := 9, epoch := 2 }
def msg9 (fold : BitVec 5) : NetMsg := { msg0 with ch := 2, dfold := fold, dq := 3, slot := 1, slotm1 := 1, ncred := 2 }

theorem from_nine_ready (u : State) (h : fromNine.acceptFlit flit9 2 (packetFlits 0) = some u) : fromNine.clocked = true ∧
    u.job = some job ∧ job.place (msg9 1).dfold.toNat = some 1 ∧ flit9.dst = fromNine.rig.nodeId ∧ fromNine.receives = true ∧
    ((u.fold 1).queue 3).bound = none ∧ ((u.fold 1).qent 3).lines = 8 ∧ ((u.fold 1).queue 3).closed = false ∧
    (peek Tree.init u.rig.trees 5).loc = true ∧ u.receives = true ∧ TreeLinks u 5 ∧
    (TreeHead.msg { head0 with ch := 2, dfold := 1, dq := 3, slot := 1, slotm1 := 1, ncred := 2 } []) = msg9 1 := by
  injection h with h; subst h; unfold TreeLinks; decide
theorem refused_ready (u : State) (h : fromNine.acceptFlit flit9 3 1 = some u) : fromNine.ownerOf (msg9 0) = some 0 ∧ u.job = some job ∧
    job.place (msg9 0).dfold.toNat = some 0 ∧ (∃ r ∈ ((u.fold 0).chan 2).sent, r.slot = 1) ∧ ((u.fold 0).chan 2).closed = false ∧
    CanRaise u := by
  injection h with h; subst h; exact ⟨by decide, by decide, by decide, by decide, by decide, job, rfl, rfl⟩
theorem test_far_message : (fromNine.acceptFlit flit9 2 (packetFlits 0)).isSome = true ∧
    ∃ t, exec (.messageArrival 1 (.rig flit9 (msg9 1)) true) fromNine = .next t ∧
    (t.fold 1).qu.inMsgs.map (fun n => (n.q, n.line)) = [(3, 102)] ∧ ((t.fold 1).queue 3).bound.map (·.node) = some (some 9) :=
  ⟨by decide, _, rfl, by decide, by decide⟩
theorem test_far_refused : ∃ t j, exec (.queueRevocation 0 (.refused flit9 (msg9 0) false)) fromNine = .next t ∧ t.job = some j ∧
    j.reports.map (·.code) = [0x18] := ⟨_, _, rfl, rfl, by decide⟩

/-- Loaded folds whose notices are still to come: fold 1 sends on its channel 2 to queue 3 of fold 0. -/
def unbound : State :=
  let ld (x : Fold) : Fold := { x with ex := { x.ex with run := .loaded } }
  let s := busy (ld { fold0 with qu := { fold0.qu with qtab := [(3, { base := 100, lines := 8 })] } })
  let x := ld (s.fold 1)
  s.setFold 1 { x with qu := { x.qu with ctab := [(2, { rem := false, node := 0, dfold := 0, dq := 3, slotm1 := 1, ncred := 4 })] } }

theorem notice_ready : (unbound.fold 0).qu.bound = false ∧ 0 ∈ job.places ∧
    (∀ g ∈ job.places, (unbound.fold g).ex.run = .loaded) ∧ (bindAll (unbound.fold 0) (notices unbound job 0)).2 = none ∧
    notices unbound job 0 ≠ [] := by decide
theorem test_notice : ∃ t, exec (.bindingNotice 0) unbound = .next t ∧ ((t.fold 0).queue 3).bound =
    some { node := none, fold := 1, ch := 2, slotm1 := 1, ncred := 4, tree := none } := ⟨_, rfl, by decide⟩

/-! ### The sp, mm and vx slots -/

/-- Tile 2 in use as S8 with 16 rows of 32 bytes. -/
def tile2 : Fold := { fold0 with ti := { fold0.ti with inUse := 0x0004, cfg := [(2, 0x0000010F)] } }

/-- A move of rows 0 to 15 of tile 2 from line 4. -/
def move (row0 : BitVec 7) (line : BitVec 17) : SpMove :=
  { tile := 2, row0 := row0, rows := 15, line := line, mode := 0, ss := 0 }

/-- The sp slot with a move of rows 0 to 15 or 1 to 16 of tile 2: the opcode lies at 95:91, TILE at 90:87, ROW0 at 86:80, ROWS at
79:73, LINE at 72:56, CFG at 79:48, MASK of sp.rel at 90:75, SS and STRIDE of sp.sset at 90:89 and 88:65 (R56). -/
def moving16 (op row0 line : Nat) : State := issued tile2 [(91, op), (87, 2), (80, row0), (73, 15), (56, line)]

theorem cfg_ready : SlotReady (issued fold0 [(91, 1), (87, 2), (48, 0x10F)]) 0 3 (.spCfg 0 2 0x10F) ∧
    SlotReady (issued fold0 [(91, 4), (75, 0xFFFF)]) 0 3 (.spRel 0 0xFFFF) ∧
    SlotReady (issued fold0 [(91, 5), (89, 1), (65, 0xFFFFFE)]) 0 3 (.spSset 0 1 (-2)) ∧
    cfgBad 2 0x0000010F fold0 = none ∧ spBusy fold0 = none :=
  ⟨by constructor <;> decide, by constructor <;> decide, by constructor <;> decide, by decide⟩
theorem move_ready : SlotReady (moving16 2 0 4) 0 3 (.spLdt 0 (move 0 4)) ∧ SlotReady (moving16 3 0 4) 0 3 (.spStt 0 (move 0 4)) ∧
    moveBad false (move 0 4) (moving16 2 0 4) tile2 = none ∧ moveBad true (move 0 4) (moving16 3 0 4) tile2 = none :=
  ⟨by constructor <;> decide, by constructor <;> decide, by decide⟩
theorem move_past_rows : SlotReady (moving16 2 1 4) 0 3 (.spLdt 0 (move 1 4)) ∧ SlotReady (moving16 3 1 4) 0 3 (.spStt 0 (move 1 4)) ∧
    cfgRows (tile2.ti.word 2) < (move 1 4).row0.toNat + ((move 1 4).rows.toNat + 1) ∧ CanRaise (moving16 2 1 4) :=
  ⟨by constructor <;> decide, by constructor <;> decide, by decide, job, rfl, rfl⟩
theorem move_past_lines : SlotReady (moving16 2 0 98304) 0 3 (.spLdt 0 (move 0 98304)) ∧ tile2.ti.used 2 = true ∧
    (move 0 98304).row0.toNat + 16 ≤ cfgRows (tile2.ti.word 2) ∧ 98304 ≤ (move 0 98304).line.toNat :=
  ⟨by constructor <;> decide, by decide⟩

/-- A row beyond the configured rows is a shape fault, a line beyond the scratchpad an address fault (R56, R88). -/
theorem test_bad_row : ∃ t j, exec (.spLdt 0 (move 1 4)) (moving16 2 1 4) = .next t ∧ t.job = some j ∧
    j.reports.map (·.code) = [0x11] := ⟨_, _, rfl, rfl, by decide⟩
theorem test_bad_line : ∃ t j, exec (.spLdt 0 (move 0 98304)) (moving16 2 0 98304) = .next t ∧ t.job = some j ∧
    j.reports.map (·.code) = [0x12] := ⟨_, _, rfl, rfl, by decide⟩

/-- A fold whose first due part is `op`, due in this cycle. -/
def due (x : Fold) (read : Bool) (op : DueOp) : State :=
  busy { x with ex := { x.ex with due := [{ cycle := 0, read := read, issue := 0, slot := 0, tag := 0, baddr := 0, op := op }] } }

/-- sp.cfg takes effect with IN_USE (R56, R79). -/
theorem test_cfg_lands : ∃ t, exec (.dueResultLands 0) (due fold0 false (.cfg 2 0x10F)) = .next t ∧
    (t.fold 0).ti.used 2 = true ∧ (t.fold 0).ti.word 2 = 0x10F := ⟨_, rfl, by decide, by decide⟩
theorem test_row_lands : ∃ t, exec (.dueResultLands 0) (due tile2 false (.tileRow 2 1 [9, 8] [])) = .next t ∧
    (t.fold 0).ti.row 2 1 2 = [9, 8] := ⟨_, rfl, by decide⟩
theorem test_scratchpad_lands : ∃ t, exec (.dueResultLands 0) (due fold0 false (.spWrite [(64, [1, 2])])) = .next t ∧
    (t.fold 0).sp.bytes 63 4 = [0, 1, 2, 0] := ⟨_, rfl, by decide⟩
theorem test_vector_lands : ∃ t, exec (.dueResultLands 0) (due fold0 false (.vecWrite [(5, 7)] none)) = .next t ∧
    (t.fold 0).ve.reg = [(5, 7)] := ⟨_, rfl, by decide⟩
theorem test_stride_lands : ∃ t, exec (.dueResultLands 0) (due fold0 false (.sset 1 (-2))) = .next t ∧
    (t.fold 0).ti.stride = [(1, -2)] := ⟨_, rfl, by decide⟩
theorem test_select_lands : ∃ t, exec (.dueResultLands 0) (due fold0 false (.selres 9)) = .next t ∧
    (t.fold 0).ex.selResult = 9 := ⟨_, rfl, by decide⟩
theorem test_release_lands : ∃ t, exec (.dueResultLands 0) (due tile2 false (.rel 0xFFFF)) = .next t ∧
    (t.fold 0).ti.inUse = 0 := ⟨_, rfl, by decide⟩
theorem due_now : DueNow (due fold0 false (.zero 1 0)) 0
    { cycle := 0, read := false, issue := 0, slot := 0, tag := 0, baddr := 0, op := .zero 1 0 } :=
  ⟨by decide, by decide, by decide⟩

/-- The first row of an sp.ldt comes from the line it names, seven cycles later (R70, R102). -/
def loading : State :=
  due { tile2 with sp := { tile2.sp with mem := putRun 0 [] 256 [5, 6, 7] } } true (.ldt (move 0 4) 0 0x10F 0 [] [])

theorem test_first_row : ∃ t, exec (.dueResultLands 0) loading = .next t ∧
    ((t.fold 0).ex.due.map fun d => (d.cycle, d.read)).getLast? = some (7, false) ∧
    ((t.fold 0).ex.due.getLast?.map fun d => match d.op with | .tileRow tl r b _ => (tl, r, b.take 4) | _ => (0, 0, [])) =
      some (2, 0, [5, 6, 7, 0]) := ⟨_, rfl, by decide, by decide⟩

/-- Tile 2 as weights and tile 3 as activations, both S8 with 128 rows of 128 bytes, tiles 4 to 7 for 32-bit results, residues
in check slot 0, and weights loaded in buffer 0 of array 0. -/
def matrices : Fold :=
  { fold0 with
    ti := { fold0.ti with inUse := 0x00FC,
                          cfg := [(2, 0xF7F), (3, 0xF7F), (4, 0x4F7F), (5, 0x4F7F), (6, 0x4F7F), (7, 0x4F7F)] }
    ex := { fold0.ex with pwr := 1 }
    mx := { fold0.mx with cvalid := 1, loads := [(0, some { cls := .c8, parts := 1, marks := 0 })] } }

def ldw : MmLdw := { arr := 1, bank := false, wtile := 2, rows := 127, wt := false, spl := 0, wrow0 := 0, cks := 0 }
def run : MmRun :=
  { arr := 1, bank := false, tile := 3, row0 := 0, rows := 3, swap := false, scale := 0, spl := 0, wtile := 0, wrow0 := 0 }
def drain : MmDrain :=
  { arr := 1, bank := false, dtile := 4, arow0 := 0, rows := 127, drow0 := 0, dfmt := 0, rnd := false, tid := 0, spl := 0,
    cko := 0, cks := 0 }

/-- The mm slot: the opcode lies at 223:218, ARR at 217:214, BANK at 213 and the tile at 212:209. mm.ldw has ROWS at 208:202; a
product ROW0 there, ROWS at 201:195 and WTILE at 183:180; mm.drain AROW0 at 208:202 and ROWS at 201:195 (R136-R139). -/
def running (op wtile : Nat) (x : Fold) : State := issued x [(218, op), (214, 1), (209, 3), (195, 3), (180, wtile)]

theorem ldw_ready : SlotReady (issued matrices [(218, 1), (214, 1), (209, 2), (202, 127)]) 0 1 (.mmLdw 0 ldw) ∧
    ldwBad ldw matrices = none ∧ SlotReady (issued matrices [(218, 6), (214, 15), (213, 1)]) 0 1 (.mmZero 0 15 true) ∧
    zeroBad 15 1 matrices = none :=
  ⟨by constructor <;> decide, by decide, by constructor <;> decide, by decide⟩
theorem run_ready : SlotReady (running 2 0 matrices) 0 1 (.mmRunWs 0 run) ∧ SlotReady (running 4 0 matrices) 0 1 (.mmRunIs 0 run) ∧
    SlotReady (running 3 2 matrices) 0 1 (.mmRunOs 0 { run with wtile := 2 }) ∧
    runBad false run matrices = none ∧ runBad true run matrices = none ∧
    runOsBad { run with wtile := 2 } matrices = none ∧ matrices.ex.active = [] ∧
    (arrays run.arr.toNat).length ≤ matrices.ex.pwr :=
  ⟨by constructor <;> decide, by constructor <;> decide, by constructor <;> decide, by decide⟩

/-- The fold whose bundle declares power class 0. -/
def idle : Fold := { matrices with ex := { matrices.ex with pwr := 0 } }

theorem run_undeclared : SlotReady (running 2 0 idle) 0 1 (.mmRunWs 0 run) ∧ CanRaise (running 2 0 idle) ∧ runBad false run idle = none ∧
    idle.ex.pwr < (arrays run.arr.toNat).length := ⟨by constructor <;> decide, ⟨job, rfl, rfl⟩, by decide⟩
theorem drain_ready : SlotReady (issued matrices [(218, 5), (214, 1), (209, 4), (195, 127)]) 0 1 (.mmDrain 0 drain) ∧
    drainBad drain matrices = none := ⟨by constructor <;> decide, by decide⟩

/-- A product makes its array active, and a bundle that declares less faults (R62). -/
theorem test_run : ∃ t, exec (.mmRunWs 0 run) (running 2 0 matrices) = .next t ∧ ((t.fold 0).mx.bank 0 0).empty = false ∧
    (t.fold 0).ex.active.length = 1 := ⟨_, rfl, by decide, by decide⟩
theorem test_run_undeclared : ∃ t j, exec (.mmRunWs 0 run) (running 2 0 idle) = .next t ∧
    t.job = some j ∧ j.reports.map (·.code) = [0x15] := ⟨_, _, rfl, rfl, by decide⟩
theorem test_drain : ∃ t, exec (.mmDrain 0 drain) (issued matrices [(218, 5), (214, 1), (209, 4), (195, 127)]) = .next t ∧
    (t.fold 0).mx.vStarted = 1 := ⟨_, rfl, by decide⟩
theorem test_load : ∃ t, exec (.mmLdw 0 ldw) (issued matrices [(218, 1), (214, 1), (209, 2), (202, 127)]) = .next t ∧
    (t.fold 0).ex.busyAt 11 = (128, 0) := ⟨_, rfl, by decide⟩

/-- Sixteen 32-bit elements. -/
def vx16 : Vx :=
  { vd := 3, va := 1, vb := 2, vc := 4, count := 15, form := 3, ba := false, bb := false, bc := false, sub := 0 }

/-- The vx slot: the opcode lies at 159:153, VD, VA, VB and VC at 152:148, 147:143, 142:138 and 137:133, COUNT at 132:121 and FORM
at 120:118 (R204). -/
def vxBundle (op form : Nat) : State := issued fold0 [(153, op), (148, 3), (143, 1), (138, 2), (133, 4), (121, 15), (118, form)]

theorem vx_ready : SlotReady (vxBundle 0x10 3) 0 2 (.vxAnd 0 vx16) ∧ vxBad .and_ vx16 fold0 = none ∧
    SlotReady (vxBundle 0x01 0) 0 2 (.vxAdd 0 { vx16 with form := 0 }) ∧ vxBad .add { vx16 with form := 0 } fold0 = none ∧
    SlotReady (vxBundle 0x20 0) 0 2 (.vxExp2 0 { vx16 with form := 0 }) ∧ vxBad .exp2 { vx16 with form := 0 } fold0 = none ∧
    SlotReady (vxBundle 0x38 0) 0 2 (.vxRsum 0 { vx16 with form := 0 }) ∧ rowBad .rsum { vx16 with form := 0 } fold0 = none ∧
    SlotReady (vxBundle 0x3A 0) 0 2 (.vxSmax 0 { vx16 with form := 0 }) ∧ rowBad .smax { vx16 with form := 0 } fold0 = none :=
  ⟨by constructor <;> decide, by decide, by constructor <;> decide, by decide, by constructor <;> decide, by decide,
    by constructor <;> decide, by decide, by constructor <;> decide, by decide⟩
theorem vx_last_register : vxBad .and_ { vx16 with vd := 31 } fold0 = none ∧
    (vxBad .and_ { vx16 with vd := 31, count := 128 } fold0).isSome = true := by decide

def vxMem : VxMem := { vd := 1, va := 0, count := 15, form := 3, line := 5, ss := 0, mode := 0, pop := false }
def vxAcc : VxAcc := { vd := 1, count := 127, form := 0, arrn := 0, bank := false, arow0 := 0, spl := 0 }

/-- LINE of vx.ld and vx.st lies at 117:101; of vx.acc, whose AROW0 and ARR are 0 here, VD and COUNT lie where vx.and has them
(R214, R218). -/
theorem vx_mem_ready : SlotReady (issued fold0 [(153, 0x30), (148, 1), (121, 15), (118, 3), (101, 5)]) 0 2 (.vxLd 0 vxMem) ∧
    moveVxBad false vxMem fold0 = none ∧
    SlotReady (issued fold0 [(153, 0x31), (121, 15), (118, 3), (101, 5)]) 0 2 (.vxSt 0 { vxMem with vd := 0 }) ∧
    moveVxBad true { vxMem with vd := 0 } fold0 = none ∧
    SlotReady (issued fold0 [(153, 0x32), (148, 1), (121, 127)]) 0 2 (.vxAcc 0 vxAcc) ∧ accBad vxAcc fold0 = none :=
  ⟨by constructor <;> decide, by decide, by constructor <;> decide, by decide, by constructor <;> decide, by decide⟩

/-- Elements are combined one by one (R205). -/
def vxAnding : State :=
  due { fold0 with ve := { fold0.ve with reg := [(128, 0xFF0), (256, 0x0FF)] } } true (.vx .and_ { vx16 with count := 0 } false 0)

theorem test_and : ∃ t, exec (.dueResultLands 0) vxAnding = .next t ∧
    ((t.fold 0).ex.due.map fun d => match d.op with | .vecWrite l _ => l | _ => []) = [[(384, 0x0F0)]] :=
  ⟨_, rfl, by decide⟩

/-- A part due to be read or written in this cycle, on a fold that owes the drover nothing. -/
theorem due_any (op : DueOp) (read : Bool) :
    DueNow (due fold0 read op) 0 { cycle := 0, read := read, issue := 0, slot := 0, tag := 0, baddr := 0, op := op } ∧
      (due fold0 read op).unserved ((due fold0 read op).fold 0) = false ∧ ((due fold0 read op).fold 0).rowsDue = false ∧
      fold0.landed.endDrover.ve.bad = [] ∧ fold0.landed.endDrover.ve.laneBad = none ∧ fold0.landed.endDrover.sp.err = [] ∧
      fold0.landed.endDrover.ti.bad = [] ∧ fold0.landed.endDrover.mx.convBad = none :=
  ⟨⟨rfl, Nat.le_refl 0, by show FoldRun.running ≠ .idle; decide⟩, rfl, rfl, by decide, by decide, by decide, by decide, by decide⟩

/-- 1.0 and 2.0 in v1 and v2, and in the first two elements of v1 (R205, R209). -/
def floats : Fold := { fold0 with ve := { fold0.ve with reg := [(128, 0x3F800000), (129, 0x40000000), (256, 0x40000000)] } }

theorem test_fp_add : ∃ t, exec (.dueResultLands 0) (due floats true (.vx .add { vx16 with count := 0, form := 0 } false 0)) = .next t ∧
    ((t.fold 0).ex.due.map fun d => match d.op with | .vecWrite l _ => l | _ => []) = [[(384, 0x40400000)]] := ⟨_, rfl, by decide +kernel⟩
theorem test_row_sum : ∃ t, exec (.dueResultLands 0) (due floats true (.vrow .rsum { vx16 with count := 1, form := 0 } false 0 0 [])) = .next t ∧
    ((t.fold 0).ex.due.map fun d => match d.op with | .vecWrite l _ => l | _ => []) = [[(384, 0x40400000)]] := ⟨_, rfl, by decide +kernel⟩
theorem test_vld : ∃ t, exec (.dueResultLands 0)
      (due { fold0 with sp := { fold0.sp with mem := putRun 0 [] 320 [7, 1] } } true (.vld { vxMem with count := 0 } 1 0 0)) = .next t ∧
    ((t.fold 0).ex.due.map fun d => (d.cycle, match d.op with | .vecWrite l _ => l | _ => [])) = [(7, [(128, 0x107)])] :=
  ⟨_, rfl, by decide +kernel⟩
theorem test_vst : ∃ t, exec (.dueResultLands 0) (due floats true (.vst { vxMem with va := 1, count := 0 } 1 0)) = .next t ∧
    ((t.fold 0).ex.due.map fun d => (d.cycle, match d.op with | .spWrite l => l | _ => [])) = [(2, [(320, [0, 0, 0x80, 0x3F])])] :=
  ⟨_, rfl, by decide +kernel⟩

/-- A product of one row of tile 3 in array 0, whose weight of column 5 is 3, and the step that adds what it gives (R117, R123). -/
def prod : RunRec :=
  { os := false, cls := .c8, arr := 0, bank := 0, tile := 3, row0 := 0, steps := 1, scale := 0, parts := 1, wtile := 0, wrow0 := 0,
    lead := true, w := [(5, [{ m := 3, x := 0, pos := 0 }])], wlow := [], ccol := [], marks := 0 }
def adds (v : Int) : StepRec :=
  { arr := 0, bank := 0, os := false, parts := 1, row := 0, cols := [[(5, v)], [(6, 1)]], rr := [[(0, 0)], [(0, 0)]], col := 5,
    trunc := [0], nonf := [false], rc := [0] }

/-- Activation 2 times weight 3 makes 6, due at accumulator 5 in cycle 262 (R70, R133). -/
theorem test_product : ∃ t, exec (.dueResultLands 0)
      (due { matrices with ti := { matrices.ti with dat := putRun 0 [] (128 * (128 * 3)) [2], known := [(384, true)] } } true (.run prod 0)) = .next t ∧
    ((t.fold 0).ex.due.map fun d => (d.cycle, match d.op with | .step u => u.cols.getD 5 [] | _ => [])) = [(262, [(5, 6)])] :=
  ⟨_, rfl, by decide +kernel⟩
theorem test_add_step : ∃ t, exec (.dueResultLands 0) (due matrices false (.step (adds 6))) = .next t ∧
    (t.fold 0).mx.accOf 0 0 5 = 6 ∧ ((t.fold 0).ex.due.map (·.cycle)) = [1] := ⟨_, rfl, by decide +kernel, by decide +kernel⟩

/-- An accumulator saturates at 2^63 - 1 (R154). -/
theorem test_saturates : ∃ t, exec (.dueResultLands 0)
      (due { matrices with mx := { matrices.mx with acc := [(5, BitVec.ofInt 64 (2 ^ 63 - 2))] } } false (.step (adds 6))) = .next t ∧
    (t.fold 0).mx.accOf 0 0 5 = 2 ^ 63 - 1 := ⟨_, rfl, by decide +kernel⟩

/-- The last row of a drain to tile 4 of accumulators of which the first holds 3 (R139, R158, R173). -/
def shiftDrain : DrainRec :=
  { arr := 0, bank := 0, vx := false, row0 := 0, rows := 1, dtile := 4, drow0 := 0, dfmt := 0, rnd := false, tseed := 0, parts := 1,
    cko := 0, cks := 0, vd := 0, scale := 0, os := false, bad := [none], colSum := [0], kept := [], id := 0, tag := 0, baddr := 0, issue := 0 }

theorem test_drain_row : ∃ t, exec (.dueResultLands 0)
      (due { matrices with mx := { matrices.mx with acc := [(0, 3)] } } true (.drain shiftDrain 0)) = .next t ∧
    ((t.fold 0).ex.due.map fun d => (d.cycle, match d.op with | .tileRow t r b _ => (t, r, b.take 5) | _ => (0, 0, []))) =
      (List.range 4).map (fun k => (6, 4 + k, 0, if k = 0 then [0, 0, 0x40, 0x40, 0] else [0, 0, 0, 0, 0])) ∧
    (t.fold 0).mx.verdicts.map (fun v => (v.cycle, v.parts)) = [(9, [(.fail, 0)])] := ⟨_, rfl, by decide +kernel, by decide +kernel⟩

/-- A bundle whose ctl slot holds a reserved opcode (R50). -/
def reserved : State := busy { fold0 with ex := { fold0.ex with bundles := [(0, 0x3F <<< 250)] } }

/-- A fold that has issued 8,192 bundles without a stall point (R26). -/
def spaced (n : Nat) : State := busy { fold0 with ex := { fold0.ex with sinceStall := n } }

theorem reserved_ready : CanRaise reserved ∧ (bundleEnc (reserved.fold 0).nextWord).isSome = true ∧
    (reserved.fold 0).executes = true ∧ (reserved.fold 0).late 0 = false ∧ (reserved.fold 0).atBreak = false :=
  ⟨⟨job, rfl, by decide⟩, by decide⟩
theorem test_reserved : ∃ t j, exec (.reservedOpcode 0) reserved = .next t ∧ t.job = some j ∧
    j.reports.map (·.code) = [0x10] := ⟨_, _, rfl, rfl, by decide⟩
theorem test_spacing : ∃ t j, exec (.stallSpacing 0) (spaced 8192) = .next t ∧ t.job = some j ∧
    j.reports.map (·.code) = [0x14] := ⟨_, _, rfl, rfl, by decide⟩
theorem test_spacing_within : ∃ t j, exec (.stallSpacing 0) (spaced 8191) = .next t ∧ t.job = some j ∧ j.reports = [] :=
  ⟨_, _, rfl, rfl, by decide⟩

/-! ### The shepherd -/

/-- The word of instruction `k` of the table of R73, with the fields `l` below its opcode, whose number the manual does not give. -/
def shWord (k : Nat) (l : List (Nat × Nat)) : Word :=
  BitVec.ofNat 32 ((Config.shOpcode k).toNat * 2 ^ 25 + sumNat (l.map fun p => p.2 * 2 ^ p.1))

theorem fld_low (c n lo k : Nat) (h : lo + k ≤ 25) : fld (c * 2 ^ 25 + n) lo k = fld n lo k := by
  obtain ⟨d, hd⟩ := Nat.exists_eq_add_of_le h
  have e : c * 2 ^ 25 = 2 ^ lo * (2 ^ k * (c * 2 ^ d)) := by rw [hd, Nat.pow_add, Nat.pow_add]; ac_rfl
  rw [fld, fld, e, Nat.mul_add_div (Nat.two_pow_pos lo), Nat.mul_add_mod]

theorem fieldIs_low {k : Nat} (c n lo : Nat) (v : BitVec k) (h : lo + k ≤ 25) :
    fieldIs (c * 2 ^ 25 + n) lo v = fieldIs n lo v := by
  rw [fieldIs, fieldIs, fld_low c n lo k h]

theorem shFields_low (i : Instr) (c n : Nat) : shFields i (c * 2 ^ 25 + n) = shFields i n := by
  unfold shFields
  split <;> simp only [fieldIs_low, Nat.reduceAdd, Nat.reduceLeDiff, Nat.le_refl]

/-- The word holds the instruction whose fields it has. -/
theorem in_word (i : Instr) (k : Nat) (l : List (Nat × Nat)) (hk : shRow i = some k)
    (hn : sumNat (l.map fun p => p.2 * 2 ^ p.1) < 2 ^ 25) (hf : shFields i (sumNat (l.map fun p => p.2 * 2 ^ p.1)) = true) :
    inWord i (shWord k l) = true := by
  have hc := (Config.shOpcode k).isLt
  have e : (shWord k l).toNat = (Config.shOpcode k).toNat * 2 ^ 25 + sumNat (l.map fun p => p.2 * 2 ^ p.1) := by
    rw [shWord, BitVec.toNat_ofNat, Nat.mod_eq_of_lt (by omega)]
  have o : fld (shWord k l).toNat 25 7 = (Config.shOpcode k).toNat := by
    rw [e, fld, Nat.mul_comm, Nat.mul_add_div (by decide), Nat.div_eq_of_lt hn, Nat.add_zero, Nat.mod_eq_of_lt (by omega)]
  rw [inWord, hk]
  simp only [fieldIs, o, decide_true, Bool.true_and]
  rw [e, shFields_low, hf]

/-- A fold whose shepherd comes to the word of instruction `k` with the fields `l`. -/
def shAt (x : Fold) (k : Nat) (l : List (Nat × Nat)) : State := busy { x with sh := { x.sh with imem := [(x.sh.pc, shWord k l)] } }

theorem sh_word (x : Fold) (k : Nat) (l : List (Nat × Nat)) : ((shAt x k l).fold 0).sh.word = shWord k l := by
  show (if x.sh.pc = x.sh.pc then shWord k l else 0) = shWord k l
  rw [if_pos rfl]

/-- It is ready for the instruction. -/
theorem sh_ready (x : Fold) (i : Instr) (k : Nat) (l : List (Nat × Nat)) (hr : x.sh.run = .running) (ha : x.sh.acc = none)
    (hd : x.db.all = false) (he : x.sh.ierr = []) (hk : shRow i = some k)
    (hn : sumNat (l.map fun p => p.2 * 2 ^ p.1) < 2 ^ 25) (hf : shFields i (sumNat (l.map fun p => p.2 * 2 ^ p.1)) = true) :
    ShReady (shAt x k l) 0 i where
  job := ⟨job, rfl, rfl⟩
  load a h := by rw [show ((shAt x k l).fold 0).sh.acc = x.sh.acc from rfl, ha] at h; cases h
  free := by show (x.db.all && _) = false; rw [hd]; rfl
  run := hr
  whole := by rw [show ((shAt x k l).fold 0).sh.ierr = x.sh.ierr from rfl, he]; rfl
  word := by rw [sh_word]; exact in_word i k l hk hn hf

/-- What a ready shepherd does. -/
theorem sh_runs {s : State} {f : FoldId} {i : Instr} {on : Option WaitOn} {act : State → State} (h : ShReady s f.toNat i)
    (e : exec i s = whileClocked s (shExec s f i on act)) (c : s.clocked = true) : exec i s = .next (act s) :=
  e.trans ((whileClocked_running c _).trans (congrArg _ (shExec_ready h on act)))

/-- The shepherd with s1 = 0x80000001 and s2 = 33, at code address 10. -/
def sh : Fold := { fold0 with sh := { fold0.sh with reg := [(1, 0x80000001), (2, 33)], pc := 10 } }

/-- DS, SA and SB lie at 24:20, 19:15 and 14:10, a branch's SA, SB and OFF at 24:20, 19:15 and 14:0 (R73). -/
theorem test_sra : ∃ t, exec (.shSra 0 3 1 2) (shAt sh 7 [(20, 3), (15, 1), (10, 2)]) = .next t ∧ (t.fold 0).sh.get 3 = 0xC0000000 ∧
    (t.fold 0).sh.pc = 11 :=
  ⟨_, sh_runs (sh_ready _ _ _ _ rfl rfl rfl rfl rfl (by decide) (by decide)) rfl rfl, by decide, by decide⟩
theorem test_zero_register : ∃ t, exec (.shAdd 0 0 1 2) (shAt sh 0 [(15, 1), (10, 2)]) = .next t ∧ (t.fold 0).sh.get 0 = 0 ∧
    (t.fold 0).sh.reg = sh.sh.reg :=
  ⟨_, sh_runs (sh_ready _ _ _ _ rfl rfl rfl rfl rfl (by decide) (by decide)) rfl rfl, by decide, by decide⟩
theorem test_slt : ∃ t, exec (.shSlt 0 3 1 2) (shAt sh 14 [(20, 3), (15, 1), (10, 2)]) = .next t ∧ (t.fold 0).sh.get 3 = 1 :=
  ⟨_, sh_runs (sh_ready _ _ _ _ rfl rfl rfl rfl rfl (by decide) (by decide)) rfl rfl, by decide⟩
theorem test_sltu : ∃ t, exec (.shSltu 0 3 1 2) (shAt sh 15 [(20, 3), (15, 1), (10, 2)]) = .next t ∧ (t.fold 0).sh.get 3 = 0 :=
  ⟨_, sh_runs (sh_ready _ _ _ _ rfl rfl rfl rfl rfl (by decide) (by decide)) rfl rfl, by decide⟩
theorem test_blt_back : ∃ t, exec (.shBlt 0 1 2 (-10)) (shAt sh 19 [(20, 1), (15, 2), (0, 32758)]) = .next t ∧ (t.fold 0).sh.pc = 0 :=
  ⟨_, sh_runs (sh_ready _ _ _ _ rfl rfl rfl rfl rfl (by decide) (by decide)) rfl rfl, by decide⟩
theorem test_bge_not_taken : ∃ t, exec (.shBge 0 1 2 5) (shAt sh 20 [(20, 1), (15, 2), (0, 5)]) = .next t ∧ (t.fold 0).sh.pc = 11 :=
  ⟨_, sh_runs (sh_ready _ _ _ _ rfl rfl rfl rfl rfl (by decide) (by decide)) rfl rfl, by decide⟩
theorem test_jal : ∃ t, exec (.shJal 0 1 63) (shAt sh 23 [(20, 1), (0, 63)]) = .next t ∧ (t.fold 0).sh.pc = 63 ∧
    (t.fold 0).sh.get 1 = 11 :=
  ⟨_, sh_runs (sh_ready _ _ _ _ rfl rfl rfl rfl rfl (by decide) (by decide)) rfl rfl, by decide, by decide⟩

/-- Data memory with a negative halfword at its end, and s1 at the last word. -/
def shMem : Fold := { fold0 with sh := { fold0.sh with reg := [(1, 65532), (2, 0x12345678)], dmem := [(65534, 0xFE), (65535, 0xFF)] } }

theorem sh_mem_ready : ShReady (shAt shMem 25 [(20, 3), (15, 1)]) 0 (.shLw 0 3 1 0) ∧
    (shMem.sh.get 1 + (0 : BitVec 15).signExtend 32).toNat + 4 ≤ 65536 ∧ shMem.sh.dataBad 65532 4 = none :=
  ⟨sh_ready _ _ _ _ rfl rfl rfl rfl rfl (by decide) (by decide), by decide⟩
/-- The same with a single-bit error in the last word, which its load corrects and counts (R418). -/
def shSpotted : Fold := { shMem with sh := { shMem.sh with derr := [(16383, 1)] } }

theorem sh_spotted_ready : ShReady (shAt shSpotted 25 [(20, 3), (15, 1)]) 0 (.shLw 0 3 1 0) ∧ peek 0 shSpotted.sh.derr (65532 / 4) = 1 :=
  ⟨sh_ready _ _ _ _ rfl rfl rfl rfl rfl (by decide) (by decide), by decide⟩
theorem sh_fetch_spotted : peek 0 [(shMem.sh.pc, 1)] shMem.sh.pc = 1 ∧
    ∃ k l, ShReady (shAt shMem k l) 0 (.shAddi 0 3 1 0) :=
  ⟨by decide, 8, [(20, 3), (15, 1)], sh_ready _ _ _ _ rfl rfl rfl rfl rfl (by decide) (by decide)⟩
theorem test_lw_corrects : ∃ t, exec (.shLw 0 3 1 0) (shAt shSpotted 25 [(20, 3), (15, 1)]) = .next t ∧ (t.fold 0).sp.eccCount = 1 ∧
    (t.fold 0).sh.derr = [] :=
  ⟨_, sh_runs (f := 0) sh_spotted_ready.1 rfl rfl, by decide, by decide⟩
theorem test_lh : ∃ t, exec (.shLh 0 3 1 2) (shAt shMem 26 [(20, 3), (15, 1), (0, 2)]) = .next t ∧ (t.fold 0).sh.get 3 = 0xFFFFFFFE :=
  ⟨_, sh_runs (sh_ready _ _ _ _ rfl rfl rfl rfl rfl (by decide) (by decide)) rfl rfl, by decide⟩
theorem test_lhu : ∃ t, exec (.shLhu 0 3 1 2) (shAt shMem 27 [(20, 3), (15, 1), (0, 2)]) = .next t ∧ (t.fold 0).sh.get 3 = 0x0000FFFE :=
  ⟨_, sh_runs (sh_ready _ _ _ _ rfl rfl rfl rfl rfl (by decide) (by decide)) rfl rfl, by decide⟩
theorem test_sw : ∃ t, exec (.shSw 0 1 2 0) (shAt shMem 30 [(20, 1), (15, 2)]) = .next t ∧
    (t.fold 0).sh.dmem = [(65532, 0x78), (65533, 0x56), (65534, 0x34), (65535, 0x12)] :=
  ⟨_, sh_runs (sh_ready _ _ _ _ rfl rfl rfl rfl rfl (by decide) (by decide)) rfl rfl, by decide⟩
theorem test_misaligned : ∃ t j, exec (.shLw 0 3 1 1) (shAt shMem 25 [(20, 3), (15, 1), (0, 1)]) = .next t ∧ t.job = some j ∧
    (j.reports.map fun r => (r.code, r.detail)) = [(0x1E, 2)] :=
  ⟨_, _, sh_runs (sh_ready _ _ _ _ rfl rfl rfl rfl rfl (by decide) (by decide)) rfl rfl, rfl, by decide⟩
theorem test_past_memory : ∃ t j, exec (.shLw 0 3 1 4) (shAt shMem 25 [(20, 3), (15, 1), (0, 4)]) = .next t ∧ t.job = some j ∧
    (j.reports.map fun r => (r.code, r.detail)) = [(0x1E, 3)] :=
  ⟨_, _, sh_runs (sh_ready _ _ _ _ rfl rfl rfl rfl rfl (by decide) (by decide)) rfl rfl, rfl, by decide⟩

/-- A task list with one task of another fold, in a job that may glean. -/
def tasks : State :=
  let s := shAt sh 41 [(20, 3), (15, 4)]
  s.setFold 1 { s.fold 1 with dr := { (s.fold 1).dr with tasks := [0x80000001, 0xC0000002] } }

theorem tasks_ready : ShReady tasks 0 (.shTpop 0 3 4 0) :=
  { sh_ready sh (.shTpop 0 3 4 0) 41 [(20, 3), (15, 4)] rfl rfl rfl rfl rfl (by decide) (by decide) with }
theorem glean_ready : (tasks.fold 0).dr.tasks = [] ∧ (glean tasks job 0).isSome = true ∧ (1 : Nat) ≠ 0 ∧
    (tasks.fold 1).ex.run ≠ .idle := by decide
theorem test_glean : ∃ t, exec (.shTpop 0 3 4 0) tasks = .next t ∧ (t.fold 0).sh.get 3 = 0xC0000002 ∧
    (t.fold 1).dr.tasks = [0x80000001] ∧ t.job.map (·.glean) = some 1 :=
  ⟨_, sh_runs (f := 0) tasks_ready rfl rfl, by decide, by decide, by decide⟩
theorem push_ready : (sh.sh.get 1).getLsbD 31 = true ∧ sh.dr.tasks.length < 256 := by decide
theorem test_push : ∃ t, exec (.shTpush 0 0 1 0) (shAt sh 40 [(15, 1)]) = .next t ∧ (t.fold 0).dr.tasks = [0x80000001] :=
  ⟨_, sh_runs (sh_ready _ _ _ _ rfl rfl rfl rfl rfl (by decide) (by decide)) rfl rfl, by decide⟩
theorem test_arm_register : ∃ t, exec (.shArm 0 2 1) (shAt sh 35 [(15, 2), (0, 1)]) = .next t ∧ (t.fold 0).ex.armAddr = 34 ∧
    (t.fold 0).ex.armValid = true :=
  ⟨_, sh_runs (sh_ready _ _ _ _ rfl rfl rfl rfl rfl (by decide) (by decide)) rfl rfl, by decide, by decide⟩

theorem missing : ∀ (n : Nat) (l : List Nat), l.length < n → ∃ k < n, k ∉ l
  | 0, _, h => absurd h (Nat.not_lt_zero _)
  | n + 1, l, h => by
    by_cases hn : n ∈ l
    · obtain ⟨k, hk, hm⟩ := missing n (l.erase n) (by have := List.length_erase_of_mem hn; have := List.length_pos_of_mem hn; omega)
      exact ⟨k, by omega, fun hc => hm ((List.mem_erase_of_ne (by omega)).mpr hc)⟩
    · exact ⟨n, by omega, hn⟩

/-- Some opcode belongs to no instruction of R73. -/
theorem illegal_ready : ∃ w : Word, shIllegal w = true := by
  obtain ⟨k, hk, hm⟩ := missing 128 ((List.range shRows).map fun i => (Config.shOpcode i).toNat)
    (by rw [List.length_map, List.length_range]; decide)
  refine ⟨BitVec.ofNat 32 (k * 2 ^ 25), ?_⟩
  have e : fld (BitVec.ofNat 32 (k * 2 ^ 25)).toNat 25 7 = k := by
    rw [BitVec.toNat_ofNat, fld]; omega
  rw [shIllegal, List.all_eq_true]
  intro i hi
  simp only [fieldIs, e, Bool.not_eq_true', decide_eq_false_iff_not]
  exact fun h => hm (List.mem_map.mpr ⟨i, hi, h.symm⟩)

/-! ### Descriptors and their transfers -/

/-- A descriptor of kind `k` at 0x2000 with the fields of `w`. -/
def dsc (k w : Nat) : Desc := { addr := 0x2000, akind := 2, w := BitVec.ofNat 256 (at_ 252 4 k + w) }

/-- TOK with tag 0x155. -/
def tok : Nat := at_ 237 1 1 + at_ 225 12 0x155

/-- A fold whose first memory list holds `ds` and continues at 0x3000, the second list having ended. -/
def lists (ds : List Desc) : State :=
  busy { fold0 with ex := { fold0.ex with cycle := 7 }
                    dr := { fold0.dr with dl0 := { next := 0x3000, live := true, asked := false, buf := ds } } }

theorem list_runs : droverRuns (lists []) ((lists []).fold 0) = true ∧ ((lists []).fold 0).dr.dl1.live = false ∧
    (dsc kEnd 0).decodeBad 0 = false ∧ (dsc kLink (at_ 96 64 0x5020)).next % 32 = 0 ∧ kClaim < (dsc 11 0).kind := by decide

/-- A fold whose list continues at `a`, an address of host memory or the last place of a block of device memory. -/
def bursting (a : Nat) (asked : Bool) : State :=
  let s := busy { fold0 with dr := { fold0.dr with dl0 := { next := a, live := true, asked := asked, buf := [] } } }
  let e : TtEnt := { ubase := 0x7000, tbase := 0x7000, size := 4096, rd := true, wr := true, pasid := none, valid := true }
  let r : Req := { who := .burst 0 0, off := 0, addr := 0x3000, n := 8, wr := false, data := [] }
  { s with host := { s.host with tt := [e] }
           msd := { s.msd with ports := [(6, { Port.init with out := [(r, List.replicate 512 0, List.replicate 8 (0, false))] })] } }

theorem burst_due : ((bursting 0x31E0 false).fold 0).dr.dl0.burstDue = true ∧ isHost 0x31E0 = false ∧
    0x31E0 < (bursting 0x31E0 false).limit ∧ shareBad (bursting 0x31E0 false) .read 0x31E0 = none ∧
    ((bursting (2 ^ 63 + 0x7000) false).fold 0).dr.dl0.burstDue = true ∧ isHost (2 ^ 63 + 0x7000) = true ∧
    (bursting (2 ^ 63 + 0x7000) false).mayAccess (2 ^ 63 + 0x7000) false = true ∧ (bursting 0x31E0 false).limit - 0x3000 ≥ 512 ∧
    (0x3000 : BitVec 64).toNat = 0x31E0 / 512 * 512 ∧ (0x3200 : BitVec 64).toNat ≠ 0x31E0 / 512 * 512 ∧
    (0x8000000000007000 : BitVec 64).toNat = (2 ^ 63 + 0x7000) / 512 * 512 := by decide

theorem test_end_descriptor : ∃ t, exec (.end_ 0 0) (lists [dsc kEnd 0]) = .next t ∧ (t.fold 0).dr.dl0.live = false ∧
    (t.fold 0).dr.dl0.buf = [] := ⟨_, rfl, by decide, by decide⟩
theorem test_link : ∃ t, exec (.link 0 0) (lists [dsc kLink (at_ 96 64 0x5020)]) = .next t ∧ (t.fold 0).dr.dl0.next = 0x5020 ∧
    (t.fold 0).dr.dl1.live = false := ⟨_, rfl, by decide, by decide⟩

/-- A LINK with FORK starts the second list and goes on after itself (R236). -/
theorem test_fork : ∃ t, exec (.link 0 0) (lists [dsc kLink (at_ 96 64 0x5020 + at_ 95 1 1)]) = .next t ∧
    (t.fold 0).dr.dl0.next = 0x2020 ∧ (t.fold 0).dr.dl1.next = 0x5020 := ⟨_, rfl, by decide, by decide⟩
theorem test_reserved_kind : ∃ t j, exec (.reservedDescriptorKind 0 0) (lists [dsc 11 0]) = .next t ∧ t.job = some j ∧
    j.reports.map (·.code) = [0x10] := ⟨_, _, rfl, rfl, by decide⟩

/-- A burst that begins in the last place of its block asks for the whole block and brings one descriptor (R228). -/
theorem test_burst : ∃ t, exec (.descriptorBurst 0 false 0x3000) (bursting 0x31E0 false) = .next t ∧ (t.fold 0).dr.dl0.asked = true ∧
    ((List.range 24).map fun p => ((t.port p).rq.map fun r => (r.addr, r.n))).flatten = [(0x3000, 8)] :=
  ⟨_, rfl, by decide, by decide⟩
theorem test_burst_comes : ∃ t, exec (.readDataOut 6 []) (bursting 0x31E0 true) = .next t ∧
    (t.fold 0).dr.dl0.next = 0x3200 ∧ (t.fold 0).dr.dl0.buf = [{ addr := 0x31E0, akind := 2, w := 0 }] :=
  ⟨_, rfl, by decide +kernel, by decide +kernel⟩

def sync : Desc := dsc kSync tok
/-- One line from 0x1000 to scratchpad line 4. -/
def read : Desc := dsc kRead (tok + at_ 96 64 0x1000 + at_ 44 17 4)
/-- Scratchpad lines 4 and 5 to 0x1000. -/
def write : Desc := dsc kWrite (tok + at_ 96 64 0x1000 + at_ 63 17 1 + at_ 44 17 4)
def foldD : Desc := dsc kFold (tok + at_ 121 5 1)
def chanD : Desc := dsc kChan (tok + at_ 91 4 2)
/-- A line of 0x1000 for both folds. -/
def msrc : Desc := dsc kMsrc (tok + at_ 96 64 0x1000 + at_ 88 8 5 + at_ 56 32 3)
def mtap : Desc := dsc kMtap (tok + at_ 152 8 5 + at_ 133 17 9)
/-- Site 3 with two slots of one part each, from 0x8000 on. -/
def predictD : Desc := dsc kPredict (tok + at_ 119 41 0x8000 + at_ 99 20 1 + at_ 77 6 3 + at_ 74 3 1 + at_ 8 8 7)
def claim : Desc := dsc kClaim (tok + at_ 152 8 5 + at_ 120 32 1 + at_ 114 6 3 + at_ 111 3 1 + at_ 103 8 6)

theorem ready_sync : Startable (lists [sync]) 0 0 kSync sync ∧ notifyBad (lists [sync]) sync = none :=
  ⟨by constructor <;> decide, by decide⟩
theorem ready_read : Startable (lists [read]) 0 0 kRead read ∧ rwBad .read (lists [read]) ((lists [read]).fold 0) read = none :=
  ⟨by constructor <;> decide, by decide⟩
theorem ready_write : Startable (lists [write]) 0 0 kWrite write ∧
    rwBad .write (lists [write]) ((lists [write]).fold 0) write = none := ⟨by constructor <;> decide, by decide⟩

/-- The lists of a fold whose pennant 0 and channel 2 can be spent. -/
def spending (d : Desc) : State :=
  let s := lists [d]
  let x := s.fold 0
  s.setFold 0 { x with qu := { x.qu with
    pn := [(0, 3)]
    ctab := [(2, { rem := false, node := 0, dfold := 1, dq := 4, slotm1 := 1, ncred := 2 })]
    chans := [(2, { Chan.init with credits := 2 })] } }

theorem ready_fold : Startable (spending foldD) 0 0 kFold foldD ∧
    foldBad (spending foldD) ((spending foldD).fold 0) foldD = none := ⟨by constructor <;> decide, by decide⟩
theorem ready_chan : Startable (spending chanD) 0 0 kChan chanD ∧
    chanDescBad (spending chanD) ((spending chanD).fold 0) chanD = none := ⟨by constructor <;> decide, by decide⟩
theorem ready_msrc : Startable (lists [msrc]) 0 0 kMsrc msrc ∧
    streamBad (lists [msrc]) ((lists [msrc]).fold 0) msrc msrc.msid msrc.subs msrc.mem msrc.mGeom = none :=
  ⟨by constructor <;> decide, by decide⟩
theorem ready_mtap : Startable (lists [mtap]) 0 0 kMtap mtap ∧ mtapBad (lists [mtap]) ((lists [mtap]).fold 0) mtap = none :=
  ⟨by constructor <;> decide, by decide⟩
theorem ready_predict : Startable (lists [predictD]) 0 0 kPredict predictD ∧
    predictBad (lists [predictD]) ((lists [predictD]).fold 0) predictD = none := ⟨by constructor <;> decide, by decide⟩

/-- The fold after the PREDICT of its site, with a CLAIM first in its list. -/
def predicted : State :=
  let s := lists [claim]
  let x := s.fold 0
  s.setFold 0 { x with dr := x.dr.setHistory 3 (at_ 255 1 1 + at_ 31 152 (fld predictD.n 8 152)) }

theorem ready_claim : Startable predicted 0 0 kClaim claim ∧ claimDescBad predicted (predicted.fold 0) claim = none :=
  ⟨by constructor <;> decide, by decide⟩

theorem test_sync : ∃ t, exec (.sync 0 0) (lists [sync]) = .next t ∧ (t.fold 0).dr.tokens = [0x155] ∧
    (t.fold 0).dr.dl0.buf = [] := ⟨_, rfl, by decide, by decide⟩

/-- A READ asks the port of its granule for its line (R240, R315). -/
theorem test_read : ∃ t, exec (.read 0 0) (lists [read]) = .next t ∧ ((t.port 6).rq.map fun r => (r.addr, r.n, r.wr)) = [(0x1000, 1, false)] :=
  ⟨_, rfl, by decide⟩
theorem test_fold_spends : ∃ t, exec (.fold 0 0) (spending foldD) = .next t ∧ (t.fold 0).qu.pn = [(0, 2)] := ⟨_, rfl, by decide⟩
theorem test_chan : ∃ t, exec (.chan 0 0) (spending chanD) = .next t ∧ (peek Chan.init (t.fold 0).qu.chans 2).credits = 1 ∧
    (peek Chan.init (t.fold 0).qu.chans 2).ptr = 1 := ⟨_, rfl, by decide, by decide⟩

/-- A stream takes the first free lane of its die, which is that of bits 13:12 of its address (R255, R315). -/
theorem test_msrc : ∃ t, exec (.msrc 0 0) (lists [msrc]) = .next t ∧
    (t.msd.streams.map fun v => (v.die, v.lane, v.nth)) = [(1, some 0, [(0, 0), (1, 0)])] := ⟨_, rfl, by decide⟩
theorem test_claim : ∃ t, exec (.claim 0 0) predicted = .next t ∧ (peek [] t.msd.claims 2).map (·.expert) = [6] ∧
    (t.msd.streams.map (·.lane)) = [none] := ⟨_, rfl, by decide, by decide⟩

/-- No descriptor starts in a cycle in which one has started (R230). -/
theorem test_one_start : exec (.sync 0 0) (busy { fold0 with dr := { fold0.dr with
      lastStart := some 0, dl0 := { next := 0, live := true, asked := false, buf := [sync] } } }) =
    .next (busy { fold0 with dr := { fold0.dr with lastStart := some 0, dl0 := { next := 0, live := true, asked := false, buf := [sync] } } }) := rfl

/-! ### Drover-owned cycles -/

/-- A READ with one line for scratchpad line 8, in a cycle of the bank. -/
def landing : Xfer :=
  { xfer0 with desc := read, land := { xfer0.land with line := 8 }, ready := [[1, 2, 3]], got := 1 }

theorem read_lands : (moving landing).fold 0 |>.xfer 0 |>.isSome := by decide
theorem bank_serves : landing.landLine = some 8 ∧ bankServes (moving landing) 0 8 6 = true ∧
    soonest 8 ((moving landing).fold 0).readReqs = some 0 ∧ ((moving landing).fold 0).sp.err = [] := by decide
theorem test_read_lands : ∃ t, exec (.readLanding 0 0) (moving landing) = .next t ∧ (t.fold 0).sp.bytes 512 3 = [1, 2, 3] ∧
    ((t.fold 0).xfer 0).map (·.landed) = some 1 := ⟨_, rfl, by decide, by decide⟩

/-- A landing line in bank 9, which the drover does not own in cycle 0 (R97). -/
def landing9 : Xfer := { landing with land := { landing.land with line := 9 } }

theorem test_bank_of_execution : exec (.readLanding 0 0) (moving landing9) = .next (moving landing9) := rfl

/-- A word to write back, and the shepherd's access, in bank 0. -/
def owed : State :=
  busy { fold0 with sp := { fold0.sp with wback := [256], err := [(256, 1)] }
                    sh := { fold0.sh with acc := some { store := false, ds := 3, addr := 0x804, data := 0 } } }

theorem write_back_ready : (owed.fold 0).sp.wback.find? (fun w => decide (w / 8 % 32 = 0)) = some 256 ∧
    bankServes owed 0 0 1 = true := by decide
theorem test_write_back : ∃ t, exec (.eccWriteBack 0 0) owed = .next t ∧ (t.fold 0).sp.wback = [] ∧ (t.fold 0).sp.err = [] :=
  ⟨_, rfl, by decide, by decide⟩

/-- A load of the word at 0x804. -/
def shLoads : State :=
  busy { fold0 with sp := { fold0.sp with mem := putRun 0 [] 0x804 [7, 1] }
                    sh := { fold0.sh with acc := some { store := false, ds := 3, addr := 0x804, data := 0 } } }

theorem shepherd_access_ready : bankServes shLoads 0 0 2 = true ∧ (shLoads.fold 0).sp.err = [] := by decide
theorem test_shepherd_access : ∃ t, exec (.shepherdScratchpadAccess 0) shLoads = .next t ∧ (t.fold 0).sh.get 3 = 0x107 ∧
    (t.fold 0).sh.acc = none := ⟨_, rfl, by decide, by decide⟩

/-- A tap with a line for scratchpad line 8. -/
def tapping : State :=
  busy { fold0 with dr := { fold0.dr with
    xfers := [{ landing with desc := mtap, ready := [] }]
    taps := [{ xfer := 0, msid := 5, nth := 0, stream := some (2, 0), buf := [(0, [4, 5])] }] } }

theorem tap_ready : ((tapping.fold 0).tapOn 2).isSome = true ∧ bankServes tapping 0 8 3 = true ∧
    soonest 8 (tapping.fold 0).mastReqs = some 0 := by decide
theorem test_tap_lands : ∃ t, exec (.mastLanding 0 2) tapping = .next t ∧ (t.fold 0).sp.bytes 512 2 = [4, 5] := ⟨_, rfl, by decide⟩

/-- A WRITE of two lines from line 8 that started in cycle 3; it is cycle 4. -/
def reading : State :=
  busy { fold0 with ex := { fold0.ex with cycle := 4 }
                    sp := { fold0.sp with mem := putRun 0 [] 512 [9] }
                    dr := { fold0.dr with xfers := [{ xfer0 with desc := write, start := 3, geom := { xfer0.geom with len := 2 },
                                                                 land := { xfer0.land with line := 8 } }] } }

theorem source_ready : bankServes reading 0 8 7 = true ∧ soonest 8 (reading.fold 0).sourceReqs = some 0 ∧ (reading.fold 0).ex.overdue = false := by decide
theorem test_source_read : ∃ t, exec (.sourceRead 0 0) reading = .next t ∧
    ((t.fold 0).xfer 0).map (fun y => y.ready.map (·.take 2)) = some [[9, 0]] := ⟨_, rfl, by decide⟩

/-- A FOLD of one line of fold 0 to window 1 of fold 1. -/
def inWindow (credits : Nat) (arrived : Bool) : State :=
  let s := moving { xfer0 with desc := dsc kFold (tok + at_ 121 5 1 + at_ 118 3 1 + at_ 101 17 2), ready := [[6]], arrived := arrived }
  let x := s.fold 1
  s.setFold 1 { x with qu := { x.qu with wtab := [(1, { base := 16, lines := 8, src := 0, gpn := 4 })], wcred := [(1, credits)] },
                       ex := { x.ex with cycle := 2 } }

theorem arrival_ready (h : Xfer) (e : ((inWindow 2 false).fold 0).xfer 0 = some h) : h.allRead = true ∧
    arrivalBad ((inWindow 2 false).fold 1) 0 (h.target ((inWindow 2 false).fold 1)) h.geom.len = none ∧
    arrivalBad ((inWindow 0 false).fold 1) 0 (h.target ((inWindow 0 false).fold 1)) h.geom.len = some 18 := by
  cases e; decide
theorem test_arrival : ∃ t, exec (.remoteTransferArrival 0 0) (inWindow 2 false) = .next t ∧ (t.fold 1).qu.wcred = [(1, 1)] ∧
    ((t.fold 0).xfer 0).map (·.arrived) = some true := ⟨_, rfl, by decide, by decide⟩
theorem test_arrival_without_credit : ∃ t j, exec (.remoteTransferArrival 0 0) (inWindow 0 false) = .next t ∧ t.job = some j ∧
    (j.reports.map fun r => (r.code, r.lfold)) = [(0x1B, 1)] := ⟨_, _, rfl, rfl, by decide⟩

theorem remote_landing_ready : bankServes (inWindow 2 true) 1 18 5 = true ∧
    ((soonest 18 ((inWindow 2 true).remoteReqs ((inWindow 2 true).fold 1))).bind fun i =>
      ((inWindow 2 true).inbound ((inWindow 2 true).fold 1))[i]?).map (·.1) = some 0 := by decide
theorem test_remote_landing : ∃ t, exec (.remoteWriteLanding 0 0) (inWindow 2 true) = .next t ∧
    (t.fold 1).sp.bytes 1152 1 = [6] ∧ ((t.fold 0).xfer 0).map (·.done) = some true := ⟨_, rfl, by decide, by decide⟩

/-- An image of 16 rows of 32 bytes for tile 2. -/
def rowsIn : State :=
  busy { tile2 with dr := { tile2.dr with xfers := [{ xfer0 with
    desc := dsc kRead (at_ 61 2 1)
    geom := { xfer0.geom with len := 8, rbc := 1, rows := 16 }
    land := { xfer0.land with tiles := true, tile := 2 }
    ready := [List.replicate 64 3], got := 1, had := 1 }] } }

theorem row_ready (h : Xfer) (e : (rowsIn.fold 0).xfer 0 = some h) : h.landed < h.geom.tiles * h.geom.rows ∧
    h.geom.rowNeeds 0 0 ≤ h.had ∧ tileBad (rowsIn.fold 0).ti h.geom 0 2 = none ∧ h.spanBreaks = false ∧ rowKey 2 0 ∉ (rowsIn.fold 0).ti.wrote ∧
    (rowsIn.fold 0).ti.rowsNow = [] ∧ h.geom.tiles = 1 ∧ h.held = false ∧ (rowsIn.fold 0).ex.overdue = false := by
  cases e; decide
theorem test_row : ∃ t, exec (.tileLandingRow 0 0) rowsIn = .next t ∧ (t.fold 0).ti.row 2 0 2 = [3, 3] ∧
    (t.fold 0).ti.incomp = 0x0004 ∧ (t.fold 0).ti.start = [(2, 1)] := ⟨_, rfl, by decide, by decide, by decide⟩

/-- The same image for tile 3, which is not in use. -/
def rowsOut : State :=
  rowsIn.onFold 0 fun x => { x with dr := { x.dr with xfers := x.dr.xfers.map fun y => { y with land := { y.land with tile := 3 } } } }

theorem row_out_ready : (rowsOut.fold 0).ti.used 3 = false ∧ CanRaise rowsOut := ⟨by decide, job, rfl, rfl⟩
theorem test_row_unused : ∃ t j, exec (.tileLandingRow 0 0) rowsOut = .next t ∧ t.job = some j ∧ j.reports.map (·.code) = [0x11] :=
  ⟨_, _, rfl, rfl, by decide⟩

/-- Transfers at their end: a READ that has landed, a WRITE and a CHAN that have left. -/
def landedX : Xfer := { landing with ready := [], landed := 1 }
def left (d : Desc) : Xfer := { xfer0 with desc := d, sent := true, done := true }

theorem complete_ready : landedX.allLanded = true ∧ awaitsHost (moving (left write)) (left write) = false := by decide
theorem test_read_completes : ∃ t, exec (.transferComplete 0 0 .good) (moving landedX) = .next t ∧ (t.fold 0).dr.xfers = [] ∧
    (t.fold 0).dr.tokens = [0x155] := ⟨_, rfl, by decide, by decide⟩
theorem test_read_mismatch : ∃ t j, exec (.transferComplete 0 0 .crc) (moving landedX) = .next t ∧ t.job = some j ∧
    j.reports.map (·.code) = [0x42] := ⟨_, _, rfl, rfl, by decide⟩
theorem test_write_completes : ∃ t, exec (.transferComplete 0 0 .good) (moving (left write)) = .next t ∧ (t.fold 0).dr.xfers = [] :=
  ⟨_, rfl, by decide⟩
theorem test_chan_completes : ∃ t, exec (.transferComplete 0 0 .good) (moving (left chanD)) = .next t ∧ (t.fold 0).dr.xfers = [] :=
  ⟨_, rfl, by decide⟩

/-! ### Verdicts and the mast -/

/-- A verdict of one part, due in this cycle. -/
def verdictOf (k : VKind) : State :=
  busy { fold0 with mx := { fold0.mx with vOpen := [0], verdicts :=
    [{ cycle := 0, id := 0, arr := 0, os := false, parts := [(k, 3)], fill := [], tag := 0, baddr := 0, vx := false }] } }

theorem test_verdict_pass : ∃ t, exec (.verdict 0) (verdictOf .pass) = .next t ∧ t.job.map (·.pass) = some 1 ∧
    (t.fold 0).mx.vOpen = [] := ⟨_, rfl, by decide, by decide⟩
theorem test_verdict_fail : ∃ t j, exec (.verdict 0) (verdictOf .fail) = .next t ∧ t.job = some j ∧
    j.reports.map (·.code) = [0x40] ∧ j.fail = 1 := ⟨_, _, rfl, rfl, by decide, by decide⟩

/-- The same verdict with a message of a remote channel, or a WRITE, that it holds, and one that fills check slot 2. -/
def holding1 (k : VKind) (m : List OutMsg) (l : List Xfer) : State :=
  let s := verdictOf k
  let x := s.fold 0
  s.setFold 0 { x with
    qu := { x.qu with ctab := [(2, { rem := true, node := 9, dfold := 1, dq := 3, slotm1 := 1, ncred := 2 })], outMsg := m }
    dr := { x.dr with xfers := l } }

def heldMsg : OutMsg :=
  { seq := 0, ch := 2, lines := 1, slot := 0, tally := 0, data := List.replicate 64 7, crc := 0, issue := 0, ready := true, reached := false,
    xfer := none, hold := 1, baddr := 0, akind := 1, tag := 0 }
def heldWrite : Xfer := { left write with sent := false, done := false, ready := [List.replicate 64 5, []], hold := 1 }

theorem holding_ready (v : PendVerdict) (h : ((holding1 .pass [heldMsg] []).fold 0).mx.verdicts = [v]) : v.parts.map (·.1) = [.pass] ∧
    verdictFaulted 0 (holding1 .pass [heldMsg] []) = false ∧ (((holding1 .pass [heldMsg] []).fold 0).cent 2).rem = true ∧
    (holding1 .pass [heldMsg] []).treeSource 0 2 = none ∧ (∀ i ∈ ((holding1 .pass [heldMsg] []).fold 0).mx.vOpen.erase v.id, 1 ≤ i) ∧
    heldWrite.allRead = true ∧ heldWrite.desc.kind = kWrite ∧ heldWrite.land.tiles = false ∧ heldWrite.desc.peer = false ∧
    isHost heldWrite.src.addr = false ∧ v.cycle ≤ ((holding1 .pass [heldMsg] []).fold 0).ex.cycle := by
  injection h with h; subst h; decide
theorem test_verdict_releases : ∃ t, exec (.verdict 0) (holding1 .pass [] [heldWrite]) = .next t ∧
    (t.fold 0).dr.xfers.map (·.sent) = [true] := ⟨_, rfl, by decide⟩
theorem test_verdict_keeps : ∃ t, exec (.verdict 0) (holding1 .fail [] [heldWrite]) = .next t ∧
    (t.fold 0).dr.xfers.map (·.sent) = [false] := ⟨_, rfl, by decide⟩

/-- A verdict that fills check slot 2 (R176). -/
def filling : State :=
  let s := verdictOf .pass
  let x := s.fold 0
  s.setFold 0 { x with mx := { x.mx with verdicts := x.mx.verdicts.map fun v => { v with fill := [(2, [5, 6])] } } }
theorem test_fill : ∃ t, exec (.verdict 0) filling = .next t ∧ (t.fold 0).mx.cslot = [(256, 5), (257, 6)] ∧ (t.fold 0).mx.cvalid = 4 :=
  ⟨_, rfl, by decide, by decide⟩

/-- A stream of `len` lines of die 1 in lane 0, for fold 1, with `sent` units sent. -/
def stream (len : Nat) (ready : Bool) (sent : Nat) : Stream :=
  let g : Geom := { xfer0.geom with len := len }
  { id := 0, die := 1, msid := 5, leader := 0, lfold := 0, lslot := 0, desc := msrc, subs := 2, nth := [(1, 0)],
    src := { addr := 0x1000, geom := g, asked := len, raw := if ready then [] else List.replicate 64 1, early := [] },
    go := true, lane := some 0, ready := ready, image := if ready then List.replicate len [1] else [], resid := [], sent := sent,
    stall := [], limit := none }

/-- The stream with its tap, whose landing buffer holds `n` lines. -/
def streaming (v : Stream) (n : Nat) : State :=
  let s := moving { xfer0 with desc := msrc }
  let x := s.fold 1
  let t := s.setFold 1 { x with dr := { x.dr with
    xfers := [{ xfer0 with desc := mtap, geom := v.src.geom }]
    taps := [{ xfer := 0, msid := 5, nth := 0, stream := some (1, 0), buf := List.replicate n (0, [2]) }] } }
  { t with msd := { t.msd with streams := [v] } }

theorem image_ready : (stream 1 false 0).src.complete = true ∧ (stream 1 false 0).lane.isSome = true ∧
    (stream 1 false 0).ready = false := by decide
theorem unit_ready : laneStream (streaming (stream 9 true 0) 56) 1 0 = some (stream 9 true 0) ∧
    blocking (streaming (stream 9 true 0) 56) (stream 9 true 0) = [] ∧ (stream 9 true 0).sent + 1 < (stream 9 true 0).units ∧
    (stream 9 true 1).units ≤ (stream 9 true 1).sent + 1 ∧ (streaming (stream 9 true 0) 56).streaming = true := by decide
theorem test_image_ready : ∃ t, exec (.msrcImageReady 1) (streaming (stream 1 false 0) 0) = .next t ∧
    (t.msd.streams.map fun v => (v.ready, v.image.length)) = [(true, 1)] := ⟨_, rfl, by decide⟩
theorem test_unit_sent : ∃ t, exec (.mastUnitSend 1 0 .clean) (streaming (stream 9 true 0) 56) = .next t ∧
    (t.msd.streams.map (·.sent)) = [1] ∧ (t.fold 1).dr.taps.map (·.buf.length) = [64] := ⟨_, rfl, by decide, by decide⟩

/-- With 57 lines in the buffer the subscriber has no room for a unit (R255). -/
theorem test_unit_blocked : exec (.mastUnitSend 1 0 .clean) (streaming (stream 9 true 0) 57) =
    .next (streaming (stream 9 true 0) 57) := rfl
theorem test_last_unit : ∃ t, exec (.mastUnitSend 1 0 .clean) (streaming (stream 9 true 1) 56) = .next t ∧ t.msd.streams = [] ∧
    ((t.fold 0).xfer 0).map (·.done) = some true := ⟨_, rfl, by decide, by decide⟩

/-- A stream that fold 1 has kept waiting to the limit of 1,000 us. -/
def stalled : Stream := { stream 9 true 0 with stall := [(1, 800000)], limit := some (1, 2) }

theorem stall_ready : laneStream (streaming stalled 57) 1 0 = some stalled ∧ (streaming stalled 57).streaming = true ∧
    job.place 1 = some 1 ∧ CanRaise (streaming stalled 57) := ⟨by decide, by decide, by decide, job, rfl, rfl⟩

/-- The counters of a stream's blocking folds run up to the limit. -/
theorem counts_ready : (stream 9 true 0).ready = true ∧ (stream 9 true 0).limit = none ∧ [1].Nodup ∧
    peek 0 ((stream 9 true 0).count 3 [1]).stall 1 = 1 := by decide
theorem test_mast_stall : ∃ t j, exec (.mastStall 1 0) (streaming stalled 57) = .next t ∧ t.job = some j ∧
    (j.reports.map fun r => (r.code, r.lfold)) = [(0x31, 1)] := ⟨_, _, rfl, rfl, by decide⟩

/-- Block 4 of die 1: expert 6 of site 3 of program fold 0. -/
def stage (failed ready : Bool) : Stage :=
  { gen := 0, fold := 0, site := 3, slot := 1, part := 0, expert := 6, src := (stream 1 false 0).src, failed := failed, ready := ready,
    image := if ready then [[7]] else [], resid := [] }

/-- A CLAIM for that expert, not served, with the block. -/
def claiming (g : Stage) (expert : Nat) : State :=
  let s := streaming { stream 1 false 0 with lane := none, go := false } 0
  { s with msd := { s.msd with stages := [(stageKey 1 4, some g)]
                               claims := [(1, [{ stream := 0, fold := 0, site := 3, part := 0, expert := expert, hit := if g.expert = expert then some (stageKey 1 4, g.gen) else none }])] } }

theorem stage_ready : (claiming (stage false false) 6).stage (stageKey 1 4) = some (stage false false) ∧
    (stage false false).src.complete = true ∧ (claiming (stage true false) 6).msd.specErr < ctrMax := by decide
theorem claim_ready (c d : Claim) (e : peek [] (claiming (stage false true) 6).msd.claims 1 = [c])
    (h : peek [] (claiming (stage false true) 5).msd.claims 1 = [d]) :
    (c.block (claiming (stage false true) 6)).map (·.2.ready) = some true ∧
    (c.block (claiming (stage false false) 6)).map (·.2.ready) = some false ∧
    lanes.find? (laneFree (claiming (stage false true) 6) 1) = some 0 ∧
    d.block (claiming (stage false true) 5) = none ∧ wfMap none (claiming (stage true false) 6).msd.stages = true := by
  cases e; cases h; decide
theorem test_stage_ready : ∃ t, exec (.speculativeStageReady ⟨1, 4⟩ .clean) (claiming (stage false false) 6) = .next t ∧
    (t.stage (stageKey 1 4)).map (·.ready) = some true := ⟨_, rfl, by decide⟩
theorem test_stage_dropped : ∃ t, exec (.speculativeStageReady ⟨1, 4⟩ .clean) (claiming (stage true false) 6) = .next t ∧
    t.stage (stageKey 1 4) = none ∧ t.msd.specErr = 1 := ⟨_, rfl, by decide, by decide⟩
theorem test_claim_hit : ∃ t, exec (.claimService 1 .clean) (claiming (stage false true) 6) = .next t ∧
    (t.msd.specHit, t.msd.specMiss) = (1, 0) ∧ (t.msd.streams.map fun v => (v.ready, v.image)) = [(true, [[7]])] :=
  ⟨_, rfl, by decide, by decide⟩
theorem test_claim_miss : ∃ t, exec (.claimService 1 .clean) (claiming (stage false true) 5) = .next t ∧
    (t.msd.specHit, t.msd.specMiss) = (0, 1) ∧ t.msd.streams.map (·.lane) = [some 0] := ⟨_, rfl, by decide, by decide⟩

/-! ### Memory ports -/

/-- A port of a ready device with a read and a write waiting, in slot `i` of its frame and at place `k` of its cycle. -/
def ports (i k : Nat) : State :=
  { calm with msd := { calm.msd with
      mem := putRun memDefault [] 0x1000 [1]
      ports := [(6, { Port.init with
        slot := i, place := k, rq := [{ who := .cxl false, off := 0, addr := 0x1000, n := 1, wr := false, data := [] }]
        wq := [{ who := .cxl false, off := 0, addr := 0x1040, n := 1, wr := true, data := [8, 9] }] })] } }

theorem port_ready : portServes 6 (ports 0 14) = true ∧ ((ports 0 14).port 6).place < 15 ∧ slotClass (ports 0 0).msd.split 0 = .read ∧
    slotClass (ports 2 0).msd.split 2 = .write ∧ ((ports 0 0).port 6).xq = [] ∧ slotClass (ports 0 0).msd.split 5 = .remote ∧
    ((ports 0 0).port 6).dq = [] ∧ (ports 2 0).host.windows = [] ∧ (ports 2 0).msd.lineErr = [] := by decide
theorem test_read_slot : ∃ t, exec (.dataSlot 6 []) (ports 0 14) = .next t ∧ (t.port 6).slot = 1 ∧ (t.port 6).rq = [] ∧
    ((t.port 6).out.map fun o => (o.2.1.take 2, o.2.2)) = [([1, 0], [(0, false)])] := ⟨_, rfl, by decide, by decide, by decide⟩
theorem test_write_slot : ∃ t, exec (.dataSlot 6 []) (ports 2 0) = .next t ∧
    t.msd.mem = [(0x1000, 1), (0x1040, 8), (0x1041, 9)] ∧ t.host.cxlOut = [.done 0x1040] := ⟨_, rfl, by decide, by decide⟩

/-- After 15 data slots the cycle has its maintenance period (R318). -/
theorem test_no_slot : exec (.dataSlot 6 []) (ports 0 15) = .next (ports 0 15) := rfl
theorem test_no_maintenance : exec (.maintenancePeriod 6 []) (ports 0 14) = .next (ports 0 14) := rfl

/-- The device's own request goes ahead of the others of its class (R260). -/
def ownFirst : State :=
  let s := ports 0 0
  let r : Req := { who := .dev (.result 0), off := 0, addr := 0x1000, n := 1, wr := false, data := [] }
  s.setPort 6 { s.port 6 with dq := [r] }

theorem own_ready : ((ownFirst.port 6).dq.findIdx? fun r => decide (deviceClass ownFirst.msd.split r.wr = .read)) = some 0 := by decide

/-- Slots 0 to 6 of a frame under the default split (R12, R258). -/
theorem test_frame : ((List.range 7).map fun i => slotClass defaultSplit i) =
    [.read, .read, .write, .read, .read, .remote, .read] := by decide

/-- A line that has been read, on its way out, with `n` wrong bytes. -/
def leaving (n : Nat) : State :=
  let r : Req := { who := .cxl false, off := 0, addr := 0x1000, n := 1, wr := false, data := [] }
  { calm with msd := { calm.msd with ports := [(6, { Port.init with out := [(r, List.replicate 64 1, [(n, false)])] })] } }

theorem leaving_ready : (leaving 1).msd.corrected < ctrMax ∧ (leaving 2).msd.uncorrected < ctrMax := by decide
theorem test_data_out : ∃ t, exec (.readDataOut 6 []) (leaving 0) = .next t ∧
    t.host.cxlOut = [.data 0x1000 (List.replicate 64 1)] := ⟨_, rfl, by decide⟩
theorem test_poison : ∃ t, exec (.readDataOut 6 []) (leaving 2) = .next t ∧ t.host.cxlOut = [.poison 0x1000] ∧
    t.msd.uncorrected = 1 := ⟨_, rfl, by decide, by decide⟩

/-- The port at the end of its cycle, with `k` periods of the pass done. -/
def scrubbing (k : Nat) (fixing : List (Nat × List Byte)) : State :=
  let s := ports 0 15
  s.setPort 6 { s.port 6 with scrub := k, fixing := fixing }

/-- Period 2 of a pass reads the first four payload lines of the port's first granule (R322). -/
theorem scrub_ready : portServes 6 (scrubbing 2 []) = true ∧ scrubPart 2 = .payload 0 0 ∧
    (2 + 1 < scrubPeriods (scrubbing 2 []).msd.rawGiB) ∧
    scrubPeriods (scrubbing 2 []).msd.rawGiB ≤ (scrubPeriods 2 - 1) + 1 ∧ (scrubbing 2 []).msd.scrubPass < ctrMax ∧
    wfMap (0, false) (scrubbing 2 [(0x4000, List.replicate 64 1)]).msd.lineErr = true := by decide

/-- The first of them has one wrong byte. -/
def wrongLine : State :=
  (scrubbing 2 []).setMark (granuleAddr .F 6 0) (1, false)

theorem wrong_ready : wrongLine.lineMark (granuleAddr .F 6 0) = (1, false) ∧ wrongLine.msd.corrected < ctrMax ∧
    wrongLine.chip.grade = .F ∧ ∀ k, 1 ≤ k → k < 4 → wrongLine.lineMark (granuleAddr .F 6 0 + 64 * k) = (0, false) := by
  refine ⟨by decide, by decide, rfl, fun k h1 h4 => ?_⟩
  have : k = 1 ∨ k = 2 ∨ k = 3 := by omega
  rcases this with rfl | rfl | rfl <;> decide
theorem test_maintenance : ∃ t, exec (.maintenancePeriod 6 []) wrongLine = .next t ∧
    (t.port 6).fixing = [(granuleAddr .F 6 0, 1 :: List.replicate 63 0)] ∧ t.msd.corrected = 1 := ⟨_, rfl, by decide, by decide⟩
theorem test_scrub : ∃ t, exec (.maintenancePeriod 6 []) (scrubbing 2 []) = .next t ∧ (t.port 6).scrub = 3 ∧ (t.port 6).place = 0 :=
  ⟨_, rfl, by decide, by decide⟩
theorem test_port_failure : ∃ t, exec (.portFailure 6) (ports 0 0) = .next t ∧ t.chip.fatal = 3 ∧ (t.port 6).failed = true :=
  ⟨_, rfl, by decide, by decide⟩

/-! ### Power and temperature -/

/-- Quad 0 with a total at the end of its window, in a job whose allowance is 8 x 1,024; fold 1 declared most in its last cycle. -/
def window (total cycles : Nat) : State :=
  let s := busy fold0
  { s with pow := { s.pow with quads :=
      [(0, { Quad.init with winSum := total, jobSum := total, top := some (1, 4, 6), winCycles := cycles })] } }

theorem window_ready : ((window 8193 1024).quad 0).winCycles = 1024 ∧ job.prog.heavyMax * 1024 < ((window 8193 1024).quad 0).jobSum ∧
    ((window 8193 1024).quad 0).top = some (1, 4, 6) ∧ ((window 8192 1024).quad 0).jobSum ≤ job.prog.heavyMax * 1024 := by
  decide
theorem test_window_open : exec (.powerWindow 0) (window 8192 1023) = .next (window 8192 1023) := rfl
theorem test_window_within : ∃ t, exec (.powerWindow 0) (window 8192 1024) = .next t ∧ (t.quad 0).hist = [8192] ∧
    (t.quad 0).winCycles = 0 ∧ t.job.map (·.reports) = some [] := ⟨_, rfl, by decide, by decide, by decide⟩
theorem test_window_over : ∃ t j, exec (.powerWindow 0) (window 8193 1024) = .next t ∧ t.job = some j ∧
    (j.reports.map fun r => (r.code, r.lfold, r.addr)) = [(0x15, 1, 4)] := ⟨_, _, rfl, rfl, by decide⟩

/-- est(k) = (8 + 3 d / 1024) k F / (32 x 100) x (375 + T) / 375 (R453): with d = 16,384, F = 800 and T = 0 the step 32 takes
448 W, and 14 W x 8 = 112 eighths allow the step 8 at most. -/
theorem test_estimate : overCap 16384 800 0 448 32 = false ∧ overCap 16384 800 0 447 32 = true ∧
    stepWithin 16384 800 0 112 32 = 8 := by decide

/-- Quad 0 at step 10 of the thermal limit, quad 1 at 32, with sensor 1 hot. -/
def hot (t : Int) : State :=
  { calm with look := { calm.look with sensors := [0, t] }
              pow := { calm.pow with quads := [(0, { Quad.init with kTherm := 9 })] } }

theorem thermal_ready : (hot 100000).lookoutRuns = true ∧ wfMap Quad.init (hot 100000).pow.quads = true ∧
    tripSensor (hot 109999) = none ∧ tripSensor (hot 110000) = some (1, 110000) := by decide
theorem test_throttle : ∃ t, exec .thermalLoop (hot 100000) = .next t ∧ (t.quad 0).kTherm = 8 ∧ (t.quad 1).kTherm = 32 :=
  ⟨_, rfl, by decide, by decide⟩
theorem test_throttle_holds : ∃ t, exec .thermalLoop (hot 95000) = .next t ∧ (t.quad 0).kTherm = 9 := ⟨_, rfl, by decide⟩
theorem test_throttle_releases : ∃ t, exec .thermalLoop (hot 94999) = .next t ∧ (t.quad 0).kTherm = 10 := ⟨_, rfl, by decide⟩
theorem test_no_trip : ∃ t, exec (.sensorSample [109999] []) calm = .next t ∧ t.chip.phase = .ready ∧
    (t.statusOf 0).getLsbD bitTherm = true := ⟨_, rfl, by decide, by decide⟩
theorem test_droop : ∃ t, exec (.droop 0) (busy fold0) = .next t ∧ (t.fold 0).db.droop = true := ⟨_, rfl, by decide⟩

/-! ### The end of a job -/

/-- A completion ring with a record that waits, at 0x40 of a page of host memory that is translated to 0x9000. -/
def comp (size tail : BitVec 32) : State :=
  { calm with host := { calm.host with
      comp := { base := BitVec.ofNat 64 (2 ^ 63 + 0x40), size := size, en := true, head := 0, tail := tail }
      compWait := [{ kind := 4, ring := 2, step := 5, recptr := 0, seq := 9, tag := 7, glean := 0, rcount := 0, reason := 0,
                     elapsed := 0, status := 0 }]
      tt := [{ ubase := 0, tbase := 0x9000, size := 4096, rd := true, wr := true, pasid := none, valid := true }] } }

theorem comp_ready : (comp 16 15).memWf = true ∧ isHost ((comp 16 15).host.comp.entry 64 15) = true ∧
    (comp 16 15).compRoom = true ∧ (comp 16 16).compRoom = false ∧ (comp 16 16).host.skipped < ctrMax ∧
    (comp 16 15).host.heartbeat ≠ 0 ∧ (comp 16 15).iodRuns = true ∧ (comp 16 15).writing = false ∧
    (comp 16 15).host.comp.entry 64 15 % 4096 ≤ 4032 ∧ (comp 16 15).ownReady [(comp 16 15).compWrite] = true := by decide

/-- Kind 4 and ring 2 lie at bits 239:236 and 235:234 of the record, the pass marker at bit 233, STEP at bits 511:448 (R379). -/
theorem test_completion : ∃ t, exec .completionRecord (comp 16 15) = .next t ∧ t.host.comp.tail = 16 ∧ t.host.compWait = [] ∧
    t.host.hostMem = [(0x9400 + 29, 0x4A), (0x9400 + 36, 7), (0x9400 + 40, 9), (0x9400 + 56, 5)] ∧
    t.host.compPhase = false := ⟨_, rfl, by decide, by decide, by decide +kernel, by decide⟩
theorem test_completion_full : exec .completionRecord (comp 16 16) = .next (comp 16 16) := rfl
theorem test_heartbeat : ∃ t, exec .heartbeat (comp 16 15) = .next t ∧ t.host.comp.tail = 16 := ⟨_, rfl, by decide⟩
theorem test_heartbeat_skipped : ∃ t, exec .heartbeat (comp 16 16) = .next t ∧ t.host.skipped = 1 := ⟨_, rfl, by decide⟩

/-- A job whose folds have ended, with one result buffer of eight bytes at 0x2000. -/
def ended (sign : Bool) (crcs : List (Nat × Option Nat)) : State :=
  let s := busy { fold0 with ex := { fold0.ex with run := .ended } }
  { s with
    folds := s.folds.map fun p => (p.1, { p.2 with ex := { p.2.ex with run := .ended } })
    job := some { job with hdr := { job.hdr with sign := sign }, results := [{ addr := 0x2000, len := 8, tag := 1 }], crcs := crcs } }

theorem readback_ready (j : Job) (e : (ended false []).job = some j) : (ended false []).readsBack j = true ∧
    (j.results[(0 : BitVec 12).toNat]?).isSome = true ∧ peek none j.crcs 0 = none ∧ 64 * (0 : BitVec 38).toNat < 8 := by
  cases e; decide
theorem commit_ready (j : Job) (e : (ended false [(0, some 1)]).job = some j) : (ended false [(0, some 1)]).readsBack j = true ∧
    (∀ n < j.results.length, peek none j.crcs n ≠ none) ∧ isHost j.hdr.records = false := by
  cases e; decide
/-- The lines of the buffer that have come, or the one that could not be corrected. -/
def backRead (left : Nat) (bad : Option Nat) : State :=
  let s := ended false []
  { s with msd := { s.msd with devReads := [{ key := .result 0, left := left, mem := [(0x2000, 1)], bad := bad }] } }

theorem backread_ready : (ended false []).devRead (.result 0) = none ∧ isHost 0x2000 = false ∧
    ((backRead 0 none).devRead (.result 0)).map (fun d => (d.left, d.bad)) = some (0, none) ∧
    ((backRead 0 (some 0x2000)).devRead (.result 0)).map (fun d => (d.left, d.bad)) = some (0, some 0x2000) := by decide
theorem test_readback_asks : ∃ t, exec (.crc64Readback 0 0x2000) (ended false []) = .next t ∧ t.msd.devReads.map (·.left) = [1] ∧
    (t.port 12).dq.map (fun r => (r.addr, r.n)) = [(0x2000, 1)] := ⟨_, rfl, by decide, by decide⟩
theorem test_readback : ∃ t, exec (.crc64Readback 0 0x2000) (backRead 0 none) = .next t ∧
    t.job.map (·.phase) = some .readback ∧ (t.job.map (·.crcs.length)) = some 1 := ⟨_, rfl, by decide, by decide⟩
theorem test_commit : ∃ t, exec .jobCommit (ended false [(0, some 1)]) = .next t ∧ t.job = none ∧
    (t.host.compWait.map fun c => (c.kind, c.seq, c.rcount)) = [(1, 9, 1)] ∧ (t.fold 0).ex.run = .idle :=
  ⟨_, rfl, by decide, by decide, by decide⟩

/-! ### What the host answers -/

/-- A translation of page 0x7000 of the job without PASID, asked for. -/
def asking : State :=
  let s := busy fold0
  { s with host := { s.host with ats := [(0x7000, false, 0, 0)] } }

def answer : AtsAnswer := { ubase := 0x7000, tbase := 0x99000, sizeLog := 12, rd := true, wr := true }

theorem ats_ready : 12 ≤ answer.sizeLog.toNat ∧ answer.sizeLog.toNat ≤ 30 ∧ asking.host.tt.length < 4096 ∧
    (asking.host.ats.any fun r => (entOf asking answer).covers asking.jobPasid r.1) = true := by decide
theorem test_ats : ∃ t, exec (.atsTranslationCompletion answer) asking = .next t ∧ t.host.ats = [] ∧
    t.host.tt.map (·.tbase) = [0x99000] := ⟨_, rfl, by decide, by decide⟩

/-- A READ of host page 0x7000 that waits for its page request. -/
def paging : State :=
  let s := moving { xfer0 with desc := { addr := 0x2000, akind := 2, w := BitVec.ofNat 256 (at_ 252 4 3 + at_ 96 64 (2 ^ 63 + 0x7000)) } }
  { s with host := { s.host with pri := [(0x7000, 0, 0)],
                                 tt := [{ ubase := 0x7000, tbase := 0, size := 4096, rd := true, wr := true, pasid := none, valid := true }] } }

theorem page_ready : (paging.host.pri.filter fun r => decide (r.1 = pageOf (0x7123 : BitVec 64).toNat)) = [(0x7000, 0, 0)] ∧
    pageOf (0x7123 : BitVec 64).toNat = 0x7000 ∧ ((paging.fold 0).xfer 0).isSome = true ∧
    (∀ r ∈ paging.host.pri, r.1 ≠ pageOf (0x8000 : BitVec 64).toNat) := by decide
/-- The READ asks for its line at host page 0x7000 again after a Success response (R364). -/
def paged : State :=
  let d : Desc := { addr := 0x2000, akind := 2, w := BitVec.ofNat 256 (at_ 252 4 kRead + at_ 96 64 (2 ^ 63 + 0x7000)) }
  let s := moving { xfer0 with desc := d, src := { xfer0.src with addr := 2 ^ 63 + 0x7000 } }
  { s with host := paging.host }

theorem paged_ready (y : Xfer) (e : (paged.fold 0).xfer 0 = some y) : (0x7000, 0, 0) ∈ paged.host.pri ∧ 0 ∈ job.places ∧
    y.desc.kind = kRead ∧ y.host = true ∧ y.held = false ∧ y.src.have < y.geom.len ∧ pageOf (y.src.lineAddr y.src.have) = 0x7000 := by
  cases e; decide
theorem test_page_success : ∃ t, exec (.pageResponse 0x7000 .success) paged = .next t ∧ t.host.pri = [] ∧
    (t.host.ats.map fun r => (r.1, r.2.2)) = [(0x7000, 0, 0)] := ⟨_, rfl, by decide, by decide⟩
theorem test_page_failure : ∃ t j, exec (.pageResponse 0x7000 .failure) paging = .next t ∧ t.job = some j ∧
    (j.reports.map (·.code)) = [0x60] := ⟨_, _, rfl, rfl, by decide⟩
theorem test_page_timeout : ∃ t j, exec (.pageRequestTimeout 0x7000) paging = .next t ∧ t.job = some j ∧
    (j.reports.map (·.code)) = [0x60] := ⟨_, _, rfl, rfl, by decide⟩
theorem test_invalidate : ∃ t, exec (.atsInvalidate 0x7FFF 1 none) paging = .next t ∧ t.host.tt.map (·.valid) = [false] :=
  ⟨_, rfl, by decide⟩

def snooping : State := { calm with host := { calm.host with snoop := [(0x1000, [1]), (0x1040, [2])] } }

theorem test_birsp : ∃ t, exec (.birsp 0x1000) snooping = .next t ∧ t.msd.mem = [(0x1000, 1)] ∧ t.host.snoop = [(0x1040, [2])] :=
  ⟨_, rfl, by decide, by decide⟩
theorem cxl_ready : calm.chip.cxlUp = true ∧ calm.host.hdmBase.toNat ≤ 0x1010 ∧ (List.replicate 64 (9 : Byte)).length = 64 ∧ calm.memoryActive = true ∧ 0x1000 < calm.limit ∧
    ({ calm with chip := { calm.chip with phase := .booted } } : State).memoryActive = false := by decide
theorem test_cxl_read : ∃ t, exec (.cxlMemRequest (.read 0x1010)) calm = .next t ∧ ((t.port 6).xq.map (·.addr)) = [0x1000] :=
  ⟨_, rfl, by decide⟩

/-! ### Reset and start-up -/

theorem reset_ready : calm.chip.pgood = true ∧ calm.chip.heldOff = [] ∧ calm.flashWork = false ∧ calm.dict.runs = [] ∧
    calm.chip.cxlUp = true ∧ calm.chip.phase = .ready := by decide

/-- The reset cause names the source by its bit and number (R479): source 2 at bit 2, with 2 in bits 15:12. -/
theorem test_perst : ∃ t, exec .perstN calm = .next t ∧ t.chip.phase = .held ∧ t.chip.cause = 0x2004 := ⟨_, rfl, by decide, by decide⟩
theorem test_reset_n_short : exec (.resetN 199) calm = .next calm := rfl
theorem test_reset_n : ∃ t, exec (.resetN 250) calm = .next t ∧ t.chip.phase = .held := ⟨_, rfl, by decide⟩
theorem test_no_power : exec .pgoodFall { calm with chip := { calm.chip with pgood := false } } =
    .next { calm with chip := { calm.chip with pgood := false } } := rfl

/-- Sources wait while a pulse is in progress (R468). -/
def pulse (src : Nat) : State :=
  { calm with chip := { calm.chip with heldOff := [src], ldownArm := true }, look := { calm.look with wdog := true } }

theorem held_ready : (pulse 3).chip.heldOff ≠ [] ∧ (pulse 3).look.wdog = true ∧ (pulse 3).chip.cxlUp = true ∧
    (pulse 3).chip.ldownArm = true := by decide
theorem test_waits : ∃ t, exec .watchdogExpiry (pulse 3) = .next t ∧ t.chip.heldOff = [3, 6] ∧ t.chip.phase = .ready :=
  ⟨_, rfl, by decide, by decide⟩
theorem test_stopped : needsClock (.ctlNop 0) = true ∧ exec (.ctlNop 0) (pulse 3) = .next (pulse 3) := ⟨rfl, rfl⟩
theorem test_holdoff_end : ∃ t, exec .resetHoldoffEnd (pulse 3) = .next t ∧ t.chip.heldOff = [] ∧ t.chip.phase = .held :=
  ⟨_, rfl, by decide, by decide⟩

/-- A device in one phase of the release order. -/
def phase (p : Phase) : State := { calm with chip := { Chip.init with phase := p } }

/-- The clocks of the small states of these tests run. -/
theorem clocks_run : (∀ x, (busy x).clocked = true) ∧ calm.clocked = true ∧ traffic.clocked = true ∧ landed.clocked = true ∧
    (∀ x l, (at_bundle x l).clocked = true) ∧ (∀ x l, (issued x l).clocked = true) ∧ (∀ x r o, (due x r o).clocked = true) ∧
    (∀ x k l, (shAt x k l).clocked = true) ∧ (∀ l, (lists l).clocked = true) ∧ (∀ p, (phase p).clocked = true) :=
  ⟨fun _ => rfl, rfl, rfl, rfl, fun _ _ => rfl, fun _ _ => rfl, fun _ _ _ => rfl, fun _ _ _ => rfl, fun _ => rfl, fun _ => rfl⟩

theorem release_ready : (phase .held).chip.pgood = true ∧ (phase .held).chip.tripHold = false ∧
    (phase .held).chip.testEn = false ∧ (phase .held).chip.sysRef = true ∧
    (phase .released).look.verify (phase .released).look.nextBoot ≠ 0 ∧
    (phase .released).look.verify (1 - (phase .released).look.nextBoot) ≠ 0 := by decide +kernel
theorem test_release : ∃ t, exec .resetRelease (phase .held) = .next t ∧ t.chip.phase = .released ∧ (t.link 31).st = 1 :=
  ⟨_, rfl, by decide +kernel⟩
theorem release_waits : (phase .noClock).chip.heldOff = [] ∧ ((phase .held).chip.rstLow = false ∧ (phase .held).chip.perstLow = false) ∧
    ({ phase .held with chip := { (phase .held).chip with rstLow := true } } : State).chip.rstLow = true ∧
    (pulse 3).chip.pgood = true ∧ calm.chip.ldownArm = false := by decide
theorem test_no_image : ∃ t, exec .lookoutBoot (phase .released) = .next t ∧ t.chip.phase = .recovery := ⟨_, rfl, by decide +kernel⟩

/-- Every port of grade H reports loads of `gib` GiB in configuration 2. -/
def loads (gib best : BitVec 8) : List PortReport :=
  List.replicate 16 { config := 2, rawGiB := gib, storedOk := true, best := best }

def bootedH : State := { phase .booted with chip := { (phase .booted).chip with grade := .H } }

theorem training_ready : (loads 16 40).length = bootedH.chip.grade.ports ∧ loadsOk (loads 16 40) = true ∧
    (ratesFrom bootedH.msd.rateNow.toNat).find? (fun r => (loads 16 40).all fun p => decide (r ≤ p.best.toNat)) = some 40 := by
  decide
theorem test_training : ∃ t, exec (.portTraining (loads 16 40)) bootedH = .next t ∧ t.chip.phase = .trained ∧ t.msd.rate = 40 :=
  ⟨_, rfl, by decide, by decide⟩
theorem test_bad_load : ∃ t, exec (.portTraining (loads 17 40)) bootedH = .next t ∧ t.chip.phase = .booted ∧ t.chip.fatal = 1 :=
  ⟨_, rfl, by decide, by decide⟩

theorem self_test_ready : popCount (phase .trained).chip.quadsTested.toNat 8 = (0 : BitVec 3).toNat ∧
    (0 : BitVec 3).toNat < (phase .trained).chip.grade.quads := by decide
theorem test_self_test : ∃ t, exec (.foldSelfTest 0 0x2 5) (phase .trained) = .next t ∧ t.chip.failedFolds = 2 ∧
    t.chip.quadsTested = 1 ∧ t.chip.repairs = 5 := ⟨_, rfl, by decide, by decide, by decide⟩

def tested : State := { phase .trained with chip := { (phase .trained).chip with quadsTested := 0xFF } }

theorem ready_ready : popCount tested.chip.quadsTested.toNat 8 = tested.chip.grade.quads := by decide
theorem test_device_ready : ∃ t, exec (.deviceReady 0) tested = .next t ∧ t.chip.phase = .ready ∧ t.chip.fatal = 0 :=
  ⟨_, rfl, by decide, by decide⟩
theorem test_reset_logged : ∃ t, exec (.deviceReady 0) { tested with chip := { tested.chip with resetNoted := true } } = .next t ∧
    (t.copyOf 0).getLsbD bitLog = true := ⟨_, rfl, by decide⟩
theorem test_die_fails : ∃ t, exec (.deviceReady 1) tested = .next t ∧ t.chip.fatal = 0xFF := ⟨_, rfl, by decide⟩
/-- After the release sequence has begun, the cause keeps the sources of one reset together (R467, R479). -/
theorem test_gathers : ∃ t, exec .cxlHotReset { phase .released with chip := { (phase .released).chip with cause := 0x1002, gather := true } } =
    .next t ∧ t.chip.cause = 0x100A := ⟨_, rfl, by decide⟩
theorem test_record_written : ∃ t, exec .trainingRecordWritten { calm with msd := { calm.msd with recWriting := true } } = .next t ∧
    (peek none (t.look.kept.recs.now []) 23).map (·.ok) = some true ∧ t.msd.recWriting = false := ⟨_, rfl, by decide, by decide⟩

theorem path_h : PathH calm 0 := by constructor <;> decide
theorem block_ready : blockRefused 6 calm = false ∧ blockRefused 6 (busy fold0) = true ∧ 6 < 2 ^ calm.chip.grade.folds ∧
    blockRefused (quadFolds 2) calm = false ∧ wfMap Quad.init calm.pow.quads = true := by decide
theorem path_h_busy : PathH (busy fold0) 0 := by constructor <;> decide
theorem test_fold_reset : ∃ t, exec (.foldBlockReset 0 6) calm = .next t ∧ t.chip.blockReset = 6 ∧ (t.slotOf 0).code = 0 :=
  ⟨_, rfl, by decide, by decide⟩
theorem test_fold_reset_refused : ∃ t, exec (.foldBlockReset 0 6) (busy fold0) = .next t ∧ t.chip.blockReset = 0 ∧
    (t.slotOf 0).code = 4 := ⟨_, rfl, by decide, by decide⟩
theorem test_quad_reset : ∃ t, exec (.quadBlockReset 0 2) calm = .next t ∧ t.chip.blockReset = 0xF0 := ⟨_, rfl, by decide⟩

def inReset : State := { calm with chip := { calm.chip with blockReset := 6 }, folds := [(1, fold0)] }

theorem block_reset_ready : inReset.chip.blockReset.getLsbD 1 = true ∧ wfMap Fold.init inReset.folds = true := by decide
theorem test_block_reset : ∃ t, exec (.blockResetComplete 1 false) inReset = .next t ∧ t.chip.blockReset = 4 ∧
    t.chip.failedFolds = 2 := ⟨_, rfl, by decide, by decide⟩
theorem test_reset_command : ∃ t, exec (.deviceResetCommand 0) calm = .next t ∧ t.chip.phase = .held ∧ t.chip.cause = 0x5020 :=
  ⟨_, rfl, by decide, by decide⟩
theorem test_clock_loss : ∃ t, exec .sysRefclkLoss calm = .next t ∧ t.chip.fatal = 0xFF ∧ t.chip.sysRef = false :=
  ⟨_, rfl, by decide, by decide⟩
theorem test_lookout_error : ∃ t, exec .uncorrectableLookoutError calm = .next t ∧ t.chip.fatal = 4 := ⟨_, rfl, by decide⟩

/-! ### An image that boots -/

/-- A prime modulus, and the signature under its private exponent of the image below, made with the salt of 64 zeros (RFC 8017; both are computed
outside the model). -/
def bootModulus : Nat := 2 ^ 4096 - 2549
def bootSignature : Nat :=
  0x2800338505789bad5db0defe8107ecda7d16d7577f91cb016c34d8ca799e53b341ffec392ea7b4c989acb805b96c8e1a06e9355a88a86ceef3dfaac09dad0484a45ce1b7c40913c68cd9c415397279d2b83635046412f595d181bec60a7f2934c56cff5d2c68fc626a9cd4ed54a1086877e22c3d5f5e5a326be3000ef62a181524c8aab7778fefdee2812043b26d46d3a7a8811382d553ac2dac69aee7cf6bd196cfd10dfdbc644693eb22800349a29ce1dd90d6cbdd46460345ccc3af2e44f6843ebc8901f44f49ead8d078ab00c5a53404575da91bdb9a6c348c2082357a448eff3cbd6aa5870a74d9769ef5f00824aab18354bfafa415bdc6d8ddb49745713ffa42436fa976e366f9c614d3d0a654c10254479226453fbd01cdda254891027fa619ac8b564084ae949aa210ea7a78a29e85a95177e1fc55c958f9597999d4b9a452c3f5fbcba5dacf03c2c5e2ab674305c9032e058318fd8484f9d2d14f7121b47273c79e6fef8311f93a449bd41773cfff8c35bdddbb9ef3b1912542d2099c99f1c4899735aa3c3beb004942ff32bc0447f47e712d8ccedf7b7730216f0090bf5b126493d1bbcb20eb476ccbdddaff1cbe83182b5521d23626e917ab2b435ab6e027fefe4e75c2e72248e42f2157617a6cdf266c42ac082693f09f9dcfde2b4af1bf3be11e4932c00fee533c9bbedba592c83be6b9716511c8690ba79800

/-- The 4,096 bytes ahead of an image's eight bytes of body: header, key, signature and zeros (R486). -/
def bootHdr : List Byte := leBytes 64 (at_ 480 32 0x414B4657 + at_ 472 8 1 + at_ 400 32 8)
def bootKey : List Byte := beBytes 512 bootModulus
def bootSig : List Byte := beBytes 512 bootSignature
def bootPad : List Byte := List.replicate 3008 0
def bootFront : List Byte := bootHdr ++ bootKey ++ bootSig ++ bootPad

/-- Bytes from address `a` on. -/
def cellsAt : Nat → List Byte → List Host.Cell
  | _, [] => []
  | a, b :: t => (a, b) :: cellsAt (a + 1) t

/-- The image in slot 0, whose body flash leaves erased, and the hash of its key. -/
def bootable : Lookout :=
  { Lookout.init with
    img0 := cellsAt 0 bootFront
    rootHash := BitVec.ofNat 512 (beNat (sha512 bootKey)) }

theorem peek_cells (l : List Byte) (a k : Nat) : peek erased (cellsAt a l) k = if a ≤ k then l.getD (k - a) erased else erased := by
  induction l generalizing a with
  | nil => simp [cellsAt]
  | cons b t ih =>
    rw [cellsAt, peek]
    split
    · subst k; simp
    · rw [ih]
      split
      · rw [if_pos (by omega), show k - a = (k - (a + 1)) + 1 by omega]; rfl
      · rw [if_neg (by omega)]

theorem run_cells (l : List Byte) (a n : Nat) : peekRun erased (cellsAt 0 l) a n = (List.range n).map fun i => l.getD (a + i) erased := by
  simp [peekRun, peek_cells]

theorem range_getD (l m r : List Byte) (n : Nat) (h : m.length = n) :
    ((List.range n).map fun i => (l ++ m ++ r).getD (l.length + i) erased) = m := by
  subst h
  refine List.ext_getElem (by simp) fun i h1 h2 => ?_
  simp only [List.getElem_map, List.getElem_range, List.getD, List.append_assoc, List.getElem?_append, Nat.add_sub_cancel_left, h2, if_true]
  rw [if_neg (by omega), List.getElem?_eq_getElem h2]
  rfl

theorem le_bytes_length (n x : Nat) : (leBytes n x).length = n := by
  induction n generalizing x with
  | zero => rfl
  | succ n ih => rw [leBytes, List.length_cons, ih]

theorem be_bytes_length (n x : Nat) : (beBytes n x).length = n := by rw [beBytes, List.length_reverse, le_bytes_length]

theorem boot_lengths : bootHdr.length = 64 ∧ bootKey.length = 512 ∧ bootSig.length = 512 ∧ bootPad.length = 3008 :=
  ⟨le_bytes_length 64 _, be_bytes_length 512 _, be_bytes_length 512 _, List.length_replicate⟩

theorem boot_image (a n : Nat) : bootable.imageBytes 0 a n = (List.range n).map fun i => bootFront.getD (a + i) erased :=
  run_cells bootFront a n

theorem boot_part (l m r : List Byte) (a n : Nat) (h : bootFront = l ++ m ++ r) (ha : l.length = a) (hn : m.length = n) :
    bootable.imageBytes 0 a n = m := by
  subst ha
  rw [boot_image, h, range_getD l m r n hn]

theorem boot_hdr_bytes : bootable.imageBytes 0 0 64 = bootHdr :=
  boot_part [] bootHdr (bootKey ++ bootSig ++ bootPad) 0 64 (by simp [bootFront]) rfl boot_lengths.1
theorem boot_key_bytes : bootable.imageBytes 0 64 512 = bootKey :=
  boot_part bootHdr bootKey (bootSig ++ bootPad) 64 512 (by simp [bootFront]) boot_lengths.1 boot_lengths.2.1
theorem boot_sig_bytes : bootable.imageBytes 0 576 512 = bootSig :=
  boot_part (bootHdr ++ bootKey) bootSig bootPad 576 512 (by simp [bootFront]) (by simp [boot_lengths]) boot_lengths.2.2.1
theorem boot_pad_bytes : bootable.imageBytes 0 1088 3008 = bootPad :=
  boot_part (bootHdr ++ bootKey ++ bootSig) bootPad [] 1088 3008 (by simp [bootFront]) (by simp [boot_lengths]) boot_lengths.2.2.2
theorem boot_head_bytes : bootable.imageBytes 0 0 576 = bootHdr ++ bootKey :=
  boot_part [] (bootHdr ++ bootKey) (bootSig ++ bootPad) 0 576 (by simp [bootFront]) rfl (by simp [boot_lengths])
theorem boot_body_bytes : bootable.imageBytes 0 4096 8 = List.replicate 8 erased := by
  have h : bootFront.length = 4096 := by simp [bootFront, boot_lengths]
  rw [boot_image]
  refine List.ext_getElem (by simp) fun i h1 h2 => ?_
  rw [List.getElem_map, List.getElem_replicate, List.getD, List.getElem?_eq_none (by rw [h]; omega)]
  rfl

theorem boot_hdr : bootable.imageHdr 0 = at_ 480 32 0x414B4657 + at_ 472 8 1 + at_ 400 32 8 := by
  rw [Lookout.imageHdr, boot_hdr_bytes]; decide +kernel
theorem boot_signed : bootable.signedBytes 0 = bootHdr ++ bootKey ++ List.replicate 8 erased := by
  rw [Lookout.signedBytes, boot_hdr, show hdrBodyLen (at_ 480 32 0x414B4657 + at_ 472 8 1 + at_ 400 32 8) = 8 by decide +kernel,
    boot_head_bytes, boot_body_bytes]

/-- The signature verifies (R486). -/
theorem test_signature_verifies : pssVerify bootKey bootSig (bootHdr ++ bootKey ++ List.replicate 8 erased) = true := by decide +kernel

theorem le_lt (l : List Byte) : leNat l < 256 ^ l.length := by
  induction l with
  | nil => decide
  | cons b t ih =>
    have hb : b.toNat < 256 := b.isLt
    have hs := Nat.mul_le_mul_left 256 (Nat.succ_le_of_lt ih)
    rw [leNat, List.length_cons, Nat.pow_succ', Nat.mul_succ] at *
    generalize 256 * leNat t = x at *
    generalize 256 * 256 ^ t.length = y at *
    omega

theorem sha_round_length (v : List Nat) (k : Nat) : (shaRound v k).length = v.length := by
  unfold shaRound
  split
  · simp only [List.length_cons, List.length_nil]
  · rfl

theorem sha_rounds_length (l : List Nat) (v : List Nat) : (l.foldl shaRound v).length = v.length := by
  induction l generalizing v with
  | nil => rfl
  | cons k t ih => rw [List.foldl_cons, ih, sha_round_length]

theorem sha_blocks_length (l : List (List Byte)) (h : List Nat) : (l.foldl shaBlock h).length = h.length := by
  induction l generalizing h with
  | nil => rfl
  | cons b t ih => rw [List.foldl_cons, ih, shaBlock, List.length_zipWith, sha_rounds_length, Nat.min_self]

theorem word_bytes_length (l : List Nat) : (l.flatMap (beBytes 8)).length = 8 * l.length := by
  induction l with
  | nil => rfl
  | cons x t ih => simp only [List.flatMap_cons, List.length_append, ih, beBytes, List.length_reverse, le_bytes_length, List.length_cons]; omega

theorem sha_length (m : List Byte) : (sha512 m).length = 64 := by
  rw [sha512, word_bytes_length, sha_blocks_length, show initialWords.length = 8 by decide]

theorem boot_root : bootable.rootHash.toNat = beNat (sha512 bootKey) := by
  have h := le_lt (sha512 bootKey).reverse
  rw [List.length_reverse, sha_length] at h
  rw [bootable, BitVec.toNat_ofNat]
  exact Nat.mod_eq_of_lt (Nat.lt_of_lt_of_eq h (by decide +kernel))

/-- The image verifies (R487). -/
theorem boot_ready : bootable.verify 0 = 0 := by
  have pad : bootPad.any (fun b => decide (b ≠ 0)) = false := by
    rw [bootPad, List.any_eq_false]
    intro b hb
    rw [List.eq_of_mem_replicate hb]
    decide
  unfold Lookout.verify
  simp only [boot_hdr, boot_key_bytes, boot_sig_bytes, boot_pad_bytes, boot_signed, pad, boot_root, test_signature_verifies, ne_eq,
    not_true_eq_false, if_false, Bool.not_true]
  decide +kernel

/-! ### The rigging -/

/-- A link to node 9 that is up, with room for 64 flits of every class and lane at each end. -/
def clearLink : Link :=
  { Link.init with
      st := 2, farNode := 9
      room := (List.range 8).map fun k => (k, 64)
      space := (List.range 8).map fun k => (k, 64) }

/-- A device of node 0 with link 3 up, link 4 training, a route to node 9 on link 3 and none to node 8. -/
def rigged : State :=
  let s := busy fold0
  { s with rig := { s.rig with
      links := [(3, clearLink), (4, { Link.init with st := 1 })]
      route := [(9, BitVec.ofNat 32 (2 ^ 31 + at_ 26 5 3))]
      trees := [(5, { Tree.init with children := 8 })]
      groups := [(7, BitVec.ofNat 32 (2 ^ 31 + at_ 25 6 5))] } }

/-- The next flit of node 9 on link 3. -/
def flit (dst : BitVec 12) : FlitIn := { flit0 with link := 3, src := 9, dst := dst, epoch := 2 }

/-- A packet of class 1. -/
def packet : OutFlit :=
  { dst := 9, src := 0, cls := 1, lane := false, tally := 0, epoch := 0, lseq := 4, lack := 0, nak := false, fold := 0,
    body := .notice, part := 0, tries := 0, via := none }

/-- The replay buffer of link 3 holds one packet, sent `n` times. -/
def waitingAck (n : Nat) : State :=
  rigged.setLink 3 { rigged.link 3 with
    buf := [{ packet with tries := n }] }

/-- The packet waits at the output of link 3, whose far end has no buffer free. -/
def crowded : State := rigged.setLink 3 { rigged.link 3 with wait := [packet], room := [] }

theorem rigged_ready : rigged.linkUp 3 = true ∧ rigged.linkUp 4 = false ∧ (rigged.link 4).st = 1 ∧ rigged.chip.rigged = true ∧
    (waitingAck 16).linkUp 3 = true ∧ (waitingAck 16).rig.abEn = false ∧ CanRaise rigged :=
  ⟨by decide, by decide, by decide, by decide, by decide, by decide, ⟨job, rfl, rfl⟩⟩
theorem flit_ready : (rigged.acceptFlit (flit 0) 1 1).isSome = true ∧ rigged.route 9 0 = some (3, false) ∧ rigged.route 8 0 = none := by
  decide
theorem test_link_failure : ∃ t j, exec (.linkFailure 3) rigged = .next t ∧ (t.link 3).st = 3 ∧ t.job = some j ∧
    j.reports.map (·.code) = [0x63] := ⟨_, _, rfl, by decide, rfl, by decide⟩
theorem test_replay : ∃ t, exec (.replayTimeout 3) (waitingAck 15) = .next t ∧ (t.link 3).st = 2 ∧ (t.link 3).buf.map (·.tries) = [16] :=
  ⟨_, rfl, by decide, by decide⟩
theorem test_replay_fails : ∃ t, exec (.replayTimeout 3) (waitingAck 16) = .next t ∧ (t.link 3).st = 3 := ⟨_, rfl, by decide⟩
theorem test_rig_clock : ∃ t, exec (.rigRefclkLoss 0) rigged = .next t ∧ (t.link 3).st = 3 ∧ (t.link 4).st = 3 ∧
    t.chip.rigRef = 0xE := ⟨_, rfl, by decide, by decide, by decide⟩
theorem crowded_ready : crowded.linkUp 3 = true ∧
    ((crowded.link 3).wait.any fun o => decide (o.cls = 1) && decide (o.lane = false)) = true ∧ CanRaise crowded :=
  ⟨by decide, by decide, job, rfl, rfl⟩
theorem test_rigging_stall : ∃ t j, exec (.riggingStall 3 1 false) crowded = .next t ∧ t.job = some j ∧
    j.reports.map (·.code) = [0x32] := ⟨_, _, rfl, rfl, by decide⟩

/-- A flit that does not pass its check asks for the replay of what has not come (R335, R336). -/
theorem test_discarded : (rigged.link 3).takeParts [] = some (rigged.link 3) ∧ flitBad (rigged.link 3) [] true = true ∧
    ∃ t, exec (.flitDiscarded ⟨3, [], [], true⟩) rigged = .next t ∧
    (t.link 3).idle = some { lack := 1023, nak := true, room := [] } ∧ (t.link 3).discarding = true := ⟨rfl, by decide, _, rfl, by decide, by decide⟩
theorem test_link_up : ∃ t, exec (.linkUp 4 9 7 2) rigged = .next t ∧ (t.link 4).st = 2 ∧ (t.link 4).farLink = 7 :=
  ⟨_, rfl, by decide, by decide⟩

/-- LACK 4 acknowledges the packet whose last flit is 4, LACK 3 does not (R336). -/
theorem test_ack : ∃ t, exec (.idleFlit { flit 0 with lack := 4 }) (waitingAck 0) = .next t ∧ (t.link 3).buf = [] := ⟨_, rfl, by decide⟩
theorem test_no_ack : ∃ t, exec (.idleFlit { flit 0 with lack := 3 }) (waitingAck 0) = .next t ∧ (t.link 3).buf.length = 1 :=
  ⟨_, rfl, by decide⟩
theorem transit_ready : (rigged.takeIn (flit 9) 2 (packetFlits 1)).isSome = true ∧ (rigged.link 3).wait = [] ∧
    (rigged.link 3).fits { relay (flit 9) 2 (.transit 3 0 [1]) with lane := false } = true ∧
    (crowded.link 3).fits { relay (flit 9) 2 (.transit 3 0 [1]) with lane := false } = false := by decide
theorem test_transit : ∃ t, exec (.transitFlit (flit 9) ⟨2, 3, 0⟩ [1]) rigged = .next t ∧ ((t.link 3).buf.map (·.src)) = [9] :=
  ⟨_, rfl, by decide⟩
theorem test_transit_dropped : ∃ t, exec (.transitFlit (flit 8) ⟨2, 3, 0⟩ [1]) rigged = .next t ∧ t.rig.dropped = 1 := ⟨_, rfl, by decide⟩

/-- Fold 0 with queue 3 bound to a channel of node 9. -/
def bound9 : State :=
  let s := rigged
  let x := s.fold 0
  s.setFold 0 { x with qu := { x.qu with qtab := [(3, { base := 100, lines := 8 })]
                                         queues := [(3, { Queue.init with bound := some { node := some 9, tree := none, fold := 1, ch := 2, slotm1 := 0, ncred := 1 } })] } }

theorem test_reset_notice : ∃ t, exec (.resetNotice (flit 0)) bound9 = .next t ∧ ((t.fold 0).queue 3).closed = true ∧
    t.rig.notices = 1 := ⟨_, rfl, by decide, by decide⟩

/-- A directed request of node 5 came on link 4 and was passed on; its reply, with RID 7, comes on link 3 for node 5. -/
def passing : State :=
  { rigged with dict := { rigged.dict with passed := [(5, 7, 4)] }
                rig := { rigged.rig with links := [(3, (rigged.link 3)), (4, { rigged.link 3 with farNode := 5 })] } }

theorem back_ready : wayBack passing 5 (leBytes 32 (at_ 240 16 7)) = some (5, 7, 4) ∧ (passing.takeIn (flit 5) 0 1).isSome = true ∧
    (passing.link 4).st = 2 := by decide
theorem test_way_back : ∃ t, exec (.transitFlit (flit 5) ⟨0, 0x0C, 0⟩ (leBytes 32 (at_ 240 16 7))) passing = .next t ∧
    (t.link 4).buf.length = 1 ∧ t.dict.passed = [] := ⟨_, rfl, by decide, by decide⟩

theorem serves_ready (u : State) (h : rigged.acceptFlit (flit 0) 2 1 = some u) :
    u.servesPeer (lineAddr 0x1000 1) 2 = true ∧ shareOf u.msd.split .remote ≠ 0 ∧
    shareOf ({ u with msd := { u.msd with split := (100, 0, 0) } } : State).msd.split .remote = 0 := by
  injection h with h; subst h; decide
theorem remote_ready (u : State) (h : rigged.acceptFlit (flit 0) 2 1 = some u) : u.expTally 9 0 0 = 0 ∧ u.expTally 9 0 1 = 0 ∧
    0x1000 + 64 ≤ u.limit := by
  injection h with h; subst h; decide
theorem test_remote_write : ∃ t, exec (.remoteWrite (flit 0) 0x1000 (List.replicate 64 1) true) rigged = .next t ∧
    ((t.port 6).xq.map fun r => (r.addr, r.n, r.wr)) = [(0x1000, 1, true)] ∧ t.rig.expT = [(576, 1)] := ⟨_, rfl, by decide, by decide⟩
theorem test_remote_mismatch : ∃ t, exec (.remoteWrite (flit 0) 0x1000 (List.replicate 64 1) false) rigged = .next t ∧
    t.msd = rigged.msd ∧ peek 0 t.dict.checkCtr 5 = 1 := ⟨_, rfl, rfl, by decide⟩
theorem test_remote_count : ∃ t j, exec (.remoteWrite { flit 0 with tally := 1 } 0x1000 (List.replicate 64 1) true) rigged = .next t ∧
    t.job = some j ∧ j.reports.map (·.code) = [0x43] := ⟨_, _, rfl, rfl, by decide⟩
theorem test_remote_read : ∃ t, exec (.remoteReadRequest (flit 0) 5 0x1000 1 0) rigged = .next t ∧
    t.msd.serves.map (·.req) = [5] ∧ ((t.port 6).xq.map (·.n)) = [2] := ⟨_, rfl, by decide, by decide⟩

/-- A READ of two lines from node 9. -/
def fromPeer : State :=
  let s := rigged
  let x := s.fold 0
  let g : Geom := { xfer0.geom with len := 2 }
  s.setFold 0 { x with dr := { x.dr with xfers := [{ xfer0 with
    desc := dsc kRead (at_ 80 16 0x8009), geom := g, src := { xfer0.src with geom := g, asked := 2 } }] } }

theorem peer_ready (y : Xfer) (h : (fromPeer.fold 0).xfer 0 = some y) : y.desc.kind = kRead ∧ y.desc.peer = true ∧ y.geom.dcf = 0 ∧
    y.src.early = [] ∧ y.geom.len ≤ y.src.asked ∧ y.src.geom = y.geom := by
  cases h; decide
theorem test_peer_data : ∃ t, exec (.remoteReadData (flit 0) 0 (List.replicate 64 3)) fromPeer = .next t ∧
    ((t.fold 0).xfer 0).map (·.got) = some 1 := ⟨_, rfl, by decide⟩

/-- A tree message on tree 5, which forwards on link 3 and does not land here. -/
theorem tree_ready : rigged.receives = true ∧ TreeLinks rigged 5 ∧ (peek Tree.init rigged.rig.trees 5).loc = false :=
  ⟨by decide, by unfold TreeLinks; decide, by decide⟩
theorem test_tree : ∃ t, exec (.treeMessage (flit 9) 5 { head0 with ncred := 2 } []) rigged = .next t ∧
    ((t.link 3).buf.map (·.src)) = [9] ∧ (t.rig.treeMsgs.map (·.released)) = [true] := ⟨_, rfl, by decide, by decide⟩

def treeHeld : State :=
  { rigged with rig := { rigged.rig with
      treeMsgs := [{ tree := 5, fold := 0, ch := 0, dfold := 1, dq := 2, released := false, back := 0 }] } }

theorem tree_held : (treeHeld.rig.treeMsgs.find? fun m => decide (m.tree = 5) && !m.released).isSome = true ∧ job.place 1 = some 1 := by
  decide
theorem test_tree_stall : ∃ t j, exec (.treeStall 5) treeHeld = .next t ∧ t.job = some j ∧
    (j.reports.map fun r => (r.code, r.lfold)) = [(0x33, 1)] := ⟨_, _, rfl, rfl, by decide⟩

theorem group_ready : (rigged.group 7).isSome = true ∧ (rigged.group 7).map (·.1) = some 5 := by decide
theorem test_global : ∃ t, exec (.globalPennantIncrement (flit 0) ⟨5, 7⟩ 300 false) rigged = .next t ∧
    (t.job.map fun j => peek 0 j.gpn 7) = some 300 := ⟨_, rfl, by decide⟩
theorem test_global_down : ∃ t, exec (.globalPennantIncrement (flit 9) ⟨5, 7⟩ 300 true) rigged = .next t ∧
    (t.job.map fun j => peek 0 j.gpn 7) = some 0 ∧ (t.link 3).buf.length = 1 := ⟨_, rfl, by decide, by decide⟩

def grouped : State := { rigged with rig := { rigged.rig with abEn := true, abTree := 5 } }

theorem abort_ready : TreeLinks grouped grouped.rig.abTree.toNat ∧ (grouped.acceptFlit (flit 0) 1 1).isSome = true :=
  ⟨by unfold TreeLinks; decide, by decide⟩
theorem test_group_abort : ∃ t j, exec (.groupAbort (flit 0) ⟨5, 9⟩ 0x40 false) grouped = .next t ∧ t.job = some j ∧
    (j.reports.map fun r => (r.code, r.detail, r.origin)) = [(0x62, 0x40, 9)] := ⟨_, _, rfl, rfl, by decide⟩

/-! ### Links: the clauses at their edges -/

/-- In reset, link 4 is enabled and the clock of its group is lost. -/
def unclocked : State :=
  let s := rigged.setLink 4 Link.init
  { s with rig := { s.rig with linkEn := 0x10 }, chip := { s.chip with rigRef := 0xE } }

theorem unclocked_ready : (unclocked.link 4).st = 0 ∧ unclocked.rig.linkEn.getLsbD 4 = true ∧
    unclocked.chip.rigRef.getLsbD (4 / 8) = false ∧ unclocked.lookoutRuns = true ∧ unclocked.clocked = true := by decide
theorem test_link_clock : ∃ t, exec (.linkUp 4 9 7 2) unclocked = .next t ∧ (t.link 4).st = 2 ∧ t.chip.rigRef = 0xF :=
  ⟨_, rfl, by decide, by decide⟩

/-- A flit of the packet with LSEQ `n` as it stands on the link. -/
def onWire (n : Nat) : List Byte := ({ packet with lseq := n, body := .transit 3 0 [1] } : OutFlit).bytes

/-- A good flit is accepted, one that repeats its LSEQ is discarded after it, and the next one is not bad (R335, R336). -/
theorem parts_ready : ((rigged.link 3).takeParts [onWire 0]).map (fun k => (k.expSeq, k.part, flitBad k (onWire 0) false,
    flitBad k (onWire 1) false)) = some (1, 1, true, false) ∧ (rigged.link 3).takeParts [onWire 1] = none := by decide +kernel
theorem test_discarded_after : ∃ t, exec (.flitDiscarded ⟨3, [onWire 0], onWire 0, false⟩) rigged = .next t ∧ (t.link 3).expSeq = 1 ∧
    ((t.link 3).idle.map fun i => (i.lack, i.nak)) = some (0, true) := ⟨_, rfl, by decide +kernel⟩

/-- The far end of link 3 has no buffer free, and nothing waits yet. -/
def closed3 : State := rigged.setLink 3 { rigged.link 3 with room := [] }

theorem closed_ready : (closed3.takeIn (flit 9) 2 (packetFlits 1)).isSome = true ∧ (closed3.link 3).wait = [] ∧
    peek 0 (closed3.link 3).room 4 = 0 ∧ packetFlits 1 ≤ peek 0 (rigged.link 3).room 4 := by decide
theorem test_transit_waits : ∃ t, exec (.transitFlit (flit 9) ⟨2, 3, 0⟩ [1]) closed3 = .next t ∧
    ((t.link 3).wait.map fun o => (o.src, o.cls)) = [(9, 2)] ∧ (t.link 3).buf = [] := ⟨_, rfl, by decide, by decide⟩

/-- Tree 5 ends at this device, which is no member: its parent is link 3. -/
def leaf : State := { rigged with rig := { rigged.rig with trees := [(5, { Tree.init with parent := 3 })] } }

theorem leaf_ready : TreeLinks leaf 5 ∧ (peek Tree.init leaf.rig.trees 5).children = 0 ∧ (peek Tree.init leaf.rig.trees 5).parent.toNat = 3 ∧
    (leaf.link 3).st = 2 := ⟨by unfold TreeLinks; decide, by decide, by decide, by decide⟩
theorem test_leaf : ∃ t, exec (.treeMessage (flit 9) 5 { head0 with ncred := 2 } []) leaf = .next t ∧ t.rig.treeMsgs = [] ∧
    ((t.link 3).buf.map (·.body)) = [.credit 0 head0.ch.toNat (some 5)] := ⟨_, rfl, by decide, by decide⟩

/-- Fold 0 has sent on a channel to node 9 and expects its fourth flit. -/
def counted9 : State :=
  let s := bound9
  let x := s.fold 0
  s.setFold 0 { x with qu := { x.qu with ctab := [(2, { CEnt.none with rem := true, node := 9 })]
                                         chans := [(2, { Chan.init with sendCnt := 4 })]
                                         queues := x.qu.queues.map fun q => (q.1, { q.2 with expect := 3 }) } }

theorem counted_ready : (counted9.acceptFlit (flit 0) 1 1).isSome = true ∧ ((counted9.fold 0).queue 3).expect = 3 ∧
    ((counted9.fold 0).chan 2).sendCnt = 4 ∧ (peek CEnt.none (counted9.fold 0).qu.ctab 2).rem = true := by decide
theorem test_counts_begin_again : ∃ t, exec (.resetNotice (flit 0)) counted9 = .next t ∧ ((t.fold 0).queue 3).expect = 0 ∧
    ((t.fold 0).chan 2).sendCnt = 0 := ⟨_, rfl, by decide, by decide⟩

/-! ### The lookout -/

/-- A lookout with firmware, certificates of four bytes in all, a private key or none, and one operation under way. -/
def signing (key : Option Nat) (j : RsaJob) : State :=
  { busy fold0 with
    look := { Lookout.init with
      wdog := true, priv := key, rsa := [j]
      ident := { Lookout.init.ident with
        root := { Lookout.init.ident.root with der := [1, 2] }, authority := { Lookout.init.ident.authority with der := [3] },
        device := { Lookout.init.ident.device with der := [4] } } }
    job := some { job with phase := .signing } }

theorem mailbox_ready : (signing (some 5) .digest).mailbox = true ∧ (signing (some 5) .digest).look.priv.isSome = true ∧
    (signing none .digest).look.priv = none ∧ (signing none .digest).look.chain = [1, 2, 3, 4] ∧
    blocks (signing (some 5) .digest) 5 = none ∧ (blocks (signing (some 5) .digest) 0).isSome = true := by decide
theorem test_certificate : ∃ t, exec (.getCertificate 0 1 2) (signing (some 5) .digest) = .next t ∧ t.look.spdm = some (.certificate [2, 3] 1) :=
  ⟨_, rfl, by decide⟩
theorem test_certificate_slot : ∃ t, exec (.getCertificate 1 1 2) (signing (some 5) .digest) = .next t ∧ t.look.spdm = some (.error .invalidRequest) :=
  ⟨_, rfl, by decide⟩
theorem test_no_key : ∃ t, exec (.challenge 0 [7]) (signing none .digest) = .next t ∧ t.look.spdm = some (.error .unspecified) ∧
    t.look.rsa = [.digest] := ⟨_, rfl, by decide, by decide⟩
theorem test_version : ∃ t, exec .getVersion (signing none .digest) = .next t ∧ t.look.spdm = some (.version 1 2) := ⟨_, rfl, by decide⟩
theorem test_challenge : ∃ t, exec (.challenge 0 [7]) (signing (some 5) .digest) = .next t ∧ t.look.rsa = [.digest, .challenge [7]] :=
  ⟨_, rfl, by decide⟩
theorem test_measurement_count : ∃ t, exec (.getMeasurements 0 false []) (signing (some 5) .digest) = .next t ∧
    t.look.spdm = some (.measurements [(0, [4])] []) := ⟨_, rfl, by decide⟩
theorem test_signature : ∃ t, exec .rsaOperation (signing (some 5) (.challenge [7])) = .next t ∧ t.look.rsa = [] ∧
    t.job.map (·.phase) = some .signing := ⟨_, rfl, by decide, by decide⟩
theorem digest_ready : (signing (some 5) .digest).look.rsa = [.digest] ∧ (signing (some 5) .digest).job.map (·.phase) = some .signing := by decide

def logged : State := { calm with look := { calm.look with buf := [{ seq := 4, epoch := 0, time := 0, cls := 1, code := 2, data := 3 }] } }

theorem test_log : ∃ t, exec .logFlush logged = .next t ∧ t.look.buf = [] ∧ t.look.log.map (·.seq) = [4] := ⟨_, rfl, by decide, by decide⟩
theorem test_sector : ∃ t, exec .sectorProgrammed { calm with look := { calm.look with fwBuf := [(0, 1), (65536, 2)] } } = .next t ∧
    t.look.img1 = [(0, 1)] ∧ t.look.fwBuf = [(65536, 2)] := ⟨_, rfl, by decide, by decide⟩

/-- A write accepted for the lookout in slot 0, with the firmware's update state. -/
def accepted (i sub v st : Nat) (session : Option Nat) : State :=
  { calm with dict := { calm.dict with slots := [(0, { Slot.init with wait := some (i, sub, 0, v) })] }
              look := { calm.look with fwState := st, session := session, svn := 3, img1 := [(0, 1)] } }

theorem accepted_ready : ((accepted 0x9010 5 1 1 (some 0)).slotOf 0).wait = some (0x9010, 5, 0, 1) ∧
    (accepted 0x9010 5 1 1 (some 0)).look.session = some pathH ∧ wfMap Slot.init (accepted 0x9010 5 1 1 (some 0)).dict.slots = true := by
  decide
theorem verify_fails : (program (fun _ => true) (accepted 0x9010 5 1 1 (some 0)).look).verify 1 ≠ 0 := by decide +kernel

/-- The same, with the image that boots in the inactive slot. -/
theorem verify_ready : (program (fun _ => true) { bootable with active := 1 }).verify (1 - 1) = 0 := boot_ready

theorem test_accepted : ∃ t, exec (.firmwareVerify 0) calm = .next t ∧ (t.slotOf 0).code = 0x80 ∧
    (t.slotOf 0).wait = some (0x9010, 5, 0, 1) ∧ t.look = calm.look := ⟨_, rfl, by decide, by decide, rfl⟩
theorem test_slot_offset : ∃ t, exec (.firmwareSlotWrite 0 4 0) calm = .next t ∧ (t.slotOf 0).code = 5 := ⟨_, rfl, by decide⟩
theorem test_session : ∃ t, exec (.lookoutWriteComplete 0) (accepted 0x9010 2 7 0 none) = .next t ∧ t.look.fwState = 1 ∧
    t.look.img1 = [] ∧ t.look.session = some 0 := ⟨_, rfl, by decide, by decide, by decide⟩
theorem test_activate : ∃ t, exec (.lookoutWriteComplete 0) (accepted 0x9010 5 2 3 (some 0)) = .next t ∧ t.look.nextBoot = 1 ∧
    t.look.fwState = 4 := ⟨_, rfl, by decide, by decide⟩
theorem test_commit_image : ∃ t, exec (.lookoutWriteComplete 0) (accepted 0x9010 5 4 0 none) = .next t ∧ t.look.rollback = 3 :=
  ⟨_, rfl, by decide⟩
theorem test_lock : ∃ t, exec (.lookoutWriteComplete 0) (accepted 0x9030 1 1 0 none) = .next t ∧ t.look.lock = true := ⟨_, rfl, by decide⟩

/-! ### The dictionary -/

/-- A ready device with ring 1 enabled between its head and tail, and ring 2 idle. -/
def ringed : State :=
  { calm with host := { calm.host with
      rings := [(1, { base := 0x8000, size := 16, en := true, head := 4, tail := 6 }), (2, { Ring.init with size := 16 })]
      comp := { Ring.init with size := 16, head := 3, tail := 5 } } }

theorem window_free : ringed.chip.cxlUp = true ∧ ringed.chip.phase ≠ .held ∧ (ringed.slotOf 0).wait = none ∧
    wfMap Slot.init ringed.dict.slots = true ∧ wfMap 0 ringed.dict.status = true ∧ wfMap Ring.init ringed.host.rings = true ∧
    wfMap 0 ringed.host.windows = true ∧ wfMap 0 ringed.rig.route = true := by decide
theorem path_h_ringed : PathH ringed 0 := by constructor <;> decide
theorem slot_waits : ((accepted 0x9010 5 1 1 (some 0)).slotOf 0).wait ≠ none := by decide

theorem test_sel : ∃ t, exec (.dictWrite 0x1000 [0xFF, 0, 0, 0, 0, 1, 0, 0x20]) calm = .next t ∧
    (t.slotOf 0).sel = 0x2000010000000000 := ⟨_, rfl, by decide⟩
theorem test_outside : exec (.dictWrite 0x3000 [0, 0, 0, 0, 0, 0, 0, 0]) calm = .next calm := rfl

/-- Slot 0 selects OD 0x1010.02, the folds of the grade. -/
def selected : State := { calm with dict := { calm.dict with slots := [(0, { Slot.init with sel := selOf 0x1010 2 0 })] } }

theorem test_read_entry : ∃ t, exec (.dictRead ⟨0x1010, 8⟩) selected = .next t ∧ (t.slotOf 0).rdata = 32 ∧ (t.slotOf 0).ans = 0 :=
  ⟨_, rfl, by decide, by decide⟩
theorem test_read_busy : ∃ t, exec (.dictRead ⟨0x1010, 8⟩) (accepted 0x9010 5 1 1 (some 0)) = .next t ∧ (t.slotOf 0).ans = 0x81 :=
  ⟨_, rfl, by decide⟩
theorem test_no_entry : ∃ t, exec (.dictRead ⟨0x1010, 8⟩)
      { calm with dict := { calm.dict with slots := [(0, { Slot.init with sel := selOf 0x1010 6 0 })] } } = .next t ∧
    (t.slotOf 0).ans = 1 := ⟨_, rfl, by decide⟩

/-- Bits of the three status copies, of which path H clears its own (R404). -/
def noted : State := { calm with dict := { calm.dict with status := [(0, 0x0060), (1, 0x0060)] } }

theorem test_status_clear : ∃ t, exec (.statusClear 0 0x20) noted = .next t ∧ t.dict.status = [(0, 0x0040), (1, 0x0060)] :=
  ⟨_, rfl, by decide⟩

/-- The tail may lead the head by the size at most (R368). -/
theorem bell_ready : (20 + 2 ^ 32 - (4 : BitVec 32).toNat) % 2 ^ 32 ≤ 16 ∧ 16 < (21 + 2 ^ 32 - (4 : BitVec 32).toNat) % 2 ^ 32 := by
  decide
theorem test_doorbell : ∃ t, exec (.doorbell 0 1 20) ringed = .next t ∧ (t.ring 1).tail = 20 ∧ (t.slotOf 0).code = 0 :=
  ⟨_, rfl, by decide, by decide⟩
theorem test_doorbell_refused : ∃ t, exec (.doorbell 0 1 21) ringed = .next t ∧ (t.ring 1).tail = 6 ∧ (t.slotOf 0).code = 4 :=
  ⟨_, rfl, by decide, by decide⟩
theorem ring_ready : ringBeyond ringed 0x8200 128 16 = false ∧ ringSizeOk 16 = true ∧ ringBeyond ringed 0 128 16 = false ∧
    ringBeyond ringed 0x8040 64 16 = false ∧ ringDiff 5 3 ≤ ringDiff 5 3 := by decide
theorem test_ring_base : ∃ t, exec (.submissionRingConfig 0 2 1 0x8200) ringed = .next t ∧ (t.ring 2).base = 0x8200 := ⟨_, rfl, by decide⟩
theorem test_ring_enabled : ∃ t, exec (.submissionRingConfig 0 1 1 0x8200) ringed = .next t ∧ (t.slotOf 0).code = 4 := ⟨_, rfl, by decide⟩
theorem test_completion_enable : ∃ t, exec (.completionRingConfig 0 3 1) ringed = .next t ∧ t.host.comp.en = true := ⟨_, rfl, by decide⟩
theorem test_completion_head : ∃ t, exec (.completionRingHead 0 5) ringed = .next t ∧ t.host.comp.head = 5 := ⟨_, rfl, by decide⟩
theorem test_window_write : ∃ t, exec (.coherentWindowWrite 0 3 0x7F) calm = .next t ∧ peek 0 t.host.windows 3 = 0x41 :=
  ⟨_, rfl, by decide⟩
theorem test_window_refused : ∃ t, exec (.coherentWindowWrite 0 3 0x41) (busy fold0) = .next t ∧ (t.slotOf 0).code = 4 :=
  ⟨_, rfl, by decide⟩
theorem test_routes : ∃ t, exec (.routeTableWrite 0 8 0x8000C00000007FFF) calm = .next t ∧
    peek 0 t.rig.route 2 = 0x4000 ∧ peek 0 t.rig.route 3 = 0x8000C000 := ⟨_, rfl, by decide, by decide⟩
theorem test_host_abort : ∃ t j, exec (.hostAbort 0 7) (busy fold0) = .next t ∧ t.job = some j ∧
    j.reports.map (·.code) = [0x61] := ⟨_, _, rfl, rfl, by decide⟩

/-- A preempted job of tag 7, whose one saved area holds 64 bytes of zeros. -/
def savedJob : Saved :=
  { job := { job with phase := .restoring }, folds := [(0, { fold0 with ex := { fold0.ex with run := .saved } })], streams := [],
    claims := [], areas := [{ prog := 0, addr := 0x800000, len := 64, crc := crc32c (List.replicate 64 0) }] }
def shelved : State := { calm with saved := [savedJob] }

theorem shelved_ready : shelved.job = none ∧ (shelved.saved.filter fun w => decide (w.job.hdr.tag = 7)) = [savedJob] ∧
    (∀ w ∈ shelved.saved, w.job.hdr.tag ≠ 8) := ⟨rfl, rfl, by decide⟩
theorem test_saved_abort : ∃ t, exec (.hostAbort 0 7) shelved = .next t ∧ t.saved = [] ∧
    (t.host.compWait.map fun c => (c.kind, c.seq)) = [(2, 9)] := ⟨_, rfl, by decide, by decide⟩

/-- Requests of node 9 to a device whose lookout runs firmware and whose manager is node 5. -/
def managed : State := { rigged with look := { rigged.look with wdog := true }, rig := { rigged.rig with mgr := 5 } }

def ask (opc : BitVec 2) : MgReq :=
  { h := flit 0, directed := false, hops := [], hop := 0, rid := 3, opc := opc, index := 0x6001, sub := 1, offset := 0, len := 2,
    data := if opc = 1 then [1, 0] else [] }

theorem managed_ready : managed.chip.rigged = true ∧ managed.look.wdog = true ∧
    (managed.dict.replies.find? fun q => decide (q.node = 9) && decide (q.rid = 3)) = none ∧ managed.rig.mgr ≠ 0xFFFF ∧
    managed.rig.mgr.toNat ≠ 9 ∧ (managed.entry 0x6001 1).isSome = true ∧ managed.route 9 0 = some (3, false) := by decide
theorem test_request : ∃ t, exec (.managementRequest (ask 0)) managed = .next t ∧
    (t.dict.replies.map fun q => (q.code, q.data)) = [(0, [5, 0])] ∧ (t.link 3).buf.length = 1 := ⟨_, rfl, by decide, by decide⟩
theorem test_request_refused : ∃ t, exec (.managementRequest (ask 1)) managed = .next t ∧
    (t.dict.replies.map (·.code)) = [2] ∧ t.rig.mgr = 5 := ⟨_, rfl, by decide, by decide⟩

/-- A directed frame at a device that is not its last hop goes on at the output it names (R353). -/
theorem test_directed : ∃ t, exec (.managementRequest { ask 0 with directed := true, hops := [7, 3], hop := 1 }) managed = .next t ∧
    (t.link 3).buf.length = 1 ∧ t.dict.passed = [(9, 3, 3)] := ⟨_, rfl, by decide, by decide⟩
theorem test_reserved_opc : exec (.managementRequest (ask 2)) managed = .refused .reservedOpc := rfl
theorem test_i3c_open_code : ∃ t st code, exec (.i3cPrivateWrite (2 :: List.replicate 11 0)) managed = .next t ∧
    t.dict.i3c.reply = some (st, code, []) ∧ fld (leNat ((2 : Byte) :: List.replicate 11 0)) 0 8 = 2 := ⟨_, _, _, rfl, rfl, by decide⟩
theorem test_setdasa : ∃ t, exec (.setdasa 0x3A 0x21) calm = .next t ∧ t.dict.i3c.dyn = some 0x21 := ⟨_, rfl, by decide⟩

/-- A read of OD 0x1010.02 by path M: OPC, INDEX, SUB, OFFSET, LEN. -/
theorem test_i3c_write : ∃ t, exec (.i3cPrivateWrite [0, 0x10, 0x10, 2, 0, 0, 0, 0, 1, 0, 0, 0]) calm = .next t ∧
    (t.dict.i3c.reply.map fun r => (r.2.1, r.2.2)) = some (0, [32]) := ⟨_, rfl, by decide⟩
theorem test_i3c_read : ∃ t, exec .i3cPrivateRead { calm with dict := { calm.dict with i3c := { calm.dict.i3c with
      reply := some (0x8000, 0, [32]) } } } = .next t ∧ t.dict.i3c.out = [0, 0x80, 0, 1, 32] := ⟨_, rfl, by decide⟩

/-! ### The lookout and management paths: the clauses at their edges -/

/-- A write after a verify is taken, and the slot is no longer verified (log entry 113). -/
theorem test_write_again : ∃ t, exec (.lookoutWriteComplete 0) (accepted 0x9010 2 7 3 (some 0)) = .next t ∧ t.look.fwState = 1 ∧
    t.look.fwBuf.length = 8 ∧ t.look.session = some 0 := ⟨_, rfl, by decide, by decide, by decide⟩
/-- Path F holds the session (R490). -/
theorem test_other_session : pathF ≠ pathH ∧ ∃ t, exec (.lookoutWriteComplete 0) (accepted 0x9010 5 9 1 (some pathF)) = .next t ∧
    (t.slotOf 0).code = 4 ∧ t.look.session = some pathF := ⟨by decide, _, rfl, by decide, by decide⟩
/-- A count ends at 63 fuse bits (R489). -/
theorem test_fuses : ∃ t, exec (.lookoutWriteComplete 0)
      { accepted 0x9010 5 4 0 none with look := { (accepted 0x9010 5 4 0 none).look with svn := 200 } } = .next t ∧ t.look.rollback = 63 :=
  ⟨_, rfl, by decide⟩

/-- A directed frame whose hop names a link that grade H does not have (log entry 107). -/
def fewLinks : State := { managed with chip := { managed.chip with grade := .H } }

theorem hop_ready : fewLinks.chip.grade.links ≤ (31 : BitVec 5).toNat ∧ fewLinks.linkUp 3 = true ∧ (3 : BitVec 5).toNat < fewLinks.chip.grade.links := by
  decide
theorem test_absent_hop : ∃ t, exec (.managementRequest { ask 0 with directed := true, hops := [31], hop := 0 }) fewLinks = .next t ∧
    t.dict.passed = [] ∧ ((t.link 3).buf.map fun o => match o.body with | .reply q => q.code | _ => 0) = [1] :=
  ⟨_, rfl, by decide, by decide⟩

/-- The reply that answers a repeated request (R354). -/
def answered : State :=
  { managed with dict := { managed.dict with replies := [{ node := 9, rid := 3, code := 0, status := 0, data := [5, 0], back := none }] } }

theorem test_repeated : (answered.dict.replies.find? fun q => decide (q.node = 9) && decide (q.rid = 3)).isSome = true ∧
    ∃ t, exec (.managementRequest (ask 1)) answered = .next t ∧ t.dict.replies.length = 1 ∧ (t.link 3).buf.length = 1 :=
  ⟨by decide, _, rfl, by decide, by decide⟩
theorem test_no_reply : calm.dict.i3c.reply = none ∧ exec .i3cPrivateRead calm = .next calm := ⟨rfl, rfl⟩
theorem test_read_zero : ∃ t, exec (.dictRead ⟨0x3000, 8⟩) calm = .next t ∧ t.dict.winOut = List.replicate 8 0 := ⟨_, rfl, by decide⟩

/-! ### The debugger -/

/-- Fold 0 held by the debugger at rest, in a job. -/
def held : State := busy { fold0 with db := { fold0.db with held := true } }

theorem debug_ready : PathH held 0 ∧ DebugOpen held 0 ∧ wfMap Fold.init held.folds = true ∧ debugState held 0 = 2 ∧
    held.inJob 0 = true ∧ (held.fold 0).db.busy = true ∧ debugState held 1 ≠ 2 ∧ debugState held 1 ≠ 4 ∧
    held.inJob 7 = false ∧ debugState held 7 = 4 :=
  ⟨by constructor <;> decide, by constructor <;> decide, by decide, by decide, by decide, by decide, by decide, by decide,
    by decide, by decide⟩
/-- The same fold in a hold of R182. -/
def tallyHeld : State :=
  busy { fold0 with ex := { fold0.ex with tally := some { rep := (busy fold0).rep 0 0x42 engTally 0 0 0 0, unit := 0, peer := none, cycles := 9 } } }

theorem tally_held_ready : PathH tallyHeld 0 ∧ DebugOpen tallyHeld 0 ∧ wfMap Fold.init tallyHeld.folds = true ∧
    (tallyHeld.fold 0).ex.tally.isSome = true ∧ CanRaise tallyHeld :=
  ⟨by constructor <;> decide, by constructor <;> decide, by decide, by decide, job, rfl, rfl⟩
theorem test_resume_hold : ∃ t j, exec (.debugResume 0 0) tallyHeld = .next t ∧ t.job = some j ∧ j.reports.map (·.code) = [0x42] ∧
    (t.fold 0).ex.tally = none := ⟨_, _, rfl, rfl, by decide, by decide⟩
theorem test_halt : ∃ t, exec (.haltExecute 0 1) held = .next t ∧ (t.fold 1).db.req = true ∧ (t.fold 1).db.all = false :=
  ⟨_, rfl, by decide, by decide⟩
theorem test_halt_all : ∃ t, exec (.haltAll 0 1) held = .next t ∧ (t.fold 1).db.all = true := ⟨_, rfl, by decide⟩
theorem test_step : ∃ t, exec (.debugStep 0 0 4096) held = .next t ∧ (t.fold 0).db.steps = 4096 ∧ (t.fold 0).db.held = false :=
  ⟨_, rfl, by decide, by decide⟩
theorem test_step_range : ∃ t, exec (.debugStep 0 0 4097) held = .next t ∧ (t.slotOf 0).code = 3 := ⟨_, rfl, by decide⟩
theorem test_resume_fold : ∃ t, exec (.debugResume 0 0) held = .next t ∧ (t.fold 0).db.busy = false := ⟨_, rfl, by decide⟩
theorem test_pennant_write : ∃ t, exec (.pennantWrite 0 (.pennant 0 47) 5) held = .next t ∧ (t.fold 0).qu.pnSet = [(47, 5)] ∧
    (t.fold 0).qu.pn = [] := ⟨_, rfl, by decide, by decide⟩
theorem test_state_write : ∃ t, exec (.foldStateWrite 0 0 4 8 0x0000000700000005) held = .next t ∧
    (t.fold 0).ve.reg = [(2, 5), (3, 7)] := ⟨_, rfl, by decide⟩
theorem test_state_refused : ∃ t, exec (.foldStateWrite 0 1 4 8 5) held = .next t ∧ (t.slotOf 0).code = 4 ∧ (t.fold 1).ve.reg = [] :=
  ⟨_, rfl, by decide, by decide⟩

/-- A fold at a bundle with ctl.yield, with its debugger's registers. -/
def yields (d : Debug) : State := busy { fold0 with ex := { fold0.ex with bundles := [(0, 8 <<< 250)] }, db := d }

theorem halt_ready : ((yields { Debug.init with req := true }).fold 0).comes (yields { Debug.init with req := true }) = true ∧
    atStall ((yields Debug.init).fold 0) = true ∧ ((yields { Debug.init with brk := 0x8000 }).fold 0).atBreak = true ∧
    ((yields { Debug.init with stepping := true }).fold 0).db.stepped = true := by decide
theorem test_fold_halt : ∃ t, exec (.foldHalt 0) (yields { Debug.init with req := true }) = .next t ∧ (t.fold 0).db.held = true :=
  ⟨_, rfl, by decide⟩
theorem test_breakpoint : ∃ t, exec (.breakpoint 0) (yields { Debug.init with brk := 0x8000 }) = .next t ∧
    (t.fold 0).db.held = true := ⟨_, rfl, by decide⟩

/-- One trace record, and a buffer of 1,024 records at 0x1000 with `w` of them written. -/
def traced (w : BitVec 32) : State :=
  { yields { Debug.init with recs := [0x77] } with
    trace := { Trace.init with enable := 2, folds := 1, base := 0x1000, size := 1024, widx := w } }

theorem trace_ready : (traced 1023).trace.room 1 = true ∧ (traced 1024).trace.room 1 = false ∧ isHost 0x1000 = false ∧
    wfMap Fold.init (traced 0).folds = true ∧ ((traced 1023).fold 0).db.lostB = 0 := by decide
theorem test_trace : ∃ t, exec (.traceBufferWrite 0) (traced 1023) = .next t ∧ t.msd.mem = [] ∧
    ((t.port (portOf .F 0x8FE0)).dq.map fun q => (q.addr, q.data.take 2)) = [(0x8FE0, [0x77, 0])] ∧
    t.trace.widx = 1024 := ⟨_, rfl, by decide, by decide, by decide⟩
theorem test_trace_full : ∃ t, exec (.traceBufferWrite 0) (traced 1024) = .next t ∧ t.msd.mem = [] ∧ t.trace.lost = 1 :=
  ⟨_, rfl, by decide, by decide⟩

/-! ### Jobs -/

/-- The section of a program of one fold: one bundle at 128 and its descriptor list at 160. -/
def sectionBytes : List Byte :=
  leBytes 64 (at_ 480 32 128 + at_ 464 16 1 + at_ 288 32 160 + at_ 176 32 (crc32c (List.replicate 32 0)))

/-- Its program header: one fold, version 2.1, sections at 64, 192 bytes. -/
def headerBytes : List Byte :=
  let w := at_ 480 32 0x414B5250 + at_ 472 8 2 + at_ 464 8 1 + at_ 456 8 1 + at_ 448 8 8 + at_ 352 32 64 + at_ 320 32 192
  leBytes 64 (w + at_ 384 32 (hdrCrcOf (leBytes 64 w) sectionBytes))

/-- The descriptor of a job on fold 2, its image at 0x10000 and its tap list at `taps`. -/
def descBytes (mode taps : Nat) : List Byte :=
  leBytes 128 (at_ 320 64 0x10000 + at_ 256 64 taps + at_ 224 32 4 + at_ 192 2 mode + at_ 128 32 7 + at_ 64 64 0x4000)

/-- A read of a job's start that port slots have served; `bad` is a line of it that could not be corrected. -/
def startRead (a n : Nat) (data : List Byte) (bad : Option Nat) : DevRead :=
  { key := .start a n, left := 0, mem := putRun memDefault [] a data, bad := bad }

/-- A job at the head of ring 1, of whose start the reads `l` have come. -/
def starting (l : List DevRead) : State :=
  { calm with
    host := { calm.host with rings := [(1, { base := 0x8000, size := 16, en := true, head := 0, tail := 1 })] }
    msd := { calm.msd with devReads := l } }

def read0 (mode taps : Nat) (bad : Option Nat) : DevRead := startRead 0x8000 128 (descBytes mode taps) bad
def jobReads : List DevRead := [startRead 0x10000 64 headerBytes none, startRead 0x10040 64 sectionBytes none, startRead 0 0 [] none]
/-- The header of an empty tap list at 0x20000, whose line could not be corrected. -/
def tapReads : List DevRead := [startRead 0x20000 64 [] (some 0x20000), startRead 0x20040 0 [] none]

def submitted (mode : Nat) : State := starting (read0 mode 0 none :: jobReads)

def goodReads : JobReads := { desc := false, image := false, table := false, rlist := false }

/-- The device as it reads for the job, and what it sees. -/
def reader (s : State) : State := (s.readsAs none).readsAs none
def seen (s : State) : State := (reader s).startView
/-- The entry at the head of the ring. -/
def entry (s : State) : JobHdr × SubBlk := readEntry (s.readsAs none).startView 0x8000
def fails (s : State) : JobReads := badReads (reader s) (seen s) false (entry s).1 (entry s).2 goodReads
def needs (s : State) : List OwnRead := startReads (reader s) (seen s) (entry s).1 (entry s).2 (fails s)
def rejected (s : State) : Option Nat := rejection (reader s) (readJob (seen s) (entry s).1 (entry s).2 (fails s)) (fails s)

theorem start_ready : (starting []).mayStart = true ∧ (starting []).nextWork = .fresh 1 ∧ calm.nextWork = .none ∧
    isHost 0x8000 = false ∧ ((starting []).readsAs none).beyond 0x8000 128 = false ∧
    ((starting []).readsAs none).devRead (.start 0x8000 128) = none := by decide
theorem test_start_asks : ∃ t, exec (.jobStart goodReads) (starting []) = .next t ∧ t.job = none ∧
    (t.msd.devReads.map (·.key)) = [.start 0x8000 128] := ⟨_, rfl, by decide, by decide⟩
theorem needs_ready : ((starting [read0 0 0 none]).readsAs none).startReady [(0x8000, 128, false)] = true ∧
    (reader (starting [read0 0 0 none])).startReady (needs (starting [read0 0 0 none])) = false := by decide +kernel
theorem test_start_asks_on : ∃ t, exec (.jobStart goodReads) (starting [read0 0 0 none]) = .next t ∧ t.job = none ∧
    (t.msd.devReads.map (·.key)) = [.start 0x8000 128, .start 0x10000 64, .start 0 0] := ⟨_, rfl, by decide +kernel⟩
theorem accept_ready : rejected (submitted 0) = none ∧ (entry (submitted 0)).2.pv = false ∧
    ((submitted 0).readsAs none).startReady [(0x8000, 128, false)] = true ∧ (reader (submitted 0)).startReady (needs (submitted 0)) = true ∧
    tapsLost (reader (submitted 0)) (seen (submitted 0)) (entry (submitted 0)).1 = none := by decide +kernel
theorem reject_ready : rejected (submitted 2) = some 1 := by decide +kernel
theorem test_job_start : ∃ t, exec (.jobStart goodReads) (submitted 0) = .next t ∧ (t.ring 1).head = 1 ∧
    (t.job.map fun j => (j.hdr.tag, j.seq, j.places)) = some (7, 1, [2]) ∧ (t.fold 2).ex.run = .loading :=
  ⟨_, rfl, by decide +kernel⟩
theorem test_job_start_pointer : (submitted 0).job = none ∧ ∃ t, exec (.jobStart goodReads) (submitted 0) = .next t ∧
    (t.job.map (·.places)) = some [2] ∧ (t.fold 2).ex.rp = 15 :=
  ⟨rfl, _, rfl, by decide +kernel⟩
theorem test_job_rejected : ∃ t, exec (.jobStart goodReads) (submitted 2) = .next t ∧ t.job = none ∧
    (t.host.compWait.map fun c => (c.kind, c.ring, c.reason, c.tag)) = [(3, 1, 1, 7)] :=
  ⟨_, rfl, by decide +kernel⟩
/-- A line of the descriptor that cannot be corrected rejects the job for reason 0x0F (R371). -/
theorem test_descriptor_lost : (starting [read0 0 0 (some 0x8000)]).startFails 0x8000 128 false = true ∧
    ∃ t, exec (.jobStart goodReads) (starting [read0 0 0 (some 0x8000)]) = .next t ∧
      (t.host.compWait.map fun c => (c.kind, c.reason)) = [(3, 0x0F)] := ⟨by decide, _, rfl, by decide +kernel⟩
/-- One of the tap list's is a memory fault of the job that starts (R329). -/
theorem test_taps_lost : ∃ t, exec (.jobStart goodReads) (starting (read0 0 0x20000 none :: tapReads ++ jobReads)) = .next t ∧
    (t.job.map fun j => j.reports.map fun r => (r.code, r.lv)) = some [(0x53, false)] := ⟨_, rfl, by decide +kernel⟩

/-- The job before fold 2 has loaded; `crc` is the check value of its section. -/
def loadingJob (crc : Nat) : State :=
  let e : Sect := { bundleOff := 128, bundleCnt := 1, shWords := 0, shOff := 0, datOff := 0, datWords := 0, liveCount := 0,
                    liveOff := 0, descOff := 160, preOff := 0, preLines := 0, preBase := 0, crc := crc }
  { calm with
    job := some { job with hdr := { job.hdr with folds := 4 }, prog := { job.prog with foldCount := 1 }, sects := [e], phase := .loading }
    folds := [(2, { Fold.init with ex := { Exec.init with run := .loading } })] }

theorem load_ready : (loadingJob 0).job.map (·.phase) = some .loading ∧ ((loadingJob 0).fold 2).ex.run = .loading ∧
    regionBad 1 0 ((loadingJob 0).fold 2).qu = none ∧ crc32c (List.replicate 32 0) ≠ 0 := by decide +kernel
/-- The fold's image has been read, or a line of it could not be corrected. -/
def imageRead (crc : Nat) (bad : Option Nat) : State :=
  let s := loadingJob crc
  { s with msd := { s.msd with devReads := [{ key := .load 2, left := 0, mem := [], bad := bad }] } }

theorem test_load_asks : ∃ t, exec (.foldLoad 2) (loadingJob 0) = .next t ∧ (t.msd.devReads.map (·.key)) = [.load 2] ∧
    (t.fold 2).ex.run = .loading := ⟨_, rfl, by decide, by decide⟩
theorem test_load_fold : ∃ t, exec (.foldLoad 2) (imageRead (crc32c (List.replicate 32 0)) none) = .next t ∧
    (t.fold 2).ex.run = .loaded ∧ (t.fold 2).dr.dl0.next = 0x100A0 := ⟨_, rfl, by decide +kernel⟩
theorem test_load_fault : ∃ t, exec (.foldLoad 2) (imageRead 0 none) = .next t ∧
    (t.job.map fun j => j.reports.map fun r => (r.code, r.lfold)) = some [(0x23, 2)] := ⟨_, rfl, by decide +kernel⟩

/-- A region table that names no sender breaks R109. -/
theorem region_bad : (regionBad 1 0 { QueueUnit.init with wtab := [(0, { base := 4, lines := 1, src := 1, gpn := 0 })] }).isSome = true := by
  decide

/-- Every fold has loaded and its channels are bound. -/
def loadedJob (taps : Option TapList) : State :=
  let x : Fold := { fold0 with ex := { fold0.ex with run := .loaded }, qu := { fold0.qu with bound := true } }
  let s := busy x
  { s with job := some { job with phase := .loading, taps := taps }, folds := [(0, x), (1, { x with ex := { x.ex with prog := 1 } })] }

/-- One tap of line 4 at bundle 0 of program fold 0, to 0x9000. -/
def tapList (magic : Nat) : TapList :=
  { magic := magic, count := 1, wend := 0, ents := [{ step := 3, fold := 0, baddr := 0, sk := false, line := 4, tile := 0, span := 0,
                                                      len := 0, dest := 0x9000, tag := 6, occ := 0 }] }

theorem signal_ready (j : Job) (e : (loadedJob none).job = some j) : j.phase = .loading ∧ j.reports = [] ∧
    (∀ f ∈ j.places, ((loadedJob none).fold f).ex.run = .loaded ∧ ((loadedJob none).fold f).qu.bound = true) ∧
    tapListBad (loadedJob none) j (tapList 0) = some 0xFFFF ∧ tapsBeyond (loadedJob none) j = none ∧
    tapsBeyond (loadedJob none) { j with taps := some (tapList 0), hdr := { j.hdr with taps := 2 ^ 40 } } = some (2 ^ 40) := by
  cases e; decide
theorem test_signal : ∃ t, exec .startSignal (loadedJob none) = .next t ∧ (t.fold 0).ex.run = .running ∧
    (t.fold 1).sh.run = .running := ⟨_, rfl, by decide, by decide⟩
theorem test_bad_taps : ∃ t j, exec .startSignal (loadedJob (some (tapList 0))) = .next t ∧ t.job = some j ∧
    j.reports.map (·.code) = [0x24] := ⟨_, _, rfl, rfl, by decide⟩

/-! ### Preemption, abort and taps -/

/-- A preemptible job of ring 1 with a job in ring 0. -/
def outranked : State :=
  let s := busy fold0
  { s with job := some { job with sub := { job.sub with save := 0x800000 }, ring := 1 }
           host := { s.host with rings := [(0, { base := 0x8000, size := 16, en := true, head := 0, tail := 1 })] } }

theorem preempt_ready (j : Job) (e : outranked.job = some j) : outranked.readyRing = some 0 ∧ 0 < j.ring ∧
    preemptible outranked j = true ∧ outranked.paused = false ∧ (∃ f ∈ j.places, (outranked.fold f).ex.run ≠ .ended) ∧
    wfMap none outranked.msd.stages = true := by
  cases e; decide
theorem test_preempt : ∃ t, exec .preemption outranked = .next t ∧ t.job.map (·.phase) = some .preempting := ⟨_, rfl, by decide⟩

/-- The job is being preempted and fold 0 stands at a stall point. -/
def stopping : State := { yields Debug.init with job := some { job with phase := .preempting } }

theorem stop_ready : stopping.preempting = true ∧ (stopping.fold 0).executes = true ∧ drained (stopping.fold 0) = true ∧
    atStall (stopping.fold 0) = true := by decide
theorem test_stop : ∃ t, exec (.foldPreemptStop 0) stopping = .next t ∧ (t.fold 0).ex.run = .saved ∧
    (t.fold 0).ex.nextBundle = 0 := ⟨_, rfl, by decide, by decide⟩

/-- The one fold of the job has stopped. -/
def stopped : State :=
  { stopping with
    job := some { job with phase := .preempting, hdr := { job.hdr with folds := 1 }, prog := { job.prog with foldCount := 1 } }
    folds := stopping.folds.map fun p => (p.1, { p.2 with ex := { p.2.ex with run := .saved } }) }

/-- Its context has been written. -/
def written : State := { stopped with moving := some { savedJob with job := job } }

theorem save_ready (j : Job) (e : stopped.job = some j) : j.phase = .preempting ∧ j.reports = [] ∧ stopped.moving = none ∧
    (∀ f ∈ j.places, ((stopped.fold f).ex.run = .saved ∨ (stopped.fold f).ex.run = .ended) ∧ drained (stopped.fold f) = true) ∧
    written.moving.isSome = true ∧ written.writing = false := by
  cases e; decide
theorem test_save : ∃ t, exec .contextSaveComplete stopped = .next t ∧
    (t.moving.map fun v => v.areas.map fun a => (a.prog, a.addr)) = some [(0, 0x800000)] := ⟨_, rfl, by decide⟩
theorem test_saved : ∃ t, exec .contextSaveComplete written = .next t ∧ t.job = none ∧ t.saved.length = 1 ∧
    (t.host.compWait.map (·.kind)) = [4] := ⟨_, rfl, by decide, by decide, by decide⟩

/-- The saved context has been read back; `byte` is its first byte. -/
def resumed (byte : Byte) (bad : Option Nat) : State :=
  { calm with
    job := some savedJob.job, moving := some savedJob
    msd := { calm.msd with devReads := [{ key := .restore 0, left := 0, mem := [(0x800000, byte)], bad := bad }] } }

theorem resume_ready : shelved.mayStart = true ∧ shelved.nextWork = .again (1 : BitVec 2).toNat ∧
    (shelved.saved.find? fun v => decide (v.job.ring = (1 : BitVec 2).toNat)).isSome = true ∧
    savedJob.job.phase = .restoring ∧ savedJob.job.ring = 1 ∧ savedJob.job.reports = [] ∧
    (∀ e ∈ savedJob.folds, e.2.dr.xfers = [] ∧ e.2.dr.taps = [] ∧ ((resumed 0 none).fold e.1).dr.xfers = []) ∧
    (savedJob.folds.map (·.1)).Nodup ∧ wfMap Fold.init (resumed 0 none).folds = true ∧
    ((resumed 0 none).devRead (.restore 0)).map (fun d => (d.left, d.bad)) = some (0, none) ∧
    savedJob.job.seq = (9 : BitVec 64).toNat ∧ savedJob.job.seq ≠ (8 : BitVec 64).toNat := by decide
theorem resume_checks : (savedJob.areas.all fun a => decide (crc32c (peekRun memDefault [(0x800000, 0)] a.addr a.len) = a.crc)) = true ∧
    (savedJob.areas.all fun a => decide (crc32c (peekRun memDefault [(0x800000, 1)] a.addr a.len) = a.crc)) = false := by
  decide +kernel
theorem test_resume_begins : ∃ t, exec (.resume 1 9) shelved = .next t ∧ t.job.map (·.phase) = some .restoring ∧
    t.moving.isSome = true ∧ t.saved.length = 0 := ⟨_, rfl, by decide, by decide, by decide⟩
theorem test_resume : ∃ t, exec (.resume 1 9) (resumed 0 none) = .next t ∧ (t.fold 0).ex.run = .running ∧
    (t.host.compWait.map (·.kind)) = [5] ∧ t.moving = none :=
  ⟨_, rfl, by decide +kernel⟩
theorem test_resume_bad : ∃ t, exec (.resume 1 9) (resumed 1 none) = .next t ∧
    (t.job.map fun j => j.reports.map (·.code)) = some [0x42] ∧ (t.fold 0).ex.run = .stopped :=
  ⟨_, rfl, by decide +kernel⟩
theorem test_resume_lost : ∃ t, exec (.resume 1 9) (resumed 0 (some 0x800000)) = .next t ∧
    (t.job.map fun j => j.reports.map (·.code)) = some [0x53] := ⟨_, rfl, by decide⟩

/-- A report of code `c` of cycle 5 of fold 1. -/
def report (c : Nat) : FaultRep := { (busy fold0).rep 1 c engDrover 0 0 0 0 with cycle := 5 }

def faulted (l : List FaultRep) : State := { busy fold0 with job := some { job with reports := l } }

theorem fault_ready : wfMap Fold.init (faulted [report 0x42]).folds = true ∧ ({ job with reports := [report 0x42] } : Job).open_ = true := by
  decide

/-- Of two reports of one fold and cycle the lower code is recorded, and the other counted (R414, R415). -/
theorem test_abort : ∃ t, exec .abort (faulted [report 0x42, report 0x12]) = .next t ∧
    (t.job.map fun j => (j.phase, j.abort.map fun a => (a.1.code, a.2))) = some (.aborting, some (0x12, 1)) ∧
    (t.fold 0).sh.run = .halted := ⟨_, rfl, by decide, by decide⟩

/-- The abort of the job when nothing of it is left. -/
def aborted (fatal : Nat) : State :=
  let s := busy { fold0 with ex := { fold0.ex with run := .stopped } }
  { s with
    chip := { s.chip with fatal := fatal }
    folds := s.folds.map fun p => (p.1, { p.2 with ex := { p.2.ex with run := .stopped } })
    job := some { job with phase := .aborting, abort := some (report 0x12, 1) } }

theorem gone_ready (j : Job) (e : (aborted 0).job = some j) : workGone (aborted 0) j = true ∧ isHost j.hdr.records = false ∧
    (aborted 0).host.windows = [] ∧ (aborted 0).chip.fatal ≠ 4 := by
  cases e; decide
theorem test_abort_complete : ∃ t, exec .abortComplete (aborted 0) = .next t ∧ t.job = none ∧
    (t.host.compWait.map fun c => (c.kind, c.recptr)) = [(2, 0x4000)] := ⟨_, rfl, by decide, by decide⟩

/-- The fault code lies at bits 511:496 of the record (R416). -/
theorem test_fault_code : fld ((report 0x12).word 1) 496 16 = 0x12 := by decide +kernel
theorem test_abort_silent : ∃ t, exec .abortComplete (aborted 4) = .next t ∧ t.job = none ∧ t.host.compWait = [] ∧ t.msd.mem = [] :=
  ⟨_, rfl, by decide, by decide, by decide⟩

/-- A fold at a tapped stall point. -/
def tapHere : State := { yields Debug.init with job := some { job with taps := some (tapList 0x414B5450) } }

/-- The copy under way. -/
def copying (dest : Nat) : State :=
  let s := tapHere
  let x := s.fold 0
  let l := tapList 0x414B5450
  { s.setFold 0 { x with dr := { x.dr with tapping := some 0 }, sp := { x.sp with mem := putRun 0 [] 256 [5] } } with
    job := some { job with taps := some { l with ents := l.ents.map fun e => { e with dest := dest } } } }

theorem tap_due : tapDue tapHere (tapHere.fold 0) 0 = some 0 ∧ (tapHere.fold 0).executes = true ∧ (tapHere.fold 0).ex.issued = false ∧
    (tapHere.fold 0).late (tapHere.fold 0).ex.upTo = false ∧ atStall (tapHere.fold 0) = true ∧
    (tapHere.fold 0).ex.overdue = false ∧ (tapHere.fold 0).late 0 = false := by decide
theorem copy_ready : (copying 0x9000).beyond 0x9000 128 = false ∧ (copying 0x9000).beyond (2 ^ 40) 128 = true ∧
    verdictFaulted 0 (copying 0x9000) = false ∧ isHost (0x9000 + 64) = false := by decide
/-- A tap of tile 4, which is not in use. -/
def tapTile : State :=
  let l := tapList 0x414B5450
  { tapHere with job := some { job with taps := some { l with ents := l.ents.map fun e => { e with sk := true, tile := 4 } } } }

theorem test_tap_tile : ∃ t j, exec (.tapFire 0) tapTile = .next t ∧ t.job = some j ∧ j.reports.map (·.code) = [0x24] ∧
    (t.fold 0).ex.run = .stopped := ⟨_, _, rfl, rfl, by decide, by decide⟩
theorem test_tap : ∃ t, exec (.tapFire 0) tapHere = .next t ∧ (t.fold 0).dr.tapping = some 0 := ⟨_, rfl, by decide⟩
theorem test_tap_copy : ∃ t, exec (.tapCopyComplete ⟨0, true⟩) (copying 0x9000) = .next t ∧ (t.fold 0).dr.tapSent = true ∧
    (t.fold 0).dr.tapping = some 0 ∧
    ((t.port (portOf .F 0x9000)).dq.map fun q => (q.addr, q.data.length, q.data.take 1)) = [(0x9000, 64, [5]), (0x9040, 64, [0])] :=
  ⟨_, rfl, by decide, by decide, by decide +kernel⟩

/-- The copy has been written. -/
def copied : State :=
  let s := copying 0x9000
  s.setFold 0 { s.fold 0 with dr := { (s.fold 0).dr with tapSent := true } }

theorem copied_ready : copied.host.snoop = [] ∧ copied.holdsOut .jobOut = false ∧ (copied.fold 0).ex.run ≠ .idle := by decide
theorem test_tap_over : ∃ t, exec (.tapCopyComplete ⟨0, true⟩) copied = .next t ∧ (t.fold 0).dr.tapping = none := ⟨_, rfl, by decide⟩
theorem test_tap_beyond : ∃ t j, exec (.tapCopyComplete ⟨0, true⟩) (copying (2 ^ 40)) = .next t ∧ t.job = some j ∧
    j.reports.map (·.code) = [0x12] := ⟨_, _, rfl, rfl, by decide⟩

/-! ### The block as a whole -/

theorem test_front : step { calm with pending := [.droop 0, .ctlNop 0] } = exec (.droop 0) { calm with pending := [.ctlNop 0] } := rfl
theorem test_idle : ∃ t, step (busy fold0) = .next t ∧ t.pending = [] := ⟨_, rfl, by decide⟩
theorem reset_memories : State.reset.memWf = true := by decide

/-! ### Traces, loads and aborts: the clauses at their edges -/

/-- Three records were lost in the unit before its record, with `w` records in the buffer. -/
def lossy (w : BitVec 32) : State :=
  let s := traced w
  let x := s.fold 0
  s.setFold 0 { x with db := { x.db with recs := [lostRecord 3 0x77, 0x77] } }

theorem lossy_ready : fld (lostRecord 3 0x77).toNat 248 8 = 0x0C ∧ fld (lostRecord 3 0x77).toNat 0 32 = 3 ∧
    (lossy 1022).trace.room 2 = true ∧ (lossy 1023).trace.room 2 = false := by decide
theorem test_lost_records : ∃ t, exec (.traceBufferWrite 0) (lossy 1022) = .next t ∧ t.trace.widx = 1024 ∧
    (t.fold 0).db.recs = [] ∧ ((t.port (portOf .F 0x8FC0)).dq ++ (t.port (portOf .F 0x8FE0)).dq).length ≠ 0 := ⟨_, rfl, by decide, by decide, by decide⟩
theorem test_lost_again : ∃ t, exec (.traceBufferWrite 0) (lossy 1023) = .next t ∧ t.trace.widx = 1023 ∧
    (t.fold 0).db.lostB = 4 ∧ t.trace.lost = 1 := ⟨_, rfl, by decide, by decide, by decide⟩

/-- A section of host memory is loaded from a page that the table holds (R362). -/
def hostLoad : State :=
  let s := loadingJob 0
  { s with job := s.job.map fun j => { j with hdr := { j.hdr with image := 2 ^ 63 } } }

theorem host_load_waits : isHost (2 ^ 63) = true ∧ ∃ t, exec (.foldLoad 2) hostLoad = .next t ∧ (t.fold 2).ex.run = .loading ∧
    t.host.ats.length ≠ 0 := ⟨by decide, _, rfl, by decide, by decide⟩

/-- The tally units disagree on a copy (R181). -/
theorem test_tap_tally : ∃ t j, exec (.tapCopyComplete ⟨0, false⟩) (copying 0x9000) = .next t ∧ t.job = some j ∧
    j.reports.map (·.code) = [0x42] := ⟨_, _, rfl, rfl, by decide⟩

/-- The abort gives up the job's translation requests and keeps the device's own (R362, R410). -/
theorem test_abort_asks : ∃ t, exec .abort { faulted [report 0x42] with
      host := { (faulted [report 0x42]).host with ats := [(1, false, 0, 3), (2, false, 0, 67)] } } = .next t ∧
    (t.host.ats.map fun e => e.2.2.2) = [67] := ⟨_, rfl, by decide⟩

end Sys2Proof.Tests
end

section
/-! Which queue a select serves (R54, R290, R291), and where the rotation pointers stand at job start. -/
namespace Sys2Proof.Machine

/-! ### The order of a select -/

/-- All queues in the order a select looks at them: by number, or from RP + 1 on (R290). -/
def selScan (e : Exec) (rot : Bool) : List Nat :=
  if rot then (List.range 16).map fun i => (e.rp + 1 + i) % 16 else List.range 16

theorem selOrder_eq_filter (e : Exec) (rot : Bool) (set : BitVec 16) :
    selOrder e rot set = (selScan e rot).filter fun q => set.getLsbD q := rfl

theorem mem_selScan (e : Exec) (rot : Bool) (q : Nat) : q ∈ selScan e rot ↔ q < 16 := by
  cases rot with
  | false => simp [selScan]
  | true =>
    simp only [selScan, if_true, List.mem_map, List.mem_range]
    constructor
    · rintro ⟨i, -, rfl⟩
      exact Nat.mod_lt _ (by decide)
    · intro hq
      exact ⟨(q + 15 * (e.rp + 1)) % 16, by omega, by omega⟩

theorem find?_selScan_byNumber (e : Exec) (p : Nat → Bool) (q : Nat) :
    (selScan e false).find? p = some q ↔ q < 16 ∧ p q = true ∧ ∀ k < q, p k = false := by
  simp [selScan, List.find?_range_eq_some, and_left_comm]

theorem find?_selScan_rotating (e : Exec) (p : Nat → Bool) (q : Nat) :
    (selScan e true).find? p = some q ↔
      ∃ i < 16, q = (e.rp + 1 + i) % 16 ∧ p q = true ∧ ∀ k < i, p ((e.rp + 1 + k) % 16) = false := by
  simp only [selScan, if_true, List.find?_map, Option.map_eq_some_iff, List.find?_range_eq_some, List.mem_range,
    Function.comp_apply, Bool.not_eq_true']
  constructor
  · rintro ⟨i, ⟨hp, hi, hfirst⟩, rfl⟩
    exact ⟨i, hi, rfl, hp, hfirst⟩
  · rintro ⟨i, hi, rfl, hp, hfirst⟩
    exact ⟨i, ⟨hp, hi, hfirst⟩, rfl⟩

/-! ### The choice -/

theorem selChoice_fullSail (ord rot : Bool) (set : BitVec 16) (x : Fold) :
    selChoice false ord rot set x = (selScan x.ex rot).find? fun q => set.getLsbD q && x.holds q := by
  simp [selChoice, selOrder_eq_filter, List.find?_filter]

theorem selChoice_reefed (rot : Bool) (set : BitVec 16) (x : Fold) :
    selChoice true false rot set x = ((selScan x.ex rot).find? fun q => set.getLsbD q).filter x.holds := by
  simp [selChoice, selOrder_eq_filter, List.head?_filter]

theorem selChoice_fullSail_byNumber (ord : Bool) (set : BitVec 16) (x : Fold) (q : Nat) :
    selChoice false ord false set x = some q ↔
      q < 16 ∧ set.getLsbD q = true ∧ x.holds q = true ∧ ∀ p < q, set.getLsbD p = true → x.holds p = false := by
  simp [selChoice_fullSail, find?_selScan_byNumber, and_assoc]

theorem selChoice_fullSail_rotating (ord : Bool) (set : BitVec 16) (x : Fold) (q : Nat) :
    selChoice false ord true set x = some q ↔
      ∃ i < 16, q = (x.ex.rp + 1 + i) % 16 ∧ set.getLsbD q = true ∧ x.holds q = true ∧
        ∀ k < i, set.getLsbD ((x.ex.rp + 1 + k) % 16) = true → x.holds ((x.ex.rp + 1 + k) % 16) = false := by
  simp [selChoice_fullSail, find?_selScan_rotating, and_assoc]

theorem selChoice_fullSail_waits (ord rot : Bool) (set : BitVec 16) (x : Fold) :
    selChoice false ord rot set x = none ↔ ∀ q < 16, set.getLsbD q = true → x.holds q = false := by
  simp [selChoice_fullSail, List.find?_eq_none, mem_selScan]

theorem selChoice_reefed_byNumber (set : BitVec 16) (x : Fold) (q : Nat) :
    selChoice true false false set x = some q ↔
      q < 16 ∧ set.getLsbD q = true ∧ x.holds q = true ∧ ∀ p < q, set.getLsbD p = false := by
  rw [selChoice_reefed, Option.filter_eq_some_iff, find?_selScan_byNumber]
  constructor
  · rintro ⟨⟨hq, hset, hfirst⟩, hholds⟩
    exact ⟨hq, hset, hholds, hfirst⟩
  · rintro ⟨hq, hset, hholds, hfirst⟩
    exact ⟨⟨hq, hset, hfirst⟩, hholds⟩

theorem selChoice_reefed_rotating (set : BitVec 16) (x : Fold) (q : Nat) :
    selChoice true false true set x = some q ↔
      ∃ i < 16, q = (x.ex.rp + 1 + i) % 16 ∧ set.getLsbD q = true ∧ x.holds q = true ∧
        ∀ k < i, set.getLsbD ((x.ex.rp + 1 + k) % 16) = false := by
  rw [selChoice_reefed, Option.filter_eq_some_iff, find?_selScan_rotating]
  constructor
  · rintro ⟨⟨i, hi, hq, hset, hfirst⟩, hholds⟩
    exact ⟨i, hi, hq, hset, hholds, hfirst⟩
  · rintro ⟨i, hi, hq, hset, hholds, hfirst⟩
    exact ⟨⟨i, hi, hq, hset, hfirst⟩, hholds⟩

theorem bitOf_toNat (b : BitVec 16) (i : Nat) : bitOf b.toNat i = b.getLsbD i := by
  rw [← BitVec.testBit_toNat, Nat.testBit_eq_decide_div_mod_eq]
  rfl

/-- A set that is not empty and whose queues the region table holds raises no fault (R291). -/
theorem selBad_none {set : BitVec 16} {x : Fold} (hset : set ≠ 0)
    (hq : ∀ i < 16, set.getLsbD i = true → (x.qent i).lines ≠ 0) : selBad set x = none := by
  unfold selBad
  rw [if_neg hset, List.findSome?_eq_none_iff]
  intro i hi
  simp only [setBits, List.mem_filter, List.mem_range, bitOf_toNat] at hi
  simp [queueBad, hq i hi.1 hi.2]

/-! ### The issue -/

/-- The declaration of a bundle that is ready covers its products after the issue too (R62). -/
theorem powerCheck_plain {s v : State} {f n : Nat} {i : Instr} {on : Option WaitOn} (h : Ready s f i on)
    (hv : Plain (s.fold f) (v.fold f, n)) : powerCheck f v = v := by
  obtain ⟨_, hpwr, hactive, hcycle⟩ := hv
  apply powerCheck_ok
  have hpower := h.power
  simp only [Exec.overPower, Exec.govern, Fold.nextWord] at hpower hpwr ⊢
  rw [hpwr, hactive, hcycle]
  exact hpower

theorem plain_of_untraced {x y z : Fold} {n : Nat} (e : y.untraced = z.untraced) (h : Plain x (z, n)) :
    Plain x (y, n) := by
  unfold Plain at h ⊢
  rw [untraced_ex e]
  exact h

/-- A ready stall point in the qp slot: its fold has passed the bundle when `take` acts, and nothing follows `take`, which may
act on more than its fold. -/
theorem qpStall_takes {s : State} {f : Nat} {i : Instr} {on : WaitOn} (h : Ready s f i (some on))
    {bad : State → Fold → Option (Nat × Nat × Nat)} {holds : State → Fold → Bool} {take : State → Fold → State × Nat}
    (hb : bad s (s.fold f) = none) (hh : holds s (s.fold f) = true)
    (ht : ∀ t, Others s t f → (t.fold f).untraced = ((s.fold f).passesQp (tapped s (s.fold f) (s.fold f).ex.nextBundle)).untraced →
      Plain (s.fold f) ((take t (t.fold f)).1.fold f, 0)) :
    ∃ t, Others s t f ∧
      (t.fold f).untraced = ((s.fold f).passesQp (tapped s (s.fold f) (s.fold f).ex.nextBundle)).untraced ∧
      stallIssue s f false on i bad holds take = (take t (t.fold f)).1.setFold f ((take t (t.fold f)).1.fold f) := by
  generalize hY : (s.fold f).passesQp (tapped s (s.fold f) (s.fold f).ex.nextBundle) = Y at ht ⊢
  have hYi : Y ≠ Fold.init := ne_init_of_issued (by rw [← hY]; rfl)
  obtain ⟨hothers, hfold⟩ := endWait_others (s.setFold f Y) f (s.fold f).ex.wait
  rw [fold_setFold_same s f hYi] at hfold
  have hall := (others_setFold s f Y).trans hothers
  refine ⟨_, hall, hfold, ?_⟩
  have hplain := ht _ hall hfold
  rw [stallIssue_ready h false bad holds take hb hh, ← powerCheck_plain (n := 0) h
    (v := State.setFold _ f _) (by rwa [fold_setFold_same _ _ (ne_init_of_issued hplain.1)]), ← hY]
  rfl

/-- What a select changes of the execute engine: the rotation pointer, the select mask and the mark of a reduction out of
order (R54, R290). -/
theorem selTake_frame (ord rot : Bool) (q : Nat) (e : Exec) :
    ∃ rp m o, selTake ord rot q e = { e with rp := rp, selMask := m, ooo := o } := by
  cases ord <;> cases rot <;> exact ⟨_, _, _, rfl⟩

/-- Fold `x` once its select has served queue `q`. -/
def Fold.selServed (ord rot : Bool) (q : Nat) (x : Fold) : Fold :=
  ({ x with ex := selTake ord rot q x.ex } : Fold).selLater q

theorem untraced_selServed {x y : Fold} (h : x.untraced = y.untraced) (ord rot : Bool) (q : Nat) :
    (x.selServed ord rot q).untraced = (y.selServed ord rot q).untraced :=
  congrArg (Fold.selServed ord rot q) h

theorem selServed_eq (ord rot : Bool) (q : Nat) (x : Fold) :
    x.selServed ord rot q = { x with ex := { selTake ord rot q x.ex with
      due := addDue (x.ex.dueAt false rankQp 1 (.selres (BitVec.ofNat 4 q))) x.ex.due } } := by
  obtain ⟨rp, m, o, e⟩ := selTake_frame ord rot q x.ex
  simp only [Fold.selServed, Fold.selLater, Exec.addDue, Exec.dueAt, e]

theorem plain_selServed {x y : Fold} {n : Nat} (ord rot : Bool) (q : Nat) (h : Plain x (y, n)) :
    Plain x (y.selServed ord rot q, n) := by
  obtain ⟨rp, m, o, e⟩ := selTake_frame ord rot q y.ex
  unfold Plain at h ⊢
  rw [selServed_eq, e]
  exact h

/-- The choice reads the rotation pointer, and the queues as the slots of the bundle at issue find them. -/
theorem selChoice_congr {x y : Fold} (hrp : x.ex.rp = y.ex.rp) (hholds : x.holds = y.holds) (reefed ord rot : Bool)
    (set : BitVec 16) : selChoice reefed ord rot set x = selChoice reefed ord rot set y := by
  simp only [selChoice, selOrder, hrp, hholds]

theorem selChoice_passesQp (x : Fold) (tap reefed ord rot : Bool) (set : BitVec 16) :
    selChoice reefed ord rot set (x.passesQp tap) = selChoice reefed ord rot set x :=
  selChoice_congr rfl rfl reefed ord rot set

theorem selChoice_untraced {x y : Fold} (h : x.untraced = y.untraced) (reefed ord rot : Bool) (set : BitVec 16) :
    selChoice reefed ord rot set x = selChoice reefed ord rot set y :=
  selChoice_congr (congrArg (fun z : Fold => z.ex.rp) h) (congrArg Fold.holds h) reefed ord rot set

theorem selGleans_untraced {x y : Fold} (h : x.untraced = y.untraced) (reefed ord : Bool) (q : Nat) :
    selGleans reefed ord q x.ex = selGleans reefed ord q y.ex := by
  rw [untraced_ex h]

/-- The state after a select that has served queue `q`; `gleans` counts it in the glean counter. -/
def State.selServed (s : State) (f : Nat) (ord rot gleans : Bool) (q : Nat) : State :=
  let t := s.setFold f ((s.fold f).selServed ord rot q)
  if gleans then t.glean else t

theorem selServed_fold_same (s : State) (f : Nat) (ord rot gleans : Bool) (q : Nat) (h : (s.fold f).ex.issued = true) :
    (s.selServed f ord rot gleans q).fold f = (s.fold f).selServed ord rot q := by
  have hissued : ((s.fold f).selServed ord rot q).ex.issued = true := by
    obtain ⟨rp, m, o, e⟩ := selTake_frame ord rot q (s.fold f).ex
    rw [selServed_eq, e]
    exact h
  rw [← fold_setFold_same s f (ne_init_of_issued hissued)]
  cases gleans <;> rfl

theorem selServed_fold_other (s : State) (f : Nat) (ord rot gleans : Bool) (q : Nat) {g : Nat} (h : g ≠ f) :
    (s.selServed f ord rot gleans q).fold g = s.fold g := by
  rw [← fold_setFold_other s ((s.fold f).selServed ord rot q) h]
  cases gleans <;> rfl

theorem selServed_job (s : State) (f : Nat) (ord rot gleans : Bool) (q : Nat) {j : Job} (h : s.job = some j) :
    (s.selServed f ord rot gleans q).job = some (if gleans then { j with glean := satAdd 32 j.glean 1 } else j) := by
  cases gleans <;> simp [State.selServed, State.glean, h]

theorem reefed_of_job {s : State} {j : Job} (h : s.job = some j) : s.reefed = j.reefed := by
  simp [State.reefed, h]

/-- What q.sel does with state `s` and its fold `x` once it has issued. -/
def takeSel (f : Nat) (ord rot : Bool) (set : BitVec 16) (s : State) (x : Fold) : State × Nat :=
  match selChoice s.reefed ord rot set x with
  | none => (s, 0)
  | some q =>
    let t := s.setFold f (x.selServed ord rot q)
    (if selGleans s.reefed ord q x.ex then t.glean else t, 0)

theorem execQSel_eq_takeSel (f : FoldId) (ms ord rot : Bool) (mask : BitVec 16) (s : State) :
    execQSel f ms ord rot mask s =
      (let set := selSet (s.fold f.toNat).ex ms mask
       whileClocked s (stallIssue s f.toNat false (.sel set) (.qSel f ms ord rot mask) (fun _ x => selBad set x)
         (fun s x => (selChoice s.reefed ord rot set x).isSome) (takeSel f.toNat ord rot set))) := rfl

theorem takeSel_serves {t : State} {y : Fold} {f : Nat} {reefed ord rot : Bool} {set : BitVec 16} {q : Nat}
    (hr : t.reefed = reefed) (hy : (t.fold f).untraced = y.untraced) (hq : selChoice reefed ord rot set y = some q) :
    takeSel f ord rot set t (t.fold f) = (t.selServed f ord rot (selGleans reefed ord q y.ex) q, 0) := by
  simp only [takeSel, hr, selChoice_untraced hy, hq, selGleans_untraced hy]
  rfl

/-- A select that is ready and whose choice is queue `q` serves it (R54, R290). -/
theorem stallIssue_sel_serves {s : State} {f : Nat} {i : Instr} {ord rot : Bool} {set : BitVec 16} {q : Nat} {j : Job}
    (hj : s.job = some j) (hready : Ready s f i (some (.sel set))) (hbad : selBad set (s.fold f) = none)
    (hq : selChoice j.reefed ord rot set (s.fold f) = some q) :
    let t := stallIssue s f false (.sel set) i (fun _ x => selBad set x)
      (fun s x => (selChoice s.reefed ord rot set x).isSome) (takeSel f ord rot set)
    (t.fold f).untraced =
        (((s.fold f).passesQp (tapped s (s.fold f) (s.fold f).ex.nextBundle)).selServed ord rot q).untraced ∧
      t.job = some (if selGleans j.reefed ord q (s.fold f).ex then { j with glean := satAdd 32 j.glean 1 } else j) ∧
      ∀ g, g ≠ f → t.fold g = s.fold g := by
  generalize hY : (s.fold f).passesQp (tapped s (s.fold f) (s.fold f).ex.nextBundle) = Y
  have hplain : Plain (s.fold f) (Y, 0) := by rw [← hY]; exact ⟨rfl, rfl, rfl, rfl⟩
  have hqY : selChoice j.reefed ord rot set Y = some q := by rw [← hY, selChoice_passesQp]; exact hq
  have htake {t : State} (ho : Others s t f) (ht : (t.fold f).untraced = Y.untraced) :
      takeSel f ord rot set t (t.fold f) = (t.selServed f ord rot (selGleans j.reefed ord q Y.ex) q, 0) :=
    takeSel_serves (reefed_of_job (ho.job.trans hj)) ht hqY
  have hserved {t : State} (b : Bool) (ht : (t.fold f).untraced = Y.untraced) :
      (t.selServed f ord rot b q).fold f = (t.fold f).selServed ord rot q :=
    selServed_fold_same t f ord rot b q (plain_of_untraced ht hplain).1
  have hafter {t : State} (ht : (t.fold f).untraced = Y.untraced) :
      Plain (s.fold f) ((t.fold f).selServed ord rot q, 0) :=
    plain_selServed ord rot q (plain_of_untraced ht hplain)
  obtain ⟨t, ho, ht, hissue⟩ := qpStall_takes hready (take := takeSel f ord rot set)
    (bad := fun _ x => selBad set x) (holds := fun s x => (selChoice s.reefed ord rot set x).isSome) hbad
    (by simp [reefed_of_job hj, hq])
    (fun t ho ht => by
      rw [hY] at ht
      rw [htake ho ht, hserved _ ht]
      exact hafter ht)
  rw [hY] at ht
  simp only [hissue, htake ho ht, hserved _ ht]
  refine ⟨?_, ?_, fun g hg => ?_⟩
  · rw [fold_setFold_same _ _ (ne_init_of_issued (hafter ht).1)]
    exact untraced_selServed ht ord rot q
  · rw [setFold_job, selServed_job t f ord rot _ q (ho.job.trans hj), ← hY]
    rfl
  · rw [fold_setFold_other _ _ hg, selServed_fold_other t f ord rot _ q hg, ho.folds g hg]

theorem selServed_passesQp (x : Fold) (tap ord rot : Bool) (q : Nat) :
    (x.passesQp tap).selServed ord rot q =
      { x.passesQp tap with ex := { selTake ord rot q (x.passesQp tap).ex with
          due := addDue { cycle := x.ex.cycle + 1, read := false, issue := x.ex.cycle, slot := rankQp,
                          tag := bundleTag x.nextWord, baddr := x.ex.nextBundle, op := .selres (BitVec.ofNat 4 q) }
            x.ex.due } } := by
  rw [selServed_eq]
  rfl

/-! ### The rotation pointer at job start -/

/-- Every fold of the job has its rotation pointer at 15 (R290). -/
def State.PointersAt15 (s : State) : Prop := ∀ j, s.job = some j → ∀ f ∈ j.places, (s.fold f).ex.rp = 15

theorem pointersAt15_of_noJob {s : State} (h : s.job = none) : s.PointersAt15 := by
  intro j hj
  rw [h] at hj
  cases hj

theorem pointersAt15_readsAs {s : State} (h : s.PointersAt15) (p : Option Nat) : (s.readsAs p).PointersAt15 := h

/-- A fault report changes neither the folds nor which of them the job has. -/
theorem pointersAt15_raise {s : State} (h : s.PointersAt15) (r : FaultRep) : (raise r s).PointersAt15 := by
  unfold raise
  split
  · next j hj =>
    split
    · intro k hk
      cases hk
      exact h j hj
    · exact h
  · exact h

theorem pointersAt15_loseTaps {s : State} (h : s.PointersAt15) (bad : Option Nat) : (loseTaps bad s).PointersAt15 := by
  cases bad with
  | none => exact h
  | some a => exact pointersAt15_raise h _

theorem flushRuns_only (p : DbgRun → Bool) (s : State) : LogOnly s (flushRuns p s) := by
  refine List.foldlRecOn (motive := LogOnly s) _ _ ⟨rfl, rfl, rfl, rfl, rfl, rfl, rfl, rfl, rfl, rfl, rfl, rfl⟩ ?_
  intro t ht r _
  have hfree : LogOnly t { t with freeCtr := t.freeCtr + 1 } := ⟨rfl, rfl, rfl, rfl, rfl, rfl, rfl, rfl, rfl, rfl, rfl, rfl⟩
  exact (ht.trans hfree).trans (logEntry_only _ _ _ _)

theorem keepStretched_folds (f : Nat) (s : State) : (keepStretched f s).folds = s.folds := by
  unfold keepStretched
  dsimp only
  split
  · rfl
  · exact (logStick_only _ _ _).folds

theorem keepStretched_job (f : Nat) (s : State) : (keepStretched f s).job = s.job := by
  unfold keepStretched
  dsimp only
  split
  · rfl
  · exact (logStick_only _ _ _).job

theorem beginLoad_job (p f : Nat) (s : State) : (beginLoad p f s).job = s.job :=
  (flushRuns_only _ _).job.trans (keepStretched_job f s)

theorem beginLoad_rp_same (p f : Nat) (s : State) : ((beginLoad p f s).fold f).ex.rp = 15 := by
  unfold beginLoad
  rw [fold_setFold_same _ _ (ne_init_of_run (r := .loading) rfl (by decide))]
  rfl

theorem beginLoad_fold_other (p : Nat) {f g : Nat} (s : State) (h : g ≠ f) : (beginLoad p f s).fold g = s.fold g := by
  unfold beginLoad
  rw [fold_setFold_other _ _ h, (flushRuns_only _ _).fold, State.fold, keepStretched_folds]
  rfl

theorem beginLoads_job (l : List (Nat × Nat)) (s : State) : (l.foldl (fun t e => beginLoad e.1 e.2 t) s).job = s.job :=
  List.foldlRecOn (motive := fun t : State => t.job = s.job) l _ rfl fun _ ht e _ => (beginLoad_job e.1 e.2 _).trans ht

/-- Once the loads of `l` have begun, its folds have their pointers at 15, like those that had them there before. -/
theorem beginLoads_rp (l : List (Nat × Nat)) (s : State) (f : Nat) (h : f ∈ l.map Prod.snd ∨ (s.fold f).ex.rp = 15) :
    ((l.foldl (fun t e => beginLoad e.1 e.2 t) s).fold f).ex.rp = 15 := by
  induction l generalizing s with
  | nil => simpa using h
  | cons e l ih =>
    apply ih
    by_cases he : f = e.2
    · right
      rw [he]
      exact beginLoad_rp_same e.1 e.2 s
    · rw [beginLoad_fold_other e.1 s he]
      simpa [he] using h

theorem enumFrom_map_snd {α : Type} (i : Nat) (l : List α) : (enumFrom i l).map Prod.snd = l := by
  induction l generalizing i with
  | nil => rfl
  | cons a l ih => simp [enumFrom, ih]

theorem acceptJob_pointersAt15 (ring : Nat) (x : JobIn) (p : ProgHdr) (s : State) : (acceptJob ring x p s).PointersAt15 := by
  intro j hj f hf
  unfold acceptJob at hj ⊢
  rw [beginLoads_job] at hj
  cases hj
  exact beginLoads_rp _ _ f (.inl (by rw [enumFrom_map_snd]; exact hf))

theorem needPage_job (f t a : Nat) (wr : Bool) (s : State) : (needPage f t a wr s).job = s.job := by
  unfold needPage
  dsimp only
  split <;> split <;> rfl

theorem askPages_job (slot : Nat) (l : List (Nat × Nat × Bool)) (s : State) : (s.askPages slot l).job = s.job := by
  refine List.foldlRecOn (motive := fun t : State => t.job = s.job) l _ rfl fun t ht e _ => ?_
  refine List.foldlRecOn (motive := fun t : State => t.job = s.job) _ _ ht fun u hu a _ => ?_
  split
  · exact hu
  · exact (needPage_job _ _ _ _ _).trans hu

theorem readFor_job (k : DevKey) (ranges : List (Nat × Nat)) (s : State) : (s.readFor k ranges).job = s.job :=
  List.foldlRecOn (motive := fun t : State => t.job = s.job) _ _ rfl fun _ ht _ _ => ht

@[simp] theorem startAsk_job (l : List OwnRead) (s : State) : (s.startAsk l).job = s.job := by
  refine List.foldlRecOn (motive := fun t : State => t.job = s.job) l _ (askPages_job ownSlot l s) fun t ht r _ => ?_
  split
  · exact ht
  · exact (readFor_job _ _ _).trans ht

@[simp] theorem readsAs_job (s : State) (p : Option Nat) : (s.readsAs p).job = s.job := rfl
@[simp] theorem dropStart_job (s : State) : s.dropStart.job = s.job := rfl
@[simp] theorem takeHead_job (ring : Nat) (s : State) : (takeHead ring s).job = s.job := rfl

@[simp] theorem reject_job (ring reason : Nat) (x : JobIn) (s : State) : (reject ring reason x s).job = s.job :=
  (setStatus_only bitFault { s with freeCtr := s.freeCtr + 5 }).job

/-- The start of a job that an idle device begins, rejects or leaves waiting: only a job that begins has folds. -/
theorem startJob_pointersAt15 (p : Nat) (d : JobHdr × SubBlk) (desc : Bool) (said : JobReads) {s : State}
    (h : s.job = none) : (startJob p d desc said s).PointersAt15 := by
  unfold startJob
  have hu := (readsAs_job s (if d.2.pv then some d.2.pasid else none)).trans h
  generalize s.readsAs (if d.2.pv then some d.2.pasid else none) = u at hu ⊢
  dsimp only
  split
  · exact pointersAt15_of_noJob (by simp [hu])
  · split
    case h_1 => exact pointersAt15_of_noJob (by simp [hu])
    case h_2 => exact pointersAt15_readsAs (pointersAt15_loseTaps (acceptJob_pointersAt15 _ _ _ _) _) none
    case h_3 => exact pointersAt15_of_noJob (by simp [hu])

/-- JOB_START of an idle device leaves the rotation pointers of the job's folds at 15 (R290). -/
theorem execJobStart_pointersAt15 {s t : State} {bad : JobReads} (h : s.job = none) (ht : execJobStart bad s = .next t) :
    t.PointersAt15 := by
  unfold execJobStart at ht
  rw [whileClocked] at ht
  cases ht
  have hidle : s.PointersAt15 := pointersAt15_of_noJob h
  split
  case isFalse => exact hidle
  split
  case isTrue => exact hidle
  split
  case h_2 => exact hidle
  dsimp only
  split
  · exact pointersAt15_of_noJob (by simp [h])
  · exact startJob_pointersAt15 _ _ _ _ h

/-! ### The statement -/

/-- Settles O7: a ready select serves its choice, the choice is a search of the queues in scan order, and the loads of a job's
start leave the pointers at their reset value. -/
theorem selectsServe : Obligations.SelectsServe := by
  unfold Obligations.SelectsServe
  refine ⟨?_, ?_, fun _ _ => ⟨rfl, rfl⟩, ?_⟩
  · intro s f ms ord rot mask q j hc x set y z result hj hready hset hlines hq
    obtain ⟨hfold, hjob, hothers⟩ := stallIssue_sel_serves hj hready (selBad_none hset hlines) hq
    refine ⟨_, (execQSel_eq_takeSel f ms ord rot mask s).trans (whileClocked_running hc _), ?_, hjob, hothers⟩
    exact hfold.trans (congrArg Fold.untraced (selServed_passesQp x _ ord rot q))
  · intro x set ord
    exact ⟨selChoice_fullSail_byNumber ord set x, selChoice_fullSail_rotating ord set x,
      fun rot => selChoice_fullSail_waits ord rot set x, selChoice_reefed_byNumber set x, selChoice_reefed_rotating set x⟩
  · intro s t bad j hnone ht hj
    exact execJobStart_pointersAt15 hnone ht j hj

end Sys2Proof.Machine
end

section
/-! The window of path H (R387, R392-R396): what one aligned access of eight bytes does to its register, to the slot and to the
state, and how STATUS_CLEAR reaches its entry (R404). -/
namespace Sys2Proof.Machine

/-! ### Bytes of a data word -/

theorem leNat_leBytes (n x : Nat) : leNat (leBytes n x) = x % 256 ^ n := by
  induction n generalizing x with
  | zero => simp [leBytes, leNat, Nat.mod_one]
  | succ n ih =>
    have hmod : x % 256 ^ (n + 1) = x % 256 + 256 * (x / 256 % 256 ^ n) := by rw [Nat.pow_succ', Nat.mod_mul]
    rw [leBytes, leNat, ih, BitVec.toNat_ofNat, hmod]

theorem leNat_leBytes_word (v : DWord) : leNat (leBytes 8 v.toNat) = v.toNat := by
  rw [leNat_leBytes]
  exact Nat.mod_eq_of_lt v.isLt

theorem mem_enumFrom {α : Type} {i : Nat} {l : List α} {e : Nat × α} (h : e ∈ enumFrom i l) : i ≤ e.1 ∧ e.1 < i + l.length := by
  induction l generalizing i with
  | nil => cases h
  | cons a l ih =>
    rw [List.length_cons]
    rcases List.mem_cons.mp h with rfl | h
    · exact ⟨Nat.le_refl _, by omega⟩
    · have := ih h
      omega

theorem enumFrom_sub {α : Type} (k i : Nat) (l : List α) :
    (enumFrom (k + i) l).map (fun e => (e.1 - k, e.2)) = enumFrom i l := by
  induction l generalizing i with
  | nil => rfl
  | cons a l ih => simp only [enumFrom, List.map_cons, Nat.add_sub_cancel_left, Nat.add_assoc, ih]

/-- Writing the elements of a list at its positions leaves that list. -/
theorem foldl_setNth_enumFrom {α : Type} (done old l : List α) (h : old.length = l.length) :
    (enumFrom done.length l).foldl (fun m e => setNth m e.1 e.2) (done ++ old) = done ++ l := by
  induction l generalizing done old with
  | nil => simp [enumFrom, List.eq_nil_of_length_eq_zero h]
  | cons a l ih =>
    obtain ⟨b, old, rfl⟩ := List.exists_cons_of_length_eq_add_one h
    have hset : setNth (done ++ b :: old) done.length a = (done ++ [a]) ++ old := by simp [setNth]
    have hlen : done.length + 1 = (done ++ [a]).length := by simp
    rw [enumFrom, List.foldl_cons, hset, hlen, ih _ _ (by simpa using h), List.append_assoc]
    rfl

/-! ### What a write carries for a register -/

theorem carried_whole {o : Nat} {data : List Byte} (h : data.length ≤ 8) : carried o data o = enumFrom 0 data := by
  have hall : ∀ e ∈ enumFrom o data, (decide (o ≤ e.1) && decide (e.1 < o + 8)) = true := fun e he => by
    have := mem_enumFrom he
    simp only [Bool.and_eq_true, decide_eq_true_eq]
    omega
  rw [carried, List.filter_eq_self.mpr hall]
  exact enumFrom_sub o 0 data

theorem carried_beyond {o a : Nat} {data : List Byte} (h : o + data.length ≤ a) : carried o data a = [] := by
  have hnone : ∀ e ∈ enumFrom o data, ¬(decide (a ≤ e.1) && decide (e.1 < a + 8)) = true := fun e he => by
    have := mem_enumFrom he
    simp only [Bool.and_eq_true, decide_eq_true_eq]
    omega
  rw [carried, List.filter_eq_nil_iff.mpr hnone, List.map_nil]

theorem writeReg_beyond {o a : Nat} {data : List Byte} (s : State) (h : o + data.length ≤ a) : writeReg o data s a = s := by
  simp [writeReg, carried_beyond h]

/-- A write of one aligned word reaches one register (R392). -/
theorem execDictWrite_word {s : State} {o : BitVec 24} {data : List Byte} (hc : s.clocked = true) (hup : s.chip.cxlUp = true)
    (hd : data.length = 8) (ho : o.toNat % 8 = 0) :
    execDictWrite o data s = .next (writeReg o.toNat data s o.toNat) := by
  have hbase : o.toNat / 8 * 8 = o.toNat := by omega
  rw [execDictWrite, whileClocked_running hc, if_pos hup, hd, hbase]
  change Host.Outcome.next (writeReg _ data (writeReg _ data (writeReg _ data s (o.toNat + 8 * 0)) (o.toNat + 8 * 1))
    (o.toNat + 8 * 2)) = _
  rw [writeReg_beyond _ (by omega), writeReg_beyond _ (by omega), Nat.mul_zero, Nat.add_zero]

/-! ### The registers of the window, written -/

theorem writeReg_outside {o a : Nat} (data : List Byte) (s : State) (h : a < 0x1000 ∨ 0x3000 ≤ a) : writeReg o data s a = s := by
  rcases h with h | h <;> simp [writeReg, h]

theorem slot_of_register {n k : Nat} (hk : k < 32) :
    (0x1000 + 32 * n + k - 0x1000) / 32 = n ∧ (0x1000 + 32 * n + k) % 32 = k := by omega

/-- What a whole word carries for its register is not empty. -/
theorem enumFrom_isEmpty {data : List Byte} (hd : data.length = 8) : (enumFrom 0 data).isEmpty = false := by
  obtain ⟨b, l, rfl⟩ := List.exists_cons_of_length_eq_add_one hd
  rfl

/-- A write of a whole word to the register at offset `k` of slot `n` (R392, R395). -/
def writeField (n k : Nat) (v : DWord) (s : State) : State :=
  match k with
  | 0 => writeSel n v s
  | 8 => writeData n v s
  | _ => s

theorem writeReg_slot {n k : Nat} {data : List Byte} (s : State) (hn : n < 256) (hk : k < 32) (hd : data.length = 8) :
    writeReg (0x1000 + 32 * n + k) data s (0x1000 + 32 * n + k) = writeField n k (BitVec.ofNat 64 (leNat data)) s := by
  have hin : ¬(0x1000 + 32 * n + k < 0x1000 ∨ 0x3000 ≤ 0x1000 + 32 * n + k) := by omega
  obtain ⟨hslot, hreg⟩ := slot_of_register (n := n) hk
  have hbytes : (enumFrom 0 data).map (·.2) = data := enumFrom_map_snd 0 data
  have hlen : (enumFrom 0 data).length = 8 := by rw [← List.length_map (·.2), hbytes, hd]
  have hall := foldl_setNth_enumFrom [] (leBytes 8 (s.slotOf n).sel.toNat) data hd.symm
  rw [List.length_nil, List.nil_append, List.nil_append] at hall
  simp only [writeReg, carried_whole (Nat.le_of_eq hd), enumFrom_isEmpty hd, Bool.or_false, Bool.or_eq_true, decide_eq_true_eq, hin, hslot,
    hreg, hall, hlen, hbytes, if_false, if_true]
  rfl

/-- A write of one whole register of a slot (R392, R395). -/
theorem execDictWrite_slot {s : State} {o : BitVec 24} {n k : Nat} {data : List Byte} (hc : s.clocked = true)
    (hup : s.chip.cxlUp = true) (hn : n < 256) (hd : data.length = 8) (ho : o.toNat = 0x1000 + 32 * n + k) (hk : k < 32)
    (h8 : k % 8 = 0) :
    execDictWrite o data s = .next (writeField n k (BitVec.ofNat 64 (leNat data)) s) := by
  rw [execDictWrite_word hc hup hd (by omega), ho, writeReg_slot s hn hk hd]

/-! ### The registers of the window, read -/

/-- The state once a read of the window has returned `l`. -/
def State.returns (s : State) (l : List Byte) : State := { s with dict := { s.dict with winOut := l } }

/-- A read of one aligned word reads one register (R392). -/
theorem execDictRead_word {s : State} {o : Nat} (hc : s.clocked = true) (hup : s.chip.cxlUp = true) (ho : o < 2 ^ 24)
    (h8 : o % 8 = 0) :
    execDictRead ⟨BitVec.ofNat 24 o, 8⟩ s =
      .next ((readReg false s o).2.returns ((readReg false s o).1.take 8)) := by
  have hoff : (BitVec.ofNat 24 o).toNat = o := by
    rw [BitVec.toNat_ofNat]
    exact Nat.mod_eq_of_lt ho
  have hbase : o / 8 * 8 = o := by omega
  have hone : (o + 8 + 7) / 8 - o / 8 = 1 := by omega
  rw [execDictRead, whileClocked_running hc, if_pos hup]
  simp [hoff, hbase, hone, h8, State.returns]

theorem readReg_status (same : Bool) (s : State) : readReg same s 0 = (leBytes 8 (s.statusOf pathH).toNat, s) := rfl

theorem readReg_outside {a : Nat} (same : Bool) (s : State) (h : 0 < a ∧ a < 0x1000 ∨ 0x3000 ≤ a) :
    readReg same s a = (leBytes 8 0, s) := by
  have h0 : a ≠ 0 := by omega
  have hout : a < 0x1000 ∨ 0x3000 ≤ a := by omega
  simp [readReg, h0, hout]

/-- A read of the register at offset `k` of slot `n` (R392). -/
def readField (same : Bool) (s : State) (n k : Nat) : List Byte × State :=
  match k with
  | 0 => (leBytes 8 (s.slotOf n).sel.toNat, s)
  | 16 => (leBytes 8 ((readSlot n s).slotOf n).rdata.toNat, readSlot n s)
  | 24 => ((s.slotOf n).result same, s)
  | _ => (leBytes 8 0, s)

theorem readReg_slot {n k : Nat} (same : Bool) (s : State) (hn : n < 256) (hk : k < 32) :
    readReg same s (0x1000 + 32 * n + k) = readField same s n k := by
  have h0 : 0x1000 + 32 * n + k ≠ 0 := by omega
  have hin : ¬(0x1000 + 32 * n + k < 0x1000 ∨ 0x3000 ≤ 0x1000 + 32 * n + k) := by omega
  obtain ⟨hslot, hreg⟩ := slot_of_register (n := n) hk
  simp only [readReg, h0, hslot, hreg, Bool.or_eq_true, decide_eq_true_eq, hin, if_false]
  rfl

/-! ### A slot after an access -/

theorem slotOf_setSlot {s : State} (h : wfMap Slot.init s.dict.slots = true) (n : Nat) (u : Slot) : (s.setSlot n u).slotOf n = u :=
  peek_put Slot.init h n u

/-- A slot whose access has ended with code `c` and status field `st` (R394). -/
def Slot.ended (c : Nat) (moved : Bool) (st : BitVec 16) (u : Slot) : Slot :=
  { (if moved && decide (c = 0) then u.advance else u) with code := BitVec.ofNat 8 c, status := st }

section
variable (c : Nat) (moved : Bool) (st : BitVec 16) (u : Slot)

@[simp] theorem ended_code : (u.ended c moved st).code = BitVec.ofNat 8 c := rfl

@[simp] theorem ended_rdata : (u.ended c moved st).rdata = u.rdata := by
  cases moved <;> by_cases hc : c = 0 <;> simp [Slot.ended, Slot.advance, hc]

@[simp] theorem ended_ans : (u.ended c moved st).ans = u.ans := by
  cases moved <;> by_cases hc : c = 0 <;> simp [Slot.ended, Slot.advance, hc]

/-- OFFSET advances with data of a STR or DOMAIN entry (R393). -/
theorem ended_sel_moved : (u.ended 0 true st).sel = selOf u.index u.sub (u.offset + 8) := rfl

end

theorem endAccess_running {s : State} (h : s.chip.phase ≠ .held) (n c : Nat) (moved : Bool) (g : Slot → Slot) :
    endAccess n c moved g s = s.setSlot n ((g (s.slotOf n)).ended c moved (s.statusOf pathH)) := if_neg h

/-! ### RDATA -/

theorem readSlot_waiting {s : State} {n : Nat} (h : (s.slotOf n).wait ≠ none) :
    readSlot n s = s.setSlot n { s.slotOf n with rdata := 0, ans := 0x81 } :=
  if_pos (Option.isSome_iff_ne_none.mpr h)

/-- A read of an entry changes nothing but the count of free values that it may have used. -/
theorem readEntry_state (s : State) (path i sub off n : Nat) :
    ∃ c, (s.readEntry path i sub off n).2.2 = { s with freeCtr := c } := by
  unfold State.readEntry
  split
  case h_3 =>
    split
    · exact ⟨s.freeCtr, rfl⟩
    · split <;> exact ⟨s.freeCtr + 1, rfl⟩
  all_goals exact ⟨s.freeCtr, rfl⟩

/-- The slot with the data and the code that a read of an entry gave (R394, R395). -/
def Slot.taken (u : Slot) (r : Nat × List Byte × State) : Slot :=
  { u with rdata := BitVec.ofNat 64 (leNat r.2.1), ans := BitVec.ofNat 8 r.1 }

theorem readSlot_free {s : State} {n : Nat} (hp : s.chip.phase ≠ .held) (h : (s.slotOf n).wait = none) :
    let u := s.slotOf n
    let r := s.readEntry pathH u.index u.sub u.offset 8
    ∃ c, readSlot n s =
      { s with freeCtr := c }.setSlot n ((u.taken r).ended r.1 (s.blockEntry u.index u.sub) (s.statusOf pathH)) := by
  intro u r
  have hfree : ¬(s.slotOf n).wait.isSome = true := by simp [h]
  have hread : readSlot n s = endAccess n r.1 (s.blockEntry u.index u.sub) (fun x => x.taken r) r.2.2 := if_neg hfree
  obtain ⟨c, hr⟩ : ∃ c, r.2.2 = { s with freeCtr := c } := readEntry_state s pathH u.index u.sub u.offset 8
  have hend := endAccess_running (s := { s with freeCtr := c }) hp n r.1 (s.blockEntry u.index u.sub) (fun x => x.taken r)
  exact ⟨c, hread.trans ((congrArg _ hr).trans hend)⟩

/-- OD 0x2000.01 reads as the path's status field (R402, R406). -/
theorem readEntry_status (s : State) (off : Nat) :
    s.readEntry pathH 0x2000 1 off 8 = (0, leBytes 8 (s.statusOf pathH).toNat, s.used) := by
  have hentry : s.entry 0x2000 1 = some rU16 := rfl
  have hopen : s.refuses pathH false true 0x2000 1 off = none := by
    simp only [State.refuses, hentry]
    have hknown : recoveryKnows 0x2000 = true := rfl
    simp only [hknown, Bool.not_true, Bool.and_false]
    rfl
  have hshut : s.shut 0x2000 = false := rfl
  simp only [State.readEntry, hopen, hentry, hshut]
  rfl

theorem toNat_statusWord (x : BitVec 16) : (BitVec.ofNat 64 (leNat (leBytes 8 x.toNat))).toNat = x.toNat := by
  have hx := x.isLt
  rw [leNat_leBytes, BitVec.toNat_ofNat]
  omega

/-! ### WDATA -/

/-- A write that nothing refuses is performed at once where the lookout does not keep the entry (R395, R396). -/
theorem writeData_performs {s : State} {n i sub off : Nat} {v : DWord} {e : Entry} (hfree : (s.slotOf n).wait = none)
    (hi : (s.slotOf n).index = i) (hsub : (s.slotOf n).sub = sub) (hoff : (s.slotOf n).offset = off)
    (hok : s.refusesWrite pathH true i sub off (leBytes 8 v.toNat) = none) (he : s.entry i sub = some e)
    (hkeep : lookoutKeeps i sub = false) :
    writeData n v s =
      (let r := s.perform pathH i sub off e.ty (leBytes 8 v.toNat)
       endAccess n r.1 (s.blockEntry i sub) id r.2) := by
  subst hi hsub hoff
  simp only [writeData, hfree, hok, he, hkeep]
  rfl

/-- Without a run of debugger writes a write of an entry ends none (R525). -/
theorem closeRun_quiet {s : State} (h : s.dict.runs = []) (path i sub off : Nat) : closeRun path i sub off s = s := by
  simp only [closeRun, flushRuns, h, List.filter_nil, List.foldl_nil]
  rw [← h]

/-! ### STATUS_CLEAR -/

theorem refusesWrite_statusClear (s : State) {v : DWord} (hv : v.toNat < 2 ^ 16) :
    s.refusesWrite pathH true 0x2000 2 0 (leBytes 8 v.toNat) = none := by
  have hentry : s.entry 0x2000 2 = some wU16 := rfl
  have hknown : recoveryKnows 0x2000 = true := rfl
  have hopen : s.refuses pathH true true 0x2000 2 0 = none := by
    simp only [State.refuses, hentry, hknown, Bool.not_true, Bool.and_false]
    rfl
  have hfits : wU16.ty.fits (valueOf wU16.ty (leBytes 8 v.toNat)) = true := by
    change decide (leNat (leBytes 8 v.toNat) < 2 ^ 16) = true
    rw [leNat_leBytes_word]
    exact decide_eq_true hv
  simp only [State.refusesWrite, hopen, hentry, hfits, if_true]

theorem perform_statusClear {s : State} (v : DWord) (hlock : s.look.lock = false) (hquiet : s.dict.runs = []) :
    s.perform pathH 0x2000 2 0 wU16.ty (leBytes 8 v.toNat) = (0, clearStatus pathH (v.truncate 16) s) := by
  have hopen : ∀ w, s.lockRefuses pathH 0x2000 2 w = false := fun w => by simp [State.lockRefuses, hlock]
  have hshut : s.shut 0x2000 = false := rfl
  have hstore : storeEntry pathH 0x2000 2 0 wU16.ty (leBytes 8 v.toNat) s = .ok (clearStatus pathH (v.truncate 16) s) := by
    change Except.ok (clearStatus pathH (BitVec.ofNat 16 (leNat (leBytes 8 v.toNat))) s) = _
    rw [leNat_leBytes_word, BitVec.ofNat_toNat]
  simp only [State.perform, hopen, hshut, closeRun_quiet hquiet, hstore, Bool.false_eq_true, if_false]

/-- The host's write of OD 0x2000.02 clears bits of path H's copy, and the slot takes the code (R394, R404). -/
theorem execStatusClear_clears {s : State} {slot : BitVec 8} {v : DWord} (h : PathH s slot.toNat)
    (hwf : wfMap Slot.init s.dict.slots = true) (hv : v.toNat < 2 ^ 16) :
    let t := clearStatus pathH (v.truncate 16) (writeSel slot.toNat (selOf 0x2000 2 0) s)
    execStatusClear slot v s =
      .next (t.setSlot slot.toNat ((t.slotOf slot.toNat).ended 0 false (t.statusOf pathH))) := by
  obtain ⟨hclocks, hup, hout, -, hfree, hlock, hquiet⟩ := h
  intro t
  have hslot := slotOf_setSlot hwf slot.toNat { s.slotOf slot.toNat with sel := selOf 0x2000 2 0 &&& 0xFFFFFFFFFFFFFF00 }
  have hindex : fld (selOf 0x2000 2 0 &&& 0xFFFFFFFFFFFFFF00).toNat 48 16 = 0x2000 := by decide
  have hsub : fld (selOf 0x2000 2 0 &&& 0xFFFFFFFFFFFFFF00).toNat 40 8 = 2 := by decide
  have hoff : fld (selOf 0x2000 2 0 &&& 0xFFFFFFFFFFFFFF00).toNat 8 32 = 0 := by decide
  have hdata := writeData_performs (s := writeSel slot.toNat (selOf 0x2000 2 0) s) (n := slot.toNat) (v := v)
    (i := 0x2000) (sub := 2) (off := 0) (e := wU16)
    ((congrArg Slot.wait hslot).trans hfree) ((congrArg Slot.index hslot).trans hindex)
    ((congrArg Slot.sub hslot).trans hsub) ((congrArg Slot.offset hslot).trans hoff)
    (refusesWrite_statusClear _ hv) rfl rfl
  rw [execStatusClear, whileClocked_running hclocks, hostWrite, if_pos hup, hdata]
  have hperform := perform_statusClear (s := writeSel slot.toNat (selOf 0x2000 2 0) s) v hlock hquiet
  simp only [hperform]
  exact congrArg Host.Outcome.next (endAccess_running (s := t) hout slot.toNat 0 false id)

/-! ### One register of a slot, read -/

section
variable {s : State} {n : Nat} (hc : s.clocked = true) (hup : s.chip.cxlUp = true) (hn : n < 256)
include hc hup hn

/-- A read of one whole register of a slot (R392, R395). -/
theorem execDictRead_slot {k : Nat} (hk : k < 32) (h8 : k % 8 = 0) :
    execDictRead ⟨BitVec.ofNat 24 (0x1000 + 32 * n + k), 8⟩ s =
      .next ((readField false s n k).2.returns ((readField false s n k).1.take 8)) := by
  rw [execDictRead_word hc hup (by omega) (by omega), readReg_slot false s hn hk]

theorem execDictRead_rdata :
    execDictRead ⟨BitVec.ofNat 24 (0x1010 + 32 * n), 8⟩ s =
      .next ((readSlot n s).returns (leBytes 8 ((readSlot n s).slotOf n).rdata.toNat)) := by
  rw [show 0x1010 + 32 * n = 0x1000 + 32 * n + 16 by omega]
  exact execDictRead_slot hc hup hn (by decide) rfl

/-- While a write waits, a read of RDATA is not performed (R396). -/
theorem execDictRead_rdata_waiting (hwf : wfMap Slot.init s.dict.slots = true) (hwait : (s.slotOf n).wait ≠ none) :
    ∃ t, execDictRead ⟨BitVec.ofNat 24 (0x1010 + 32 * n), 8⟩ s = .next t ∧
      t.slotOf n = { s.slotOf n with rdata := 0, ans := 0x81 } ∧ t.dict.winOut = leBytes 8 0 ∧ t.job = s.job ∧
      t.folds = s.folds ∧ t.look = s.look := by
  have hslot := slotOf_setSlot hwf n { s.slotOf n with rdata := 0, ans := 0x81 }
  refine ⟨_, execDictRead_rdata hc hup hn, ?_⟩
  rw [readSlot_waiting hwait]
  exact ⟨hslot, congrArg (fun u : Slot => leBytes 8 u.rdata.toNat) hslot, rfl, rfl, rfl⟩

/-- Without a waiting write a read of RDATA reads the entry that SEL selects (R394, R395). -/
theorem execDictRead_rdata_free (hp : s.chip.phase ≠ .held) (hwf : wfMap Slot.init s.dict.slots = true)
    (hfree : (s.slotOf n).wait = none) :
    let u := s.slotOf n
    let r := s.readEntry pathH u.index u.sub u.offset 8
    ∃ t, execDictRead ⟨BitVec.ofNat 24 (0x1010 + 32 * n), 8⟩ s = .next t ∧
      t.slotOf n = (u.taken r).ended r.1 (s.blockEntry u.index u.sub) (s.statusOf pathH) ∧
      t.dict.winOut = leBytes 8 (t.slotOf n).rdata.toNat ∧ t.job = s.job ∧ t.folds = s.folds ∧ t.look = s.look := by
  intro u r
  obtain ⟨c, hread⟩ := readSlot_free hp hfree
  have hslot := slotOf_setSlot (s := { s with freeCtr := c }) hwf n
    ((u.taken r).ended r.1 (s.blockEntry u.index u.sub) (s.statusOf pathH))
  refine ⟨_, execDictRead_rdata hc hup hn, ?_⟩
  rw [hread]
  exact ⟨hslot, rfl, rfl, rfl, rfl⟩

end

/-! ### The statement -/

/-- Settles O47: an aligned access of a word reaches one register, the registers of a slot act on the entry that SEL selects, and
STATUS_CLEAR is such a write of OD 0x2000.02. -/
theorem windowSlotsAccessEntries : Obligations.WindowSlotsAccessEntries := by
  unfold Obligations.WindowSlotsAccessEntries
  intro s slot n u hc hup hp hwf
  have hn : n < 256 := slot.isLt
  refine ⟨fun o data hd => ⟨fun _ ho => ?_, fun ho => ?_, fun h8 hout => ?_⟩,
    ⟨?_, ?_, ?_, ?_, fun o ho h8 hout => ?_, fun hwait => ?_, fun hfree => ?_⟩, fun v hready hv hst => ?_⟩
  · exact execDictWrite_slot hc hup hn hd (k := 0) ho (by decide) rfl
  · exact execDictWrite_slot hc hup hn hd (k := 8) (by omega) (by decide) rfl
  · exact (execDictWrite_word hc hup hd h8).trans (by rw [writeReg_outside data s hout])
  · exact execDictRead_word hc hup (by decide) rfl
  · exact execDictRead_slot hc hup hn (k := 0) (by decide) rfl
  · rw [show 0x1008 + 32 * n = 0x1000 + 32 * n + 8 by omega]
    exact execDictRead_slot hc hup hn (by decide) rfl
  · rw [show 0x1018 + 32 * n = 0x1000 + 32 * n + 24 by omega]
    exact execDictRead_slot hc hup hn (by decide) rfl
  · have hzero := execDictRead_word hc hup ho h8
    rw [readReg_outside false s (by omega)] at hzero
    exact hzero
  · exact execDictRead_rdata_waiting hc hup hn hwf hwait
  · intro r
    obtain ⟨t, ht, hslot, hwin, hframe⟩ := execDictRead_rdata_free hc hup hn hp hwf hfree
    have hdata : (t.slotOf n).rdata = BitVec.ofNat 64 (leNat r.2.1) := (congrArg Slot.rdata hslot).trans (ended_rdata ..)
    refine ⟨t, ht, (congrArg Slot.ans hslot).trans (ended_ans ..), congrArg Slot.code hslot, hdata, hwin, hframe.1,
      hframe.2.1, hframe.2.2, fun hr hblock => ?_, fun hi hsub => ?_⟩
    · rw [hr, hblock] at hslot
      exact congrArg Slot.sel hslot
    · have hr : r = (0, leBytes 8 (s.statusOf pathH).toNat, s.used) := by
        rw [← readEntry_status s u.offset, ← hi, ← hsub]
      rw [hdata, hr]
      exact toNat_statusWord _
  · have hslots : wfMap Slot.init (clearStatus pathH (v.truncate 16) (writeSel n (selOf 0x2000 2 0) s)).dict.slots = true :=
      wfMap_put _ _ _ hwf
    refine ⟨_, execStatusClear_clears hready hwf hv, ?_, peek_put 0 hst pathH _, peek_put_other 0 _ _ (by decide),
      peek_put_other 0 _ _ (by decide), rfl⟩
    rw [slotOf_setSlot hslots]
    rfl

end Sys2Proof.Machine
end
